-- ==== Sys2Proof/Word.lean ====
section
/-! DEFINITION. The word types of the Salnel (00_scope R2: bit 0 is the least significant bit of every word). -/

namespace Sys2Proof

/-- A byte of memory. -/
abbrev Byte := BitVec 8
/-- A 32-bit register, special or record field. -/
abbrev Word := BitVec 32
/-- A 64-bit register pair or 64-bit system register. -/
abbrev DWord := BitVec 64
/-- A 57-bit virtual byte address; every program counter is one (R25). -/
abbrev VAddr := BitVec 57
/-- A mask over the 32 lanes of a warp. -/
abbrev Mask := BitVec 32
/-- A 96-bit instruction word (R38). -/
abbrev IWord := BitVec 96

end Sys2Proof
end

