-- ==== Sys2Proof/Config.lean ====
section
/-! DEFINITION. What the spec leaves to the part, as constants with no body: no proof can see their values, so a claim
holds whatever they are. Each is named in the assumption log. -/

namespace Sys2Proof.Config

open Sys2Proof

/-- The set of a slice that a 128-byte line belongs to (R216 names sets and ways and gives no index). -/
opaque l2Set : Nat → Nat

/-- Which line or entry a full cache, TLB or set lets go (R216, R238, R264): the choice, by number. -/
opaque victim : Nat → Nat

/-- The result a part returns for an approximated function (R153): function number, numerics version, operand. Used
only where it lies within the bounds of Table 8. -/
opaque approx : Nat → Nat → Word → Word

/-- A value the spec leaves open, by number. -/
opaque freeWord : Nat → Word

/-- The same, a byte. -/
opaque freeByte : Nat → Byte

/-- The key of the device under which provenance records are authenticated (R339), and the identity held in fuses
(R426). -/
opaque deviceKey : List Byte
opaque devId : BitVec 64

/-- The code by which the black box names a kind of event (R434). -/
opaque boxKind : Nat → BitVec 16

/-- Firmware images (R425): whether both signatures of an image verify, and its version. -/
opaque imageSigned : List Byte → Bool
opaque imageVersion : List Byte → Nat

/-- The measurement of the image that runs at reset, byte by byte. -/
opaque firmwareByte : Nat → Byte

/-- Signatures (R426, R430): the bytes of an ECDSA P-384 signature by the identity key, the how-manieth made, over a digest; of
the LMS public key of a boot; and of an LMS signature by a boot's tree and leaf over a message. -/
opaque ecdsaByte : Nat → List Byte → Nat → Byte
opaque lmsPublicByte : Nat → Nat → Byte
opaque lmsByte : Nat → Nat → List Byte → Nat → Byte

end Sys2Proof.Config
end

