-- ==== Sys2Proof/Syntax.lean ====
section
/-! DEFINITION. The syntax: operands, the operand record of each instruction format (02_instruction_word R47 to R56),
and the ONE inductive Instr, one constructor per row of spec/opcode_table.json. The first 140 rows are instructions of
the 96-bit word; the remaining 87 rows are steps of the part, of its driver or of its surroundings, which have no
encoding. -/

namespace Sys2Proof

/-- The special registers of Table 6 (R43), in selector order from 0x140. -/
inductive Special where
  | lane | warp | core | group | tcX | tcY | tcZ | bshapeX | bshapeY | bshapeZ | bid | nbid | cid | ncid
  | cshape | cpos | stage | home | key | msrc | amask | fstat | tstat | cpstat
  deriving DecidableEq, Repr

/-- A register operand named by a 9-bit selector (R40). Reserved selectors are no operand: the decoder refuses them. -/
inductive Sel where
  /-- vector register `vn` of the thread -/
  | v (n : BitVec 8)
  /-- uniform register `kn` of the warp -/
  | k (n : BitVec 6)
  /-- special register, read-only -/
  | sp (r : Special)
  /-- `z`, selector 0x1FF; also the value of an unused selector (R46) -/
  | z
  deriving DecidableEq, Repr

/-- Source B of formats R and P (R47, R48): a register, or a word of a constant window. -/
inductive BSrc where
  | reg (r : Sel)
  | win (w : BitVec 3) (off : BitVec 17)
  deriving DecidableEq, Repr

/-- The type codes of Table 15 (R57), in code order. -/
inductive Ty where
  | s32 | n32 | s16 | n16 | s8 | n8 | s64 | n64 | f32 | f16 | bf16 | dt8 | b1 | b8 | b16 | b32 | b64 | b128
  | f16x2 | bf16x2
  deriving DecidableEq, Repr

/-- The guard of the instruction header (R38, R39). -/
structure Guard where
  tt : BitVec 8
  ga : BitVec 3
  gb : BitVec 3
  gc : BitVec 3
  deriving DecidableEq, Repr

/-- Format R (R47). Unused selectors are `z`, an unused B is `reg z`, other unused fields are 0 (R46). -/
structure ROps where
  d : Sel
  a : Sel
  c : Sel
  b : BSrc
  ty : Ty
  mod : BitVec 16
  deriving DecidableEq, Repr

/-- Format I (R49). -/
structure IOps where
  d : Sel
  a : Sel
  c : Sel
  imm : BitVec 32
  ty : Ty
  mod : BitVec 5
  deriving DecidableEq, Repr

/-- Format P (R50). -/
structure POps where
  pt : BitVec 3
  pf : BitVec 3
  cmb : BitVec 2
  cc : BitVec 4
  a : Sel
  b : BSrc
  ty : Ty
  deriving DecidableEq, Repr

/-- `pset` in format P (R51). -/
structure PsetOps where
  pt : BitVec 3
  pf : BitVec 3
  cmb : BitVec 2
  q3 : BitVec 3
  q2 : BitVec 3
  q1 : BitVec 3
  tq : BitVec 8
  deriving DecidableEq, Repr

/-- `ppoint` in format R, three of whose fields are immediates (R401). -/
structure PpointOps where
  plm : BitVec 7
  prsm : BitVec 16
  accm : BitVec 16
  deriving DecidableEq, Repr

/-- Format M (R52). -/
structure MOps where
  d : Sel
  a : Sel
  x : Sel
  off : BitVec 24
  xs : BitVec 2
  sp : BitVec 3
  ty : Ty
  lc : BitVec 2
  aop : BitVec 6
  deriving DecidableEq, Repr

/-- Format C (R54). -/
structure COps where
  disp : BitVec 32
  a : Sel
  cb : BitVec 4
  mod : BitVec 24
  deriving DecidableEq, Repr

/-- Format W (R55). -/
structure WOps where
  nld : BitVec 7
  nst : BitVec 7
  ncp : BitVec 7
  nmx : BitVec 7
  deriving DecidableEq, Repr

/-- Format X (R56). -/
structure XOps where
  acc : BitVec 4
  prs : BitVec 4
  aop : Sel
  skp : Sel
  opt : BitVec 3
  tya : Ty
  kst : BitVec 13
  asrc : BitVec 2
  mod : BitVec 20
  deriving DecidableEq, Repr

/-- Where an uncorrectable error strikes (R431): a 32-byte sector of the channels by its number, of a block's SRAM, of a core-pinned
frame (the position in the frames of a cluster), of a block's press region or of one of its tiles; or an SRAM of a core that holds
none of these (assumption 69). -/
inductive ErrorSite where
  | memory (sector : Nat)
  | blockSram (ctx cluster bid sector : Nat)
  | frame (ctx cluster sector : Nat)
  | press (ctx cluster bid sector : Nat)
  | tile (ctx cluster bid tile sector : Nat)
  | other (core : Nat)
  deriving DecidableEq, Repr

/-- The engines that acknowledge a stop to the collector (R400, Table 2 of 18_preemption_and_context). -/
inductive Engine where
  | vector (core : Nat)
  | matrix (core : Nat)
  | copy (core : Nat)
  | sorter (group : Nat)
  | messages (core : Nat)
  deriving DecidableEq, Repr

/-- One constructor per row of spec/opcode_table.json, in the table's order. -/
inductive Instr where
  /-- `add` (R127): Adds sources a and b per executing lane at the width of TY, wrapping or saturating with .sat. -/
  | add (g : Guard) (o : ROps)
  /-- `sub` (R127): Subtracts b from a per executing lane at the width of TY, wrapping or saturating. -/
  | sub (g : Guard) (o : ROps)
  /-- `mul` (R127): Multiplies a by b per lane and brings the product to the width of TY. -/
  | mul (g : Guard) (o : ROps)
  /-- `mulhi` (R127): Writes the high N bits of the exact product a·b. -/
  | mulhi (g : Guard) (o : ROps)
  /-- `mad` (R127): Writes a·b + c per lane, wrapping or saturating. -/
  | mad (g : Guard) (o : ROps)
  /-- `madhi` (R127): Writes the high half of a·b plus c, wrapped. -/
  | madhi (g : Guard) (o : ROps)
  /-- `min` (R127): Writes the lesser of a and b at the signedness of TY. -/
  | min (g : Guard) (o : ROps)
  /-- `max` (R127): Writes the greater of a and b at the signedness of TY. -/
  | max (g : Guard) (o : ROps)
  /-- `abs` (R127): Writes the absolute value of a, wrapping or saturating on the most negative value. -/
  | abs (g : Guard) (o : ROps)
  /-- `neg` (R127): Writes the negation of a, wrapping or saturating. -/
  | neg (g : Guard) (o : ROps)
  /-- `sad` (R127): Writes the absolute difference of a and b plus c, wrapped. -/
  | sad (g : Guard) (o : ROps)
  /-- `dot4` (R127): Adds to c the dot product of the four byte pairs of a and b, as s32. -/
  | dot4 (g : Guard) (o : ROps)
  /-- `lea` (R127): Writes a + b·2^sh, wrapped, with b optionally sign-extended for n64. -/
  | lea (g : Guard) (o : ROps)
  /-- `and` (R129): Writes the bitwise and of a and b. -/
  | and (g : Guard) (o : ROps)
  /-- `or` (R129): Writes the bitwise or of a and b. -/
  | or (g : Guard) (o : ROps)
  /-- `xor` (R129): Writes the bitwise exclusive or of a and b. -/
  | xor (g : Guard) (o : ROps)
  /-- `bitop` (R129): Computes each result bit from the truth table TM over the bits of a, b and c. -/
  | bitop (g : Guard) (o : ROps)
  /-- `shl` (R129): Shifts a left by the amount in b, giving 0 when the amount is at least N. -/
  | shl (g : Guard) (o : ROps)
  /-- `shr` (R129): Shifts a right, zero-filled, by the amount in b. -/
  | shr (g : Guard) (o : ROps)
  /-- `sra` (R129): Shifts a right, sign-filled, by min(i, N−1). -/
  | sra (g : Guard) (o : ROps)
  /-- `rotl` (R129): Rotates a left by i mod N. -/
  | rotl (g : Guard) (o : ROps)
  /-- `rotr` (R129): Rotates a right by i mod N. -/
  | rotr (g : Guard) (o : ROps)
  /-- `clz` (R129): Writes the count of leading zeros of a as n32. -/
  | clz (g : Guard) (o : ROps)
  /-- `ctz` (R129): Writes the count of trailing zeros of a as n32. -/
  | ctz (g : Guard) (o : ROps)
  /-- `popc` (R129): Writes the number of one bits of a as n32. -/
  | popc (g : Guard) (o : ROps)
  /-- `brev` (R129): Reverses the bit order of a. -/
  | brev (g : Guard) (o : ROps)
  /-- `bfx` (R130): Extracts a field of a at pos and len from b, sign- or zero-extended. -/
  | bfx (g : Guard) (o : ROps)
  /-- `bfi` (R130): Writes c with a field at pos and len replaced from a. -/
  | bfi (g : Guard) (o : ROps)
  /-- `sel` (R131): Selects a or b per lane according to a predicate, optionally negated. -/
  | sel (g : Guard) (o : ROps)
  /-- `mov` (R131): Copies source b to D, extended under R128. -/
  | mov (g : Guard) (o : ROps)
  /-- `movi` (R131): Writes the 32-bit immediate, extended for 64-bit types. -/
  | movi (g : Guard) (o : IOps)
  /-- `addi` (R131): Adds the sign-extended immediate to a, wrapping or saturating. -/
  | addi (g : Guard) (o : IOps)
  /-- `shfl` (R132): Moves a value to each lane from a source lane chosen by mode and segment width, reading 0 from non-executing lanes. -/
  | shfl (g : Guard) (o : ROps)
  /-- `vote.any` (R133): Writes 1 to every executing lane if any executing lane has the predicate set. -/
  | voteAny (g : Guard) (o : ROps)
  /-- `vote.all` (R133): Writes 1 to every executing lane if every executing lane has the predicate set. -/
  | voteAll (g : Guard) (o : ROps)
  /-- `vote.mask` (R133): Writes the mask of executing lanes whose predicate is set. -/
  | voteMask (g : Guard) (o : ROps)
  /-- `match.any` (R133): Writes per lane the mask of executing lanes whose a equals its own. -/
  | matchAny (g : Guard) (o : ROps)
  /-- `match.all` (R133): Writes the executing-lane mask if all executing a are equal, else 0. -/
  | matchAll (g : Guard) (o : ROps)
  /-- `rdlane` (R134): Gives every executing lane the value of A from one named lane. -/
  | rdlane (g : Guard) (o : ROps)
  /-- `wscan` (R135): Writes an inclusive or exclusive scan of A over the executing lanes in ascending order. -/
  | wscan (g : Guard) (o : ROps)
  /-- `wred` (R135): Writes the reduction of A over all executing lanes to each of them. -/
  | wred (g : Guard) (o : ROps)
  /-- `fadd` (R151): Adds two floats with one rounding under RM and sets flags in %fstat. -/
  | fadd (g : Guard) (o : ROps)
  /-- `fsub` (R151): Subtracts two floats with one rounding under RM. -/
  | fsub (g : Guard) (o : ROps)
  /-- `fmul` (R151): Multiplies two floats with one rounding under RM. -/
  | fmul (g : Guard) (o : ROps)
  /-- `ffma` (R151): Computes a·b + c exactly and rounds once. -/
  | ffma (g : Guard) (o : ROps)
  /-- `fmin` (R152): Returns the lesser float, with −0 below +0 and NaN handling of R152. -/
  | fmin (g : Guard) (o : ROps)
  /-- `fmax` (R152): Returns the greater float, with NaN handling of R152. -/
  | fmax (g : Guard) (o : ROps)
  /-- `frcp` (R153): Returns an approximate reciprocal within the bounds of Table 8. -/
  | frcp (g : Guard) (o : ROps)
  /-- `frsq` (R153): Returns an approximate reciprocal square root. -/
  | frsq (g : Guard) (o : ROps)
  /-- `fsqrt` (R153): Returns the correctly rounded square root under RM. -/
  | fsqrt (g : Guard) (o : ROps)
  /-- `fex2` (R153): Returns an approximation of 2^a. -/
  | fex2 (g : Guard) (o : ROps)
  /-- `flg2` (R153): Returns an approximation of log2 a. -/
  | flg2 (g : Guard) (o : ROps)
  /-- `fsin` (R153): Returns an approximation of sin a in radians. -/
  | fsin (g : Guard) (o : ROps)
  /-- `fcos` (R153): Returns an approximation of cos a in radians. -/
  | fcos (g : Guard) (o : ROps)
  /-- `frnd` (R151): Rounds a to an integral value of its own format under RM. -/
  | frnd (g : Guard) (o : ROps)
  /-- `fscale` (R154): Returns a·2^b rounded once under RM. -/
  | fscale (g : Guard) (o : ROps)
  /-- `fdot2` (R155): Forms a0·b0 + a1·b1 + c exactly from packed 16-bit elements and rounds once to f32. -/
  | fdot2 (g : Guard) (o : ROps)
  /-- `fclass` (R156): Writes a one-hot class mask of the float operand. -/
  | fclass (g : Guard) (o : ROps)
  /-- `fclass.take` (R156): Reads %fstat into D and clears it in the same issue. -/
  | fclassTake (g : Guard) (o : ROps)
  /-- `cvt` (R157): Converts A between integer and float types under RM and .sat. -/
  | cvt (g : Guard) (o : ROps)
  /-- `pack2` (R158): Rounds two f32 sources into a packed f16x2 or bf16x2 result. -/
  | pack2 (g : Guard) (o : ROps)
  /-- `dtdec` (R159): Decodes one DT8 element with an E8 scale to f32. -/
  | dtdec (g : Guard) (o : ROps)
  /-- `dtenc` (R160): Encodes an f32 value with a scale into the canonical DT8 code in one byte of C. -/
  | dtenc (g : Guard) (o : ROps)
  /-- `icmp` (R123): Compares integers and folds the condition into the predicate pair under CMB. -/
  | icmp (g : Guard) (o : POps)
  /-- `fcmp` (R149): Compares floats and folds the condition into the predicate pair, raising invalid as stated. -/
  | fcmp (g : Guard) (o : POps)
  /-- `pset` (R125): Forms a condition from a truth table over three predicates and folds it into the pair. -/
  | pset (g : Guard) (o : PsetOps)
  /-- `btst` (R124): Tests one bit of a and folds it into the predicate pair. -/
  | btst (g : Guard) (o : POps)
  /-- `pmov` (R126): Writes p1–p7 into bits of a register. -/
  | pmovToReg (g : Guard) (o : ROps)
  /-- `pmov` (R126): Writes register bits into the predicates selected by a mask. -/
  | pmovToPred (g : Guard) (o : ROps)
  /-- `ld` (R176): Issues a load per executing lane whose destination is written when the data returns. -/
  | ld (g : Guard) (o : MOps)
  /-- `st` (R176): Issues a write-through store per executing lane that returns a write completion time. -/
  | st (g : Guard) (o : MOps)
  /-- `ldc` (R190): Reads a constant window at per-lane offsets through the constant cache. -/
  | ldc (g : Guard) (o : MOps)
  /-- `atom` (R180): Performs a read-modify-write at the home per executing lane and returns the old value. -/
  | atom (g : Guard) (o : MOps)
  /-- `red` (R180): Performs a reduction at the home per executing lane without returning a value. -/
  | red (g : Guard) (o : MOps)
  /-- `pref` (R185): Brings a line into the L1 or L2, or is dropped without trace. -/
  | pref (g : Guard) (o : MOps)
  /-- `bra` (R96): Transfers the executing lanes to a PC-relative target, possibly diverging. -/
  | bra (g : Guard) (o : COps)
  /-- `brx` (R97): Branches each lane through a table of N fetch-line entries by its index. -/
  | brx (g : Guard) (o : COps)
  /-- `call` (R98): Writes the return address into a register pair and transfers to the target. -/
  | call (g : Guard) (o : COps)
  /-- `ret` (R98): Transfers each lane to the address held in a register pair. -/
  | ret (g : Guard) (o : COps)
  /-- `loop` (R100): Pushes a hardware loop frame with the count or skips an empty or zero-count body. -/
  | loop (g : Guard) (o : COps)
  /-- `loop.exit` (R102): Pops the innermost loop frame and transfers to the target. -/
  | loopExit (g : Guard) (o : COps)
  /-- `exit` (R103): Ends the thread of each executing lane and withdraws it from its convergence barriers. -/
  | exit (g : Guard) (o : COps)
  /-- `join.enrol` (R104): Sets the lane's bit in the enrolled mask of a convergence barrier. -/
  | joinEnrol (g : Guard) (o : COps)
  /-- `join.wait` (R104): Marks an enrolled lane arrived and waiting, releasing all when arrived equals enrolled. -/
  | joinWait (g : Guard) (o : COps)
  /-- `join.leave` (R104): Clears the lane from a convergence barrier and retests it. -/
  | joinLeave (g : Guard) (o : COps)
  /-- `yield` (R106): Ends the turn of the issuing path. -/
  | yield (g : Guard) (o : COps)
  /-- `nop` (R108): Takes one issue slot and has no other effect. -/
  | nop (g : Guard) (o : ROps)
  /-- `brk` (R109): With BKEN set, halts the warp or context warps at a breakpoint and posts a record. -/
  | brk (g : Guard) (o : COps)
  /-- `wait` (R198): Holds the path until the LD, ST, CP and MX counters are at or below the limits. -/
  | wait (g : Guard) (o : WOps)
  /-- `fence` (R270): Holds the executing lanes until the conditions of the chosen scope hold. -/
  | fence (g : Guard) (o : ROps)
  /-- `bar.arrive` (R367): Arrives at a named block barrier as a release event without waiting. -/
  | barArrive (g : Guard) (o : ROps)
  /-- `bar.wait` (R367): Waits on a named block barrier until the lane's arrival phase completes. -/
  | barWait (g : Guard) (o : ROps)
  /-- `bar.sync` (R367): Arrives at and waits on a named block barrier. -/
  | barSync (g : Guard) (o : ROps)
  /-- `cbar.arrive` (R370): Arrives at the cluster barrier at the origin core. -/
  | cbarArrive (g : Guard) (o : ROps)
  /-- `cbar.wait` (R370): Waits on the cluster barrier. -/
  | cbarWait (g : Guard) (o : ROps)
  /-- `cbar.sync` (R370): Arrives at and waits on the cluster barrier. -/
  | cbarSync (g : Guard) (o : ROps)
  /-- `sring.post` (R372): Inverts a stage-ring slot bit once per block after a release hold. -/
  | sringPost (g : Guard) (o : ROps)
  /-- `sring.wait` (R372): Holds each block's lanes until their ring slot bit equals the phase. -/
  | sringWait (g : Guard) (o : ROps)
  /-- `rgn` (R244): Sets the region entry PC, snapshots the loop frames and increments the region counter. -/
  | rgn (g : Guard) (o : COps)
  /-- `ppoint` (R402): With a soft request pending, stops the warp and declares its live predicates, tiles and bindings. -/
  | ppoint (g : Guard) (o : PpointOps)
  /-- `trap` (R410): Makes the context take user-trap. -/
  | trap (g : Guard) (o : ROps)
  /-- `launch` (R397): Appends one launch record per executing lane to a device-appendable queue. -/
  | launch (g : Guard) (o : ROps)
  /-- `snooze` (R107): Ends the turn and makes the executing lanes wait for a count of core cycles. -/
  | snooze (g : Guard) (o : ROps)
  /-- `mma` (R292): Queues a matrix multiply-accumulate over the Masala pair on an accumulator tile. -/
  | mma (g : Guard) (o : XOps)
  /-- `tfill` (R299): Queues a fill of every tile element with a register value. -/
  | tfill (g : Guard) (o : XOps)
  /-- `tfill.id` (R299): Queues a fill of every tile element with the identity of a Masala entry. -/
  | tfillId (g : Guard) (o : XOps)
  /-- `tld` (R300): Queues a load of a whole tile from memory with conversion. -/
  | tld (g : Guard) (o : XOps)
  /-- `tst` (R300): Queues a store of a whole tile to memory with conversion. -/
  | tst (g : Guard) (o : XOps)
  /-- `tmov.get` (R303): Queues a move of one tile row or column into registers. -/
  | tmovGet (g : Guard) (o : XOps)
  /-- `tmov.put` (R303): Queues a move of registers into one tile row or column. -/
  | tmovPut (g : Guard) (o : XOps)
  /-- `tmask` (R323): Queues the building of a skip map from the A operand. -/
  | tmask (g : Guard) (o : XOps)
  /-- `pbind` (R304): Queues the writing of a press binding descriptor. -/
  | pbind (g : Guard) (o : XOps)
  /-- `pfill` (R305): Queues a fill of a press binding's data or scales from memory. -/
  | pfill (g : Guard) (o : XOps)
  /-- `tbind` (R298): Queues setting a tile's type and zeroing it. -/
  | tbind (g : Guard) (o : XOps)
  /-- `cp` (R330): Starts a linear copy operation between device, host or peer spaces. -/
  | cp (g : Guard) (o : ROps)
  /-- `cp.2d` (R330): Starts a strided two-dimensional copy operation. -/
  | cp2d (g : Guard) (o : ROps)
  /-- `gath` (R333): Starts a gather of table rows named by an index list. -/
  | gath (g : Guard) (o : ROps)
  /-- `scat` (R333): Starts a scatter or scatter-reduce of rows into a table by an index list. -/
  | scat (g : Guard) (o : ROps)
  /-- `probe` (R337): Starts an operation that translates and pins the pages of a range. -/
  | probe (g : Guard) (o : ROps)
  /-- `unpin` (R337): Starts an operation that lowers pin counts over a range. -/
  | unpin (g : Guard) (o : ROps)
  /-- `rstrp` (R223): Starts an operation that moves live pages to a target geometry. -/
  | rstrp (g : Guard) (o : ROps)
  /-- `discard` (R220): Starts an operation that invalidates L2 lines carrying a tensor tag. -/
  | discard (g : Guard) (o : ROps)
  /-- `cpseal` (R339): Starts a copy of sealed pages to host memory followed by a provenance record. -/
  | cpseal (g : Guard) (o : ROps)
  /-- `sortw` (R350): Checks, holds for counters and sorter room, and sends the executing threads to baskets by key. -/
  | sortw (g : Guard) (o : ROps)
  /-- `sortq.key` (R361): Asks the sorter for the thread count in one basket of the lane's stage. -/
  | sortqKey (g : Guard) (o : ROps)
  /-- `sortq.all` (R361): Asks the sorter for the thread count in all baskets of the domain. -/
  | sortqAll (g : Guard) (o : ROps)
  /-- `sortd` (R361): Marks every non-empty basket of the domain for drain. -/
  | sortd (g : Guard) (o : ROps)
  /-- `sortd.key` (R361): Marks one basket of the warp's stage for drain. -/
  | sortdKey (g : Guard) (o : ROps)
  /-- `sortc` (R361): Withdraws the executing threads from quiescence counting. -/
  | sortc (g : Guard) (o : ROps)
  /-- `sortc.join` (R361): Makes the executing threads count for quiescence again. -/
  | sortcJoin (g : Guard) (o : ROps)
  /-- `msend` (R375): Sends one active message per executing lane to a handler on a core of the cluster. -/
  | msend (g : Guard) (o : ROps)
  /-- `mdone` (R379): Ends each executing handler thread as exit does. -/
  | mdone (g : Guard) (o : ROps)
  /-- `sysrd` (R419): Reads a system register once as a device-scope acquire. -/
  | sysrd (g : Guard) (o : ROps)
  /-- `syswr` (R419): Writes a system register from the lowest executing lane as a device-scope release. -/
  | syswr (g : Guard) (o : ROps)
  /-- `tlbinv.ctx` (R241): Removes every TLB entry of the issuing context on both dies. -/
  | tlbinvCtx (g : Guard) (o : ROps)
  /-- `tlbinv.range` (R241): Removes the TLB entries of a range of 64 KiB units. -/
  | tlbinvRange (g : Guard) (o : ROps)
  /-- `tlbinv.all` (R241): Removes every TLB entry of every context. -/
  | tlbinvAll (g : Guard) (o : ROps)
  /-- `cinv` (R241): Discards the lines of the selected instruction or constant caches on every core. -/
  | cinv (g : Guard) (o : ROps)
  /-- `gtime` (R260): Writes the core's copy of global time to a register pair. -/
  | gtime (g : Guard) (o : ROps)
  /-- `hlt` (R420): Halts the context without a trap code and raises vector 6. -/
  | hlt (g : Guard) (o : ROps)
  /-- `PARITY_REFETCH` (R32): Refetches a line from the L2 after a parity mismatch and counts a corrected error or takes the instruction-parity machine check. -/
  | parityRefetch (core slot : Nat)
  /-- `FAIRNESS_TIMER_EXPIRY` (R88): The fairness count reaching T ends the turn when another path is runnable, and otherwise restarts. -/
  | fairnessTimerExpiry (core slot : Nat)
  /-- `WATCHDOG_EXPIRY` (R89): A lane that has not issued for WDOG core cycles becomes stalled and one stall record is posted for its warp. -/
  | watchdogExpiry (core slot : Nat)
  /-- `SNOOZE_EXPIRY` (R107): The snooze count ends and the waiting lanes become runnable at the next slot. -/
  | snoozeExpiry (core slot : Nat)
  /-- `REJECTION_AGE_LIMIT` (R203): An age of 64 reserves every freed miss-status entry for the oldest such warp and gives it issue priority. -/
  | rejectionAgeLimit (core : Nat)
  /-- `LOAD_DATA_RETURN` (R177): Load or atomic data returns and is written to the lane's destination, completing its part of the instruction. -/
  | loadDataReturn (req : Nat)
  /-- `HOME_WRITE_PERFORM` (R266): A store, reduction or atomic is performed at its home, which computes its write completion time from the lease record. -/
  | homeWritePerform (req : Nat)
  /-- `WRITE_COMPLETION_RETURN` (R267): A returned write completion time is folded into the thread's VIS and PW falls. -/
  | writeCompletionReturn (req : Nat)
  /-- `FENCE_PASS` (R270): A held fence or release passes once PW and MC are zero and the core's GT exceeds VIS. -/
  | fencePass (core slot : Nat)
  /-- `L1_FILL_SERVE` (R264): A slice serves a fill into an L1 and grants the copy an expiry of GT plus LEASE. -/
  | l1FillServe (core line : Nat)
  /-- `LEASE_EXPIRY` (R264): An L1 copy becomes invalid once the core's GT reaches its expiry. -/
  | leaseExpiry (core line : Nat)
  /-- `SLICE_EVICTION` (R216): A slice writes back or evicts an unlocked line and folds a live lease expiry into EV. -/
  | sliceEviction (line : Nat)
  /-- `TLB_WALK` (R237): A page-table walk reads entries in table space and translates the access or raises a fault or access-violation. -/
  | tlbWalk (core ctx va : Nat)
  /-- `FRANS_SUCCESS` (R255): A success answer removes TLB entries, replays mend-log entries and releases the waiters of the range. -/
  | fransSuccess (w : DWord)
  /-- `FRANS_FAILURE` (R256): A failure answer with a waiter in the range makes the context take fatal-translation. -/
  | fransFailure (w : DWord)
  /-- `FRHEAD_WRITE` (R254): The driver consumes records, and pending records are written into the freed space in event order. -/
  | frheadWrite (w : Word)
  /-- `FRSIZE_WRITE` (R252): Writing a valid ring size makes the ring usable and writes pending records. -/
  | frsizeWrite (w : Word)
  /-- `FRSTAT_OVF_CLEAR` (R251): Writing 1 clears the sticky overflow flag. -/
  | frstatOvfClear
  /-- `NBV_WRITE` (R146): Selects the numerics version, reaching each quadrant at an instruction boundary; writing 0 changes nothing. -/
  | nbvWrite (w : Word)
  /-- `LEASE_WRITE` (R265): Sets the lease period for fills served after it reaches each slice. -/
  | leaseWrite (w : Word)
  /-- `SLPIN_WRITE` (R216): Sets the reserved pin ways, unlocking lines in ways given up. -/
  | slpinWrite (w : Word)
  /-- `SYSTEM_REGISTER_WRITE` (R416): Writes a system register that has no behaviour of its own. -/
  | systemRegisterWrite (reg : BitVec 12) (ctx : Nat) (w : DWord)
  /-- `GROUP5_ENTRY_START` (R290): An engine-queue entry starts at the matrix engine and is checked for press-bind. -/
  | group5EntryStart (core : Nat)
  /-- `MMA_KSTEP` (R292): The array applies one k-step to all 8,192 cells as one indivisible update. -/
  | mmaKstep (core : Nat)
  /-- `GROUP5_ENTRY_COMPLETE` (R289): An engine entry completes, writes %tstat in queue order and retires its class count. -/
  | group5EntryComplete (core : Nat)
  /-- `COPY_OP_START` (R329): A copy-engine operation starts in queue order and runs its checks or probe pass. -/
  | copyOpStart (core : Nat)
  /-- `CP_CHUNK` (R331): The engine translates, checks and moves one 4 KiB chunk of a copy. -/
  | cpChunk (op : Nat)
  /-- `GATHER_PROBE_PASS` (R334): The engine translates and pins every page touched by an index operation, ending it with a code on a failed check. -/
  | gatherProbePass (op : Nat)
  /-- `GATHER_VECTOR` (R336): The engine moves or reduces the rows of 32 consecutive indices, merging equal indices. -/
  | gatherVector (op : Nat)
  /-- `CPSEAL_RECORD_WRITE` (R340): The security block takes SEQ, computes the chained TAG and writes the provenance record. -/
  | cpsealRecordWrite (op : Nat)
  /-- `RSTRP_START` (R225): The re-stripe operation makes its checks and reserves frames and return slots atomically. -/
  | rstrpStart (op : Nat)
  /-- `RSTRP_LINE_COPY` (R227): One line of a moving page is copied to the new home, which serves it from then on. -/
  | rstrpLineCopy (op : Nat)
  /-- `RSTRP_PAGE_SHOOTDOWN` (R226): The PTE's frame and geometry are rewritten atomically and every TLB entry for the page is removed. -/
  | rstrpPageShootdown (op : Nat)
  /-- `RSTRP_RETURN_ENTRY` (R226): Once old-PTE accesses are served, the return entry is written and RTAIL advances. -/
  | rstrpReturnEntry (op : Nat)
  /-- `DISCARD_SLICE_WALK` (R220): A slice judges each line of its walk and invalidates unwritten lines of tag t. -/
  | discardSliceWalk (op slice : Nat)
  /-- `COPY_OP_RETIRE` (R327): An engine operation ends, writes %cpstat, folds its W and raises engine-error with TRAP on a nonzero code. -/
  | copyOpRetire (op : Nat)
  /-- `SORTER_RUN_ACCEPT` (R353): The sorter accepts a held run, places its records in baskets or spill, and the lanes depart. -/
  | sorterRunAccept (core slot : Nat)
  /-- `BASKET_EMIT` (R356): A Full basket emits 32 threads as a warp on the chosen core and quadrant. -/
  | basketEmit (ctx cluster stage key : Nat)
  /-- `DRAIN_EMISSION` (R357): Draining baskets of one stage are concatenated by key and cut into warps. -/
  | drainEmission (ctx cluster stage : Nat)
  /-- `SPILL_READBACK` (R358): Spilled records of a thread are read back before its warp is emitted. -/
  | spillReadback (ctx cluster arr : Nat)
  /-- `BASKET_AGE_EXPIRY` (R354): A basket's age reaching BAGE marks it for drain. -/
  | basketAgeExpiry (ctx cluster stage key : Nat)
  /-- `SORTQ_REPLY` (R361): The sorter's snapshot count returns and the waiting path is released. -/
  | sortqReply (core slot : Nat)
  /-- `DOMAIN_STUCK` (R360): A domain that makes no progress for BAGE core cycles traps basket-exhaustion. -/
  | domainStuck (ctx cluster : Nat)
  /-- `MESSAGE_ARRIVAL` (R377): A message joins the destination core's pending list in send order. -/
  | messageArrival (msg : Nat)
  /-- `HANDLER_WARP_FORM` (R377): A free handler slot takes up to 32 pending messages of one handler and starts their threads, returning allowances. -/
  | handlerWarpForm (core : Nat)
  /-- `CLUSTER_RESET` (R380): A CRST write discards one cluster's synchronisation state and messages and restores allowances. -/
  | clusterReset (w : DWord)
  /-- `KILL` (R395): A KILL write ends a context, discarding its placed clusters and writing STATUS 0x90. -/
  | kill (w : Word)
  /-- `HOST_QUEUE_PUBLISH` (R384): The host advances QWR to publish complete launch records. -/
  | hostQueuePublish (queue : Nat) (wr : Word)
  /-- `LAUNCH_ACCEPT` (R388): The part reads a queue head, checks it and accepts it into the launch table or rejects it with STATUS. -/
  | launchAccept
  /-- `CLUSTER_PLACE` (R391): A ready cluster is placed on the first qualifying rectangle and all its blocks are dispatched. -/
  | clusterPlace (ctx : Nat)
  /-- `BLOCK_RETIRE` (R394): A finished block releases its SRAM, tiles, bindings, barriers and rings. -/
  | blockRetire (ctx cluster bid : Nat)
  /-- `CLUSTER_RETIRE` (R394): A cluster whose blocks and handlers are done releases its rectangle and reservations. -/
  | clusterRetire (ctx cluster : Nat)
  /-- `CMAP_BIT_SET` (R394): Once GT exceeds the cluster's largest VIS, its completion bit is set and the launch may complete. -/
  | cmapBitSet (ctx cluster : Nat)
  /-- `PREEMPT_SOFT` (R400): A PRQ write with OP 1 starts a soft pre-emption of the named context. -/
  | preemptSoft (w : Word)
  /-- `PREEMPT_HARD` (R405): A PRQ write with OP 2 starts a hard pre-emption, or escalates a soft one in progress. -/
  | preemptHard (w : Word)
  /-- `RESTORE` (R408): A PRQ write with OP 3 creates a new context from an image and places its clusters. -/
  | restore (w : Word)
  /-- `ENGINE_STOP_ACK` (R400): An engine stops at its stop unit and acknowledges to the collector. -/
  | engineStopAck (engine : Engine)
  /-- `PDEADLINE_EXPIRY` (R403): A soft save not begun by the deadline becomes hard and HARD is set. -/
  | pdeadlineExpiry
  /-- `CONTEXT_SAVE` (R406): With every warp stopped or blocked and every stop acknowledged, the image is written, cores freed and DONE set. -/
  | contextSave
  /-- `DEBUG_RESUME_WARP` (R422): A DRES write of bit 0 resumes the selected breakpoint-halted warp. -/
  | debugResumeWarp (ctx : Nat)
  /-- `DEBUG_RESUME_ALL` (R422): A DRES write of bit 1 resumes every breakpoint-halted warp of the context. -/
  | debugResumeAll (ctx : Nat)
  /-- `DEBUG_WINDOW_WRITE` (R422): A host write to the PC, PRED, VREG or KREG fields of a halted warp takes effect at resume. -/
  | debugWindowWrite (ctx offset : Nat) (data : List Byte)
  /-- `HOST_WINDOW_READ` (R414): A host read through BAR 2 is performed on a host-owned page or completes with Unsupported Request. -/
  | hostWindowRead (offset size : Nat)
  /-- `HOST_WINDOW_WRITE` (R414): A host write through BAR 2 is performed on a host-owned page or dropped and counted. -/
  | hostWindowWrite (offset : Nat) (data : List Byte)
  /-- `OWNERSHIP_FLIP_TO_HOST` (R415): An OWNF1 write with DIR 0 starts a device-to-host flip of one page. -/
  | ownershipFlipToHost (w : Word)
  /-- `OWNERSHIP_FLIP_TO_DEVICE` (R415): An OWNF1 write with DIR 1 starts a host-to-device flip of one page. -/
  | ownershipFlipToDevice (w : Word)
  /-- `OWNERSHIP_FLIP_COMPLETE` (R278): Once the flip's conditions hold, OWN is written, TLB entries removed and vector 3 raised. -/
  | ownershipFlipComplete
  /-- `PEER_INBOUND_WRITE` (R424): An inbound peer write is checked, performed at its home and acknowledged once GT exceeds its W. -/
  | peerInboundWrite (port addr : Nat) (data : List Byte)
  /-- `PEER_INBOUND_READ` (R424): An inbound peer read is checked against the window and translated, or dropped and counted. -/
  | peerInboundRead (port addr size : Nat)
  /-- `PEER_LINK_DOWN` (R423): A peer port loses its link and affected operations end with code 0x47. -/
  | peerLinkDown (port : Nat)
  /-- `ATTEST` (R426): A mailbox command that returns a signed attestation report. -/
  | attest
  /-- `REGCODE` (R427): A mailbox command that registers a code range and returns a measurement slot. -/
  | regcode
  /-- `UNREGCODE` (R430): A mailbox command that frees a registered code slot. -/
  | unregcode
  /-- `SIGNHEAD` (R430): A mailbox command that signs the current cpseal chain head. -/
  | signhead
  /-- `UNSEAL` (R428): A mailbox command that zeroes a sealed frame and removes it from the sealed-frame map. -/
  | unseal
  /-- `BBREAD` (R434): A mailbox command that returns black-box records. -/
  | bbread
  /-- `FWLOAD` (R425): A mailbox command that reads, checks and stores a firmware image for the next cold reset. -/
  | fwload
  /-- `COLD_RESET` (R4): Cold reset sets every register to its reset value and starts global time at 0. -/
  | coldReset
  /-- `WARM_RESET` (R259): Warm reset, which neither restarts global time nor clears the black box. -/
  | warmReset
  /-- `SOFT_ERROR_CORRECTED` (R431): A corrected SRAM or HBM error adds one to CORRCNT. -/
  | softErrorCorrected
  /-- `UNCORRECTABLE_ERROR` (R431): An uncorrectable error adds one to UNCCNT and marks its sector poison. -/
  | uncorrectableError (at_ : ErrorSite)
  /-- `CORE_GROUP_RETIRE` (R433): A group reaching the uncorrectable threshold is retired and its contexts killed. -/
  | coreGroupRetire (group : Nat)
  /-- `CLOCK_GOVERNOR_STEP` (R435): A die's governor changes its arithmetic clock in 25 MHz steps within power and temperature limits. -/
  | clockGovernorStep (die mhz : Nat)
  /-- `THERMAL_SHUTDOWN` (R435): At 115 °C Rilcia stops both dies, records the event and raises vector 4. -/
  | thermalShutdown
  /-- `CONSTANT_CACHE_FILL` (R187): A constant-cache line fill returns from its home and is installed, releasing a path held at a window operand. -/
  | constantCacheFill (core ctx line : Nat)
  /-- `INSTRUCTION_FETCH` (R29): A fetch line returns whole, in one version, to the core's instruction cache so that its slots can issue. -/
  | instructionFetch (core ctx line : Nat)
  /-- `WRINGER_ARRIVAL` (R288): A barrier arrival, ring post or group 5 instruction sent over the wringer or mesh reaches the home or origin core, where it is counted or enters the engine queue in arrival order. -/
  | wringerArrival (msg : Nat)
  deriving DecidableEq, Repr

end Sys2Proof
end

