-- ==== Sys2Proof/WellFormed.lean ====
section
/-! DEFINITION. Well-formed instructions: the part of check 6 of Table 3 (R31) that the instruction word alone decides.
Assigned opcodes, reserved and unused fields, MOD, TY, codes and operand classes (R40 to R61 and the field tables of each
instruction). What depends on the launch (the register allocation, R41; NBV, R147; tiles) or on the PC (the end of
`loop`, R99) is judged at issue. Rows that are steps of the part have no word and are not well-formed as words. -/

namespace Sys2Proof

/-! ### Operand classes -/

/-- Width in bits of one operand of a type (Table 15). -/
def Ty.bits : Ty → Nat
  | .s8 | .n8 | .b8 | .dt8 => 8
  | .s16 | .n16 | .b16 | .f16 | .bf16 => 16
  | .s64 | .n64 | .b64 => 64
  | .b128 => 128
  | .s32 | .n32 | .f32 | .b1 | .b32 | .f16x2 | .bf16x2 => 32

/-- Registers that an operand of the type occupies (R42). -/
def Ty.regs : Ty → Nat
  | .s64 | .n64 | .b64 => 2
  | .b128 => 4
  | _ => 1

/-- May the selector be read as `w` consecutive registers (R42)? -/
def Sel.reads (w : Nat) : Sel → Bool
  | .v n => n.toNat % w == 0
  | .k n => n.toNat % w == 0
  | .sp _ => w == 1
  | .z => true

/-- May the selector be written as `w` consecutive registers (R41, R42, R114)? -/
def Sel.writes (w : Nat) : Sel → Bool
  | .v n => n.toNat % w == 0
  | .k n => n.toNat % w == 0 && 32 ≤ n.toNat
  | .sp _ => false
  | .z => true

/-- A vector register or `z`, as `w` registers. -/
def Sel.vOrZ (w : Nat) : Sel → Bool
  | .v n => n.toNat % w == 0
  | .z => true
  | _ => false

/-- What an instruction does with a register field: unused, read or written as so many registers. -/
inductive Use where
  | none
  | regs (w : Nat)
  deriving DecidableEq, Repr

/-- A source field of the stated use. -/
def Use.src (u : Use) (s : Sel) : Bool :=
  match u with
  | .none => s == .z
  | .regs w => s.reads w

/-- A destination field of the stated use. -/
def Use.dst (u : Use) (s : Sel) : Bool :=
  match u with
  | .none => s == .z
  | .regs w => s.writes w

/-- Source B of the stated use (R47, R48): an even word offset for a pair, no window for a quad. -/
def Use.srcB (u : Use) (b : BSrc) : Bool :=
  match u, b with
  | .none, .reg s => s == .z
  | .none, .win _ _ => false
  | .regs w, .reg s => s.reads w
  | .regs w, .win _ off => w == 1 || (w == 2 && off.toNat % 2 == 0)

/-- The use of format R's four register fields. -/
def ROps.uses (o : ROps) (d a b c : Use) : Bool := d.dst o.d && a.src o.a && b.srcB o.b && c.src o.c

/-- A source at the width of TY. -/
def ROps.t (o : ROps) : Use := .regs o.ty.regs

/-! ### Type lists -/

def Ty.int8to64 : List Ty := [.s8, .n8, .s16, .n16, .s32, .n32, .s64, .n64]
def Ty.int16to64 : List Ty := [.s16, .n16, .s32, .n32, .s64, .n64]
def Ty.signed : List Ty := [.s8, .s16, .s32, .s64]
def Ty.int32or64 : List Ty := [.s32, .n32, .s64, .n64]
def Ty.b32or64 : List Ty := [.b32, .b64]
def Ty.floats : List Ty := [.f32, .f16, .bf16, .f16x2, .bf16x2]
def Ty.scalarFloats : List Ty := [.f32, .f16, .bf16]

/-- Are the bits of MOD outside `mask` zero? -/
def modIn {n : Nat} (m mask : BitVec n) : Bool := m &&& ~~~mask == 0

/-! ### Group 0 (R127 to R135) -/

/-- A two-source operation of Table 4 with the `.sat` bit. -/
def ROps.arith2 (o : ROps) (tys : List Ty) (mask : BitVec 16) : Bool :=
  tys.contains o.ty && o.uses o.t o.t o.t .none && modIn o.mod mask

/-- A three-source operation of Table 4 or 5. -/
def ROps.arith3 (o : ROps) (tys : List Ty) (mask : BitVec 16) : Bool :=
  tys.contains o.ty && o.uses o.t o.t o.t o.t && modIn o.mod mask

/-- An operation on A only, at the width of TY. -/
def ROps.unary (o : ROps) (tys : List Ty) (mask : BitVec 16) : Bool :=
  tys.contains o.ty && o.uses o.t o.t .none .none && modIn o.mod mask

/-- A shift or rotate: B is one 32-bit amount (R128). -/
def ROps.shift (o : ROps) (tys : List Ty) : Bool :=
  tys.contains o.ty && o.uses o.t o.t (.regs 1) .none && o.mod == 0

/-- A count: A at the width of TY, D one 32-bit register. -/
def ROps.count (o : ROps) : Bool :=
  Ty.b32or64.contains o.ty && o.uses (.regs 1) o.t .none .none && o.mod == 0

/-- A vote with the mode `m` in MOD[1:0] (R133). -/
def ROps.vote (o : ROps) (m : BitVec 2) : Bool :=
  o.ty == .b32 && o.uses (.regs 1) .none .none .none && modIn o.mod 0x3F && o.mod.extractLsb' 0 2 == m

/-- A match with the mode in MOD[0] (R133). -/
def ROps.matching (o : ROps) (m : BitVec 16) : Bool :=
  Ty.b32or64.contains o.ty && o.uses (.regs 1) o.t .none .none && o.mod == m

/-- Types of a scan or reduction code (Table 7). -/
def scanTypes (op : Nat) : List Ty :=
  if op ≤ 2 then Ty.int32or64 else if op ≤ 5 then Ty.b32or64 else []

/-- `wscan` and `wred`: MOD[2:0] the operation, MOD[3] exclusive for `wscan`. -/
def ROps.scan (o : ROps) (mask : BitVec 16) : Bool :=
  (scanTypes (o.mod.extractLsb' 0 3).toNat).contains o.ty && o.uses o.t o.t .none .none && modIn o.mod mask

/-! ### Group 1 (R150 to R160) -/

/-- All operands one 32-bit register; which of A, B and C are read. -/
def ROps.fl (o : ROps) (tys : List Ty) (a b c : Bool) (mask : BitVec 16) : Bool :=
  tys.contains o.ty &&
    o.uses (.regs 1) (if a then .regs 1 else .none) (if b then .regs 1 else .none) (if c then .regs 1 else .none) &&
    modIn o.mod mask

/-- The types a conversion reads and writes: Table 15 codes 0x00 to 0x0A, in code order. -/
def Ty.cvtTypes : List Ty := [.s32, .n32, .s16, .n16, .s8, .n8, .s64, .n64, .f32, .f16, .bf16]

/-- The destination type of `cvt`, MOD[4:0]. -/
def ROps.cvtDest (o : ROps) : Option Ty := Ty.cvtTypes[(o.mod.extractLsb' 0 5).toNat]?

/-- The limits of Table 10 (R157). -/
def ROps.cvtOk (o : ROps) : Bool :=
  match o.cvtDest with
  | none => false
  | some dst =>
    let rm := o.mod.extractLsb' 5 2
    let sat := o.mod.getLsbD 7
    let hi := o.mod.getLsbD 8
    let srcF := Ty.scalarFloats.contains o.ty
    let dstF := Ty.scalarFloats.contains dst
    Ty.cvtTypes.contains o.ty && o.uses (.regs dst.regs) o.t .none .none && modIn o.mod 0x1FF &&
    (!hi || [Ty.s16, .n16, .f16, .bf16].contains o.ty) &&
    (match srcF, dstF with
     | false, false => rm == 0
     | false, true => true
     | true, false => !sat
     | true, true => rm == 0 || !(dst == .f32 || dst == o.ty))

/-! ### Group 2 (R50, R122 to R126, R149) -/

/-- The predicate pair of format P: distinct unless both are `p0`; CMB 3 is reserved. -/
def pairOk (pt pf : BitVec 3) (cmb : BitVec 2) : Bool := (pt != pf || pt == 0) && cmb != 3

/-- A compare at the width of TY with the conditions `ccs` below the bound. -/
def POps.cmpOk (o : POps) (tys : List Ty) (bound : Nat) : Bool :=
  pairOk o.pt o.pf o.cmb && tys.contains o.ty && o.cc.toNat < bound &&
    (Use.regs o.ty.regs).src o.a && (Use.regs o.ty.regs).srcB o.b

/-! ### Group 3 (R52, R53, R170 to R190) -/

/-- Base and index of an access in space SP (R170). -/
def MOps.addrOk (o : MOps) : Bool :=
  (if o.sp == 1 then o.a.reads 1 else o.a.reads 2) && o.x.reads 1 && o.sp.toNat ≤ 2

/-- Access types of `ld` and `st` (Table 4). -/
def Ty.memTypes : List Ty :=
  [.s8, .n8, .b8, .dt8, .s16, .n16, .b16, .f16, .bf16, .s32, .n32, .b32, .f32, .f16x2, .bf16x2, .s64, .n64, .b64,
   .b128]

/-- Types of an atomic or reduction operation (Table 6 of 07_core_memory). -/
def aopTypes (aop : Nat) : List Ty :=
  if aop ≤ 3 then Ty.int32or64
  else if aop ≤ 8 then Ty.b32or64
  else if aop ≤ 10 then [.n32]
  else if aop == 11 then [.f32, .f16x2, .bf16x2]
  else if aop ≤ 13 then [.f32]
  else []

/-! ### Group 4 -/

/-- Fields of format C that a control instruction leaves unused. -/
def COps.only (o : COps) (disp cb : Bool) : Bool := (disp || o.disp == 0) && (cb || o.cb == 0)

/-- A return pair: an even vector pair or, where allowed, an even uniform pair. `z` stands for a pair (R42). -/
def Sel.addrPair (kOk : Bool) : Sel → Bool
  | .v n => n.toNat % 2 == 0
  | .k n => kOk && n.toNat % 2 == 0
  | .sp _ => false
  | .z => true

/-! ### Groups 5, 6 and 7 -/

/-- The fields a group 5 instruction leaves unused hold their values (R46): which of ACC, PRS, OPT, TYA, KST and ASRC
it uses, and its MOD mask. -/
def XOps.only (o : XOps) (acc prs opt tya kst asrc : Bool) (mask : BitVec 20) : Bool :=
  (acc || o.acc == 0) && (prs || o.prs == 0) && (opt || o.opt == 0) && (tya || o.tya == .s32) && (kst || o.kst == 0) &&
    (asrc || o.asrc == 0) && modIn o.mod mask

/-- An address register: one register for ASRC 0, a pair for ASRC 1 (Table 6 of 12_matrix_engine). -/
def XOps.addrOk (o : XOps) : Bool :=
  if o.asrc == 0 then o.aop.reads 1 else if o.asrc == 1 then o.aop.reads 2 else false

/-- The types TYA of `mma` (R291). -/
def Ty.mmaTypes : List Ty := [.f16, .bf16, .s8, .n8, .f32, .b1]

/-- The A types that entry OPT accepts in some row of Table 4 of 12_matrix_engine or Table 2 of
13_semirings_and_sparsity (R322). -/
def optTypes (opt : Nat) : List Ty :=
  if opt == 0 then [.f16, .bf16, .s8, .n8, .f32]
  else if opt == 4 then [.b1]
  else if opt ≤ 6 then [.f16, .bf16, .f32]
  else []

/-- The memory types of `tld` and `tst` (R300). -/
def Ty.tileTypes : List Ty := [.s8, .n8, .s16, .n16, .s32, .n32, .f16, .bf16, .f32]

/-- The element types of a press binding (R304). -/
def Ty.bindTypes : List Ty := [.f16, .bf16, .s8, .n8, .dt8, .b1, .f32]

/-- `tld` and `tst` (R300). -/
def XOps.tileMem (o : XOps) : Bool :=
  o.only true false false true false true 0x1FF && Ty.tileTypes.contains o.tya && o.addrOk && o.skp.reads 1

/-- `tmov` (R303): MOD[0] direction, MOD[1] column, MOD[8:2] index; a vector base aligned for the layout. -/
def XOps.tmovOk (o : XOps) (dir : Bool) : Bool :=
  o.only true false false false false false 0x1FF && o.mod.getLsbD 0 == dir && o.skp.reads 1 &&
    (match o.aop with
     | .v n => if o.mod.getLsbD 1 then n.toNat % 2 == 0 else n.toNat % 4 == 0
     | _ => false) &&
    (o.mod.getLsbD 1 || (o.mod.extractLsb' 2 7).toNat < 64)

/-- Source B, a register only. -/
def BSrc.isReg : BSrc → Bool
  | .reg _ => true
  | .win _ _ => false

/-- Format R with register operands only and TY 0 (s32), MOD inside the mask. -/
def ROps.plain (o : ROps) (d a b c : Use) (mask : BitVec 16) : Bool :=
  o.ty == .s32 && o.b.isReg && o.uses d a b c && modIn o.mod mask

/-- Is the vector run `vq` to `v(q+n-1)` within `v255`, or is the field unused with n = 0 (R349, R375)? -/
def Sel.payload (s : Sel) (n : Nat) : Bool :=
  match s with
  | .v q => 1 ≤ n && q.toNat + n ≤ 256
  | .z => n == 0
  | _ => false

/-- The types of `scat` by OPR (Table 5 of 14_copy_and_gather). -/
def scatTypes (opr : Nat) : List Ty :=
  if opr == 0 then [.s32] else if opr ≤ 3 then [.s32, .n32] else if opr ≤ 6 then [.f32] else []

/-- How a system register is reached (Table 4 of 19_system): 64 bits wide, and read-only. -/
structure SysInfo where
  wide : Bool
  ro : Bool
  deriving DecidableEq, Repr

/-- Table 4 of 19_system: the assigned numbers, their width and whether they are read-only. -/
def sysInfo (n : Nat) : Option SysInfo :=
  if n ≤ 0x007 then some ⟨false, false⟩
  else if 0x010 ≤ n && n ≤ 0x013 then some ⟨true, false⟩
  else if n == 0x018 then some ⟨true, false⟩
  else if n == 0x019 || n == 0x01B || n == 0x01C then some ⟨false, false⟩
  else if n == 0x01A || n == 0x01D then some ⟨false, true⟩
  else if n == 0x01E || n == 0x01F then some ⟨true, false⟩
  else if n == 0x020 || n == 0x022 then some ⟨false, false⟩
  else if n == 0x021 then some ⟨true, false⟩
  else if n == 0x028 || n == 0x02A then some ⟨true, false⟩
  else if n == 0x029 || n == 0x02B || n == 0x02C then some ⟨false, false⟩
  else if n == 0x02D then some ⟨true, false⟩
  else if 0x030 ≤ n && n ≤ 0x036 then some ⟨false, true⟩
  else if n == 0x038 then some ⟨true, true⟩
  else if n == 0x039 then some ⟨false, false⟩
  else if n == 0x03A then some ⟨false, true⟩
  else if 0x040 ≤ n && n < 0x060 then
    (if n % 4 == 3 then none else some ⟨n % 4 != 2, false⟩)
  else if 0x100 ≤ n && n < 0x300 then
    (if n % 8 == 0 then some ⟨true, false⟩
     else if n % 8 == 3 then some ⟨false, true⟩
     else if n % 8 ≤ 4 then some ⟨false, false⟩
     else none)
  else if 0x400 ≤ n && n ≤ 0x402 then some ⟨true, false⟩
  else if 0x408 ≤ n && n < 0x428 then
    (if n % 8 ≤ 2 then some ⟨true, false⟩ else if n % 8 ≤ 4 then some ⟨false, false⟩ else none)
  else if 0x600 ≤ n && n < 0x6C0 then some ⟨false, true⟩
  else none

/-- TY matches the register's width (R418): n64 for 64 bits, n32 for 32. -/
def sysTyOk (ty : Ty) (i : SysInfo) : Bool := if i.wide then ty == .n64 else ty == .n32

/-- Two source pairs D and A and a 32-bit B in a register (R325). -/
def pairsOk (o : ROps) (mask : BitVec 16) : Bool :=
  o.d.reads 2 && o.a.reads 2 && o.b.isReg && (Use.regs 1).srcB o.b && modIn o.mod mask

/-- `cp` (Table 2 of 14_copy_and_gather): MOD[0] two-dimensional, with an aligned quad C; MOD[2:1] and MOD[4:3] spaces
other than 3; MOD[15] TRAP. -/
def cpOk (o : ROps) (twoD : Bool) : Bool :=
  o.ty == .s32 && o.d.reads 2 && o.a.reads 2 && o.b.isReg && (Use.regs 1).srcB o.b && modIn o.mod 0x801F &&
    o.mod.getLsbD 0 == twoD && (if twoD then o.c.reads 4 && o.c != .z else o.c == .z) &&
    o.mod.extractLsb' 1 2 != (3 : BitVec 2) && o.mod.extractLsb' 3 2 != (3 : BitVec 2)

/-- `launch` (R396): D a register to write, A a pair, B one register. -/
def launchOk (o : ROps) : Bool :=
  o.ty == .s32 && o.d.writes 1 && o.a.reads 2 && o.b.isReg && (Use.regs 1).srcB o.b && o.c == .z && o.mod == 0

/-! ### Every instruction -/

/-- Is the instruction a legal word, as far as the word alone decides (R31 check 6)? A step of the part is no word. `z` is
taken for the pair of `ret` and not for those of `call` and `tlbinv.range` (assumption 71). -/
def Instr.wf : Instr → Bool
  | .add _ o | .sub _ o | .mul _ o => o.arith2 Ty.int8to64 1
  | .mulhi _ o => o.arith2 Ty.int16to64 0
  | .mad _ o => o.arith3 Ty.int8to64 1
  | .madhi _ o => o.arith3 Ty.int16to64 0
  | .min _ o | .max _ o => o.arith2 Ty.int8to64 0
  | .abs _ o | .neg _ o => o.unary Ty.signed 1
  | .sad _ o => o.arith3 [.s8, .n8, .s16, .n16, .s32, .n32] 0
  | .dot4 _ o => [Ty.s8, .n8].contains o.ty && o.uses (.regs 1) (.regs 1) (.regs 1) (.regs 1) && modIn o.mod 3
  | .lea _ o =>
    [Ty.n32, .n64].contains o.ty && o.uses o.t o.t (.regs 1) .none && modIn o.mod (if o.ty == .n64 then 0xF else 7)
  | .and _ o | .or _ o | .xor _ o => o.arith2 [.b8, .b16, .b32, .b64] 0
  | .bitop _ o => o.arith3 Ty.b32or64 0xFF
  | .shl _ o | .shr _ o | .rotl _ o | .rotr _ o => o.shift Ty.b32or64
  | .sra _ o => o.shift [.s32, .s64]
  | .clz _ o | .ctz _ o | .popc _ o => o.count
  | .brev _ o => o.unary Ty.b32or64 0
  | .bfx _ o => o.shift Ty.int32or64
  | .bfi _ o => Ty.b32or64.contains o.ty && o.uses o.t o.t (.regs 1) o.t && o.mod == 0
  | .sel _ o => o.arith2 Ty.b32or64 0xF
  | .mov _ o => o.ty != .b1 && o.uses o.t .none o.t .none && o.mod == 0
  | .movi _ o =>
    [Ty.s32, .n32, .b32, .f32, .s64, .n64, .b64].contains o.ty && o.d.writes o.ty.regs && o.a == .z && o.c == .z &&
      o.mod == 0
  | .addi _ o =>
    Ty.int32or64.contains o.ty && o.d.writes o.ty.regs && o.a.reads o.ty.regs && o.c == .z && modIn o.mod 1
  | .shfl _ o =>
    Ty.b32or64.contains o.ty && o.uses o.t o.t (.regs 1) .none && modIn o.mod 0x1F && (o.mod.extractLsb' 2 3).toNat ≤ 5
  | .voteAny _ o => o.vote 0
  | .voteAll _ o => o.vote 1
  | .voteMask _ o => o.vote 2
  | .matchAny _ o => o.matching 0
  | .matchAll _ o => o.matching 1
  | .rdlane _ o => o.shift Ty.b32or64
  | .wscan _ o => o.scan 0xF
  | .wred _ o => o.scan 7
  | .fadd _ o | .fsub _ o | .fmul _ o => o.fl Ty.floats true true false 3
  | .ffma _ o => o.fl Ty.floats true true true 3
  | .fmin _ o | .fmax _ o => o.fl Ty.floats true true false 0
  | .frcp _ o | .frsq _ o | .fex2 _ o | .flg2 _ o | .fsin _ o | .fcos _ o => o.fl [.f32] true false false 0
  | .fsqrt _ o => o.fl [.f32] true false false 3
  | .frnd _ o => o.fl Ty.floats true false false 3
  | .fscale _ o => o.fl Ty.scalarFloats true true false 3
  | .fdot2 _ o => o.fl [.f16x2, .bf16x2] true true true 3
  | .fclass _ o => o.fl Ty.scalarFloats true false false 0
  | .fclassTake _ o => o.ty == .b32 && o.uses (.regs 1) .none .none .none && o.mod == 1
  | .cvt _ o => o.cvtOk
  | .pack2 _ o => o.fl [.f16x2, .bf16x2] true true false 7
  | .dtdec _ o => o.fl [.dt8] true true false 3
  | .dtenc _ o => o.fl [.dt8] true true true 3
  | .icmp _ o => o.cmpOk Ty.int8to64 6 || o.cmpOk Ty.b32or64 2
  | .fcmp _ o => o.cmpOk Ty.scalarFloats 14
  | .pset _ o => pairOk o.pt o.pf o.cmb
  | .btst _ o =>
    pairOk o.pt o.pf o.cmb && Ty.b32or64.contains o.ty && o.cc == 0 && (Use.regs o.ty.regs).src o.a &&
      (Use.regs 1).srcB o.b
  | .pmovToReg _ o => o.ty == .b32 && o.uses (.regs 1) .none .none .none && o.mod == 0
  | .pmovToPred _ o => o.ty == .b32 && o.uses .none (.regs 1) .none .none && modIn o.mod 0xFE01 && o.mod.getLsbD 0
  | .ld _ o => o.addrOk && o.aop == 0 && Ty.memTypes.contains o.ty && o.d.writes o.ty.regs && o.lc != 3
  | .st _ o => o.addrOk && o.aop == 0 && Ty.memTypes.contains o.ty && o.d.reads o.ty.regs && o.lc != 2
  | .ldc _ o =>
    o.sp == 0 && o.lc == 0 && o.aop.toNat < 8 && o.a.reads 1 && o.x.reads 1 && o.d.writes o.ty.regs &&
      [Ty.s32, .n32, .b32, .f32, .s64, .n64, .b64, .b128].contains o.ty
  | .atom _ o =>
    o.addrOk && (aopTypes o.aop.toNat).contains o.ty && o.lc != 1 &&
      o.d.vOrZ (if o.aop == 8 then 2 * o.ty.regs else o.ty.regs)
  | .red _ o =>
    o.addrOk && (aopTypes o.aop.toNat).contains o.ty && (o.lc == 0 || o.lc == 3) && o.aop != 7 && o.aop != 8 &&
      o.d.reads o.ty.regs
  | .pref _ o => o.addrOk && o.sp != 1 && o.aop == 0 && o.ty == .b32 && o.d == .z && o.lc.toNat ≤ 1
  | .bra _ o => o.only true false && o.a == .z && o.mod == 0
  | .brx _ o => o.only true false && o.a.reads 1 && modIn o.mod 0x1FFF && o.mod != 0
  | .call _ o => o.only true false && o.a.addrPair false && o.a != .z && o.mod == 0
  | .ret _ o => o.only false false && o.a.addrPair true && o.mod == 0
  | .loop _ o => o.only true false && o.a.reads 1 && o.mod == 0 && (0 : Int) < o.disp.toInt
  | .loopExit _ o => o.only true false && o.a == .z && o.mod == 1
  | .exit _ o | .yield _ o => o.only false false && o.a == .z && o.mod == 0
  | .joinEnrol _ o | .joinWait _ o | .joinLeave _ o => o.only false true && o.a == .z && o.mod == 0
  | .nop _ o => o.plain .none .none .none .none 0
  | .brk _ o => o.only false false && o.a == .z && modIn o.mod 0xFF
  | .wait _ _ => true
  | .fence _ o => o.plain .none .none .none .none 3
  | .barArrive _ o => o.plain .none (.regs 1) .none .none 0x7F && o.mod.extractLsb' 0 2 == (0 : BitVec 2)
  | .barWait _ o => o.plain .none .none .none .none 0x3F && o.mod.extractLsb' 0 2 == (1 : BitVec 2)
  | .barSync _ o => o.plain .none (.regs 1) .none .none 0x7F && o.mod.extractLsb' 0 2 == (2 : BitVec 2)
  | .cbarArrive _ o => o.plain .none .none .none .none 0x43 && o.mod.extractLsb' 0 2 == (0 : BitVec 2)
  | .cbarWait _ o => o.plain .none .none .none .none 3 && o.mod == 1
  | .cbarSync _ o => o.plain .none .none .none .none 0x43 && o.mod.extractLsb' 0 2 == (2 : BitVec 2)
  | .sringPost _ o => o.plain .none (.regs 1) .none .none 0x2FE && !o.mod.getLsbD 0
  | .sringWait _ o => o.plain .none (.regs 1) (.regs 1) .none 0x1FF && o.mod.getLsbD 0
  | .rgn _ o => o.only false false && o.a == .z && o.mod == 0
  | .ppoint _ _ => true
  | .trap _ o => o.plain .none .none .none .none 0xFF
  | .launch _ o => launchOk o
  | .snooze _ o => o.ty == .n32 && o.uses .none (.regs 1) .none .none && o.mod == 0
  | .mma _ o =>
    o.only true true true true true true 0x3FFF && Ty.mmaTypes.contains o.tya && o.opt != 7 && o.kst != 0 && o.addrOk &&
      o.skp.reads 1
  | .tfill _ o => o.only true false false false false false 0 && o.aop.reads 1 && o.skp == .z
  | .tfillId _ o => o.only true false true false false false 1 && o.aop == .z && o.skp == .z && o.opt != 7 && o.mod == 1
  | .tld _ o | .tst _ o => o.tileMem
  | .tmovGet _ o => o.tmovOk false
  | .tmovPut _ o => o.tmovOk true
  | .tmask _ o =>
    o.only false false true true true true 0 && (optTypes o.opt.toNat).contains o.tya && o.kst != 0 && o.addrOk &&
      o.skp.reads 1 && o.skp != .z
  | .pbind _ o =>
    o.only false true false true false false 0x3FFF && Ty.bindTypes.contains o.tya && o.aop.reads 1 && o.skp.reads 1 &&
      (o.mod == 0 || o.tya == .dt8)
  | .pfill _ o => o.only false true false false false true 1 && o.addrOk && o.skp.reads 1
  | .tbind _ o => o.only true false false false false false 1 && o.aop == .z && o.skp == .z
  | .cp _ o => cpOk o false
  | .cp2d _ o => cpOk o true
  | .gath _ o => pairsOk o 0x8FFF && o.c.reads 2 && o.ty == .s32
  | .scat _ o => pairsOk o 0xFFFF && o.c.reads 2 && (scatTypes (o.mod.extractLsb' 12 3).toNat).contains o.ty
  | .probe _ o => o.plain .none (.regs 2) (.regs 1) .none 0x8001
  | .unpin _ o => o.plain .none (.regs 2) (.regs 1) .none 0x8000
  | .rstrp _ o => o.plain .none (.regs 2) (.regs 1) (.regs 1) 0
  | .discard _ o => o.plain .none .none .none .none 0xFF && o.mod != 0
  | .cpseal _ o => o.ty == .s32 && pairsOk o 0x8000 && o.c == .z
  | .sortw _ o =>
    o.plain .none (.regs 1) .none (if (o.mod.extractLsb' 0 4).toNat == 0 then .none else .regs 1) 0xF &&
      o.c.payload (o.mod.extractLsb' 0 4).toNat && (o.mod.extractLsb' 0 4).toNat ≤ 12
  | .sortqKey _ o => o.plain (.regs 1) (.regs 1) .none .none 0
  | .sortqAll _ o => o.plain (.regs 1) .none .none .none 1 && o.mod == 1
  | .sortd _ o => o.plain .none .none .none .none 0
  | .sortdKey _ o => o.plain .none (.regs 1) .none .none 1 && o.mod == 1
  | .sortc _ o => o.plain .none .none .none .none 0
  | .sortcJoin _ o => o.plain .none .none .none .none 1 && o.mod == 1
  | .msend _ o =>
    let n := (o.mod.extractLsb' 6 4).toNat
    o.ty == .s32 && o.d == .z && o.c == .z && o.b.isReg && (Use.regs 1).srcB o.b && modIn o.mod 0x7FF && n ≤ 8 &&
      o.a.payload n
  | .mdone _ o => o.plain .none .none .none .none 0
  | .sysrd _ o =>
    (match sysInfo o.mod.toNat with
     | some i => sysTyOk o.ty i
     | none => false) && o.uses o.t .none .none .none
  | .syswr _ o =>
    (match sysInfo o.mod.toNat with
     | some i => sysTyOk o.ty i && !i.ro
     | none => false) && o.uses .none o.t .none .none
  | .tlbinvCtx _ o => o.plain .none .none .none .none 0
  | .tlbinvRange _ o => o.plain .none (.regs 2) (.regs 1) .none 1 && o.a != .z && o.mod == 1
  | .tlbinvAll _ o => o.plain .none .none .none .none 2 && o.mod == 2
  | .cinv _ o => o.plain .none .none .none .none 3 && o.mod != 0
  | .gtime _ o => o.ty == .n64 && o.uses (.regs 2) .none .none .none && o.mod == 0
  | .hlt _ o => o.plain .none .none .none .none 0xFF
  | .parityRefetch _ _ | .fairnessTimerExpiry _ _ | .watchdogExpiry _ _ | .snoozeExpiry _ _ | .rejectionAgeLimit _
  | .loadDataReturn _ | .homeWritePerform _ | .writeCompletionReturn _ | .fencePass _ _ | .l1FillServe _ _
  | .leaseExpiry _ _ | .sliceEviction _ | .tlbWalk _ _ _ | .fransSuccess _ | .fransFailure _ | .frheadWrite _
  | .frsizeWrite _ | .frstatOvfClear | .nbvWrite _ | .leaseWrite _ | .slpinWrite _ | .systemRegisterWrite _ _ _
  | .group5EntryStart _ | .mmaKstep _ | .group5EntryComplete _ | .copyOpStart _ | .cpChunk _ | .gatherProbePass _
  | .gatherVector _ | .cpsealRecordWrite _ | .rstrpStart _ | .rstrpLineCopy _ | .rstrpPageShootdown _
  | .rstrpReturnEntry _ | .discardSliceWalk _ _ | .copyOpRetire _ | .sorterRunAccept _ _ | .basketEmit _ _ _ _
  | .drainEmission _ _ _ | .spillReadback _ _ _ | .basketAgeExpiry _ _ _ _ | .sortqReply _ _ | .domainStuck _ _
  | .messageArrival _ | .handlerWarpForm _ | .clusterReset _ | .kill _ | .hostQueuePublish _ _ | .launchAccept
  | .clusterPlace _ | .blockRetire _ _ _ | .clusterRetire _ _ | .cmapBitSet _ _ | .preemptSoft _ | .preemptHard _
  | .restore _ | .engineStopAck _ | .pdeadlineExpiry | .contextSave | .debugResumeWarp _ | .debugResumeAll _
  | .debugWindowWrite _ _ _ | .hostWindowRead _ _ | .hostWindowWrite _ _ | .ownershipFlipToHost _
  | .ownershipFlipToDevice _ | .ownershipFlipComplete | .peerInboundWrite _ _ _ | .peerInboundRead _ _ _
  | .peerLinkDown _ | .attest | .regcode | .unregcode | .signhead | .unseal | .bbread | .fwload | .coldReset
  | .warmReset | .softErrorCorrected | .uncorrectableError _ | .coreGroupRetire _ | .clockGovernorStep _ _
  | .thermalShutdown | .constantCacheFill _ _ _ | .instructionFetch _ _ _ | .wringerArrival _ => false

end Sys2Proof
end

