-- ==== Sys2Proof/Decode.lean ====
section
/-! DEFINITION. The decoder of the 96-bit instruction word (R38 to R62), total on any bytes, and after it the encoder,
written from the same tables. A word that the decoder refuses fails check 6 of Table 3 (illegal-instruction). -/

namespace Sys2Proof

/-! ### Fields -/

/-- A register selector (Table 5, Table 6); none for a reserved one. -/
def decSel (s : BitVec 9) : Option Sel :=
  if s.toNat < 0x100 then some (.v (s.extractLsb' 0 8))
  else if s.toNat < 0x140 then some (.k (s.extractLsb' 0 6))
  else if s == 0x1FF then some .z
  else match s.toNat - 0x140 with
    | 0x00 => some (.sp .lane) | 0x01 => some (.sp .warp) | 0x02 => some (.sp .core) | 0x03 => some (.sp .group)
    | 0x04 => some (.sp .tcX) | 0x05 => some (.sp .tcY) | 0x06 => some (.sp .tcZ) | 0x07 => some (.sp .bshapeX)
    | 0x08 => some (.sp .bshapeY) | 0x09 => some (.sp .bshapeZ) | 0x0A => some (.sp .bid) | 0x0B => some (.sp .nbid)
    | 0x0C => some (.sp .cid) | 0x0D => some (.sp .ncid) | 0x0E => some (.sp .cshape) | 0x0F => some (.sp .cpos)
    | 0x10 => some (.sp .stage) | 0x11 => some (.sp .home) | 0x12 => some (.sp .key) | 0x13 => some (.sp .msrc)
    | 0x14 => some (.sp .amask) | 0x15 => some (.sp .fstat) | 0x16 => some (.sp .tstat) | 0x17 => some (.sp .cpstat)
    | _ => none

/-- A type code (Table 15); none for a reserved one. -/
def decTy (t : BitVec 5) : Option Ty :=
  match t.toNat with
  | 0x00 => some .s32 | 0x01 => some .n32 | 0x02 => some .s16 | 0x03 => some .n16 | 0x04 => some .s8
  | 0x05 => some .n8 | 0x06 => some .s64 | 0x07 => some .n64 | 0x08 => some .f32 | 0x09 => some .f16
  | 0x0A => some .bf16 | 0x0B => some .dt8 | 0x0C => some .b1 | 0x0D => some .b8 | 0x0E => some .b16
  | 0x0F => some .b32 | 0x10 => some .b64 | 0x11 => some .b128 | 0x12 => some .f16x2 | 0x13 => some .bf16x2
  | _ => none

/-- Source B: B20 and W (R47, R48). -/
def decB (b : BitVec 20) (w : Bool) : Option BSrc :=
  if w then some (.win (b.extractLsb' 17 3) (b.extractLsb' 0 17))
  else if b.extractLsb' 9 11 == 0 then (decSel (b.extractLsb' 0 9)).map .reg else none

/-- The guard, bits 95:79 of the word (Table 4). -/
def decGuard (w : IWord) : Guard :=
  { tt := w.extractLsb' 88 8, ga := w.extractLsb' 85 3, gb := w.extractLsb' 82 3, gc := w.extractLsb' 79 3 }

/-! ### Bodies, bits 68:0 -/

/-- Format R (Table 7). -/
def decR (b : BitVec 69) : Option ROps := do
  let d ← decSel (b.extractLsb' 60 9)
  let a ← decSel (b.extractLsb' 51 9)
  let c ← decSel (b.extractLsb' 42 9)
  let s ← decB (b.extractLsb' 22 20) (b.getLsbD 21)
  let ty ← decTy (b.extractLsb' 16 5)
  some { d := d, a := a, c := c, b := s, ty := ty, mod := b.extractLsb' 0 16 }

/-- Format I (Table 8). -/
def decI (b : BitVec 69) : Option IOps := do
  let d ← decSel (b.extractLsb' 60 9)
  let a ← decSel (b.extractLsb' 51 9)
  let c ← decSel (b.extractLsb' 42 9)
  let ty ← decTy (b.extractLsb' 5 5)
  some { d := d, a := a, c := c, imm := b.extractLsb' 10 32, ty := ty, mod := b.extractLsb' 0 5 }

/-- Format P (Table 9); its reserved bits are zero. -/
def decP (b : BitVec 69) : Option POps := do
  let a ← decSel (b.extractLsb' 48 9)
  let s ← decB (b.extractLsb' 28 20) (b.getLsbD 27)
  let ty ← decTy (b.extractLsb' 22 5)
  if b.extractLsb' 0 22 == 0 then
    some { pt := b.extractLsb' 66 3, pf := b.extractLsb' 63 3, cmb := b.extractLsb' 61 2, cc := b.extractLsb' 57 4,
           a := a, b := s, ty := ty }
  else none

/-- `pset` (R51, Table 10): A = 0x1FF, W = 0, CC = 0, TY = 0, B20 read as three predicates and a table. -/
def decPset (b : BitVec 69) : Option PsetOps :=
  if b.extractLsb' 0 28 == 0 && b.extractLsb' 48 9 == 0x1FF && b.extractLsb' 57 4 == 0 && b.extractLsb' 45 3 == 0 then
    some { pt := b.extractLsb' 66 3, pf := b.extractLsb' 63 3, cmb := b.extractLsb' 61 2, q3 := b.extractLsb' 42 3,
           q2 := b.extractLsb' 39 3, q1 := b.extractLsb' 36 3, tq := b.extractLsb' 28 8 }
  else none

/-- `ppoint` (R401): C, B20 and MOD as immediates. -/
def decPpoint (b : BitVec 69) : Option PpointOps :=
  if b.extractLsb' 51 18 == 0x3FFFF && b.extractLsb' 49 2 == 0 && b.extractLsb' 38 4 == 0 && b.extractLsb' 16 6 == 0 then
    some { plm := b.extractLsb' 42 7, prsm := b.extractLsb' 22 16, accm := b.extractLsb' 0 16 }
  else none

/-- Format M (Table 11). -/
def decM (b : BitVec 69) : Option MOps := do
  let d ← decSel (b.extractLsb' 60 9)
  let a ← decSel (b.extractLsb' 51 9)
  let x ← decSel (b.extractLsb' 42 9)
  let ty ← decTy (b.extractLsb' 8 5)
  some { d := d, a := a, x := x, off := b.extractLsb' 18 24, xs := b.extractLsb' 16 2, sp := b.extractLsb' 13 3,
         ty := ty, lc := b.extractLsb' 6 2, aop := b.extractLsb' 0 6 }

/-- Format C (Table 12). -/
def decC (b : BitVec 69) : Option COps := do
  let a ← decSel (b.extractLsb' 28 9)
  some { disp := b.extractLsb' 37 32, a := a, cb := b.extractLsb' 24 4, mod := b.extractLsb' 0 24 }

/-- Format W (Table 13); its reserved bits are zero. -/
def decW (b : BitVec 69) : Option WOps :=
  if b.extractLsb' 0 41 == 0 then
    some { nld := b.extractLsb' 62 7, nst := b.extractLsb' 55 7, ncp := b.extractLsb' 48 7, nmx := b.extractLsb' 41 7 }
  else none

/-- Format X (Table 14). -/
def decX (b : BitVec 69) : Option XOps := do
  let aop ← decSel (b.extractLsb' 52 9)
  let skp ← decSel (b.extractLsb' 43 9)
  let ty ← decTy (b.extractLsb' 35 5)
  some { acc := b.extractLsb' 65 4, prs := b.extractLsb' 61 4, aop := aop, skp := skp, opt := b.extractLsb' 40 3,
         tya := ty, kst := b.extractLsb' 22 13, asrc := b.extractLsb' 20 2, mod := b.extractLsb' 0 20 }

/-! ### Opcodes -/

/-- One of three forms by a 2-bit mode; mode 3 is no form. -/
def pick3 (m : BitVec 2) (x y z : Instr) : Option Instr :=
  match m.toNat with
  | 0 => some x
  | 1 => some y
  | 2 => some z
  | _ => none

/-- Opcodes of group 0 (Table 20), by bits 6:0. -/
def decodeInteger (op : Nat) (g : Guard) (b : BitVec 69) : Option Instr :=
  match op with
  | 0x00 => (decR b).map (.add g)
  | 0x01 => (decR b).map (.sub g)
  | 0x02 => (decR b).map (.mul g)
  | 0x03 => (decR b).map (.mulhi g)
  | 0x04 => (decR b).map (.mad g)
  | 0x05 => (decR b).map (.madhi g)
  | 0x06 => (decR b).map (.min g)
  | 0x07 => (decR b).map (.max g)
  | 0x08 => (decR b).map (.abs g)
  | 0x09 => (decR b).map (.neg g)
  | 0x0a => (decR b).map (.sad g)
  | 0x0b => (decR b).map (.dot4 g)
  | 0x0c => (decR b).map (.lea g)
  | 0x0d => (decR b).map (.and g)
  | 0x0e => (decR b).map (.or g)
  | 0x0f => (decR b).map (.xor g)
  | 0x10 => (decR b).map (.bitop g)
  | 0x11 => (decR b).map (.shl g)
  | 0x12 => (decR b).map (.shr g)
  | 0x13 => (decR b).map (.sra g)
  | 0x14 => (decR b).map (.rotl g)
  | 0x15 => (decR b).map (.rotr g)
  | 0x16 => (decR b).map (.clz g)
  | 0x17 => (decR b).map (.ctz g)
  | 0x18 => (decR b).map (.popc g)
  | 0x19 => (decR b).map (.brev g)
  | 0x1a => (decR b).map (.bfx g)
  | 0x1b => (decR b).map (.bfi g)
  | 0x1c => (decR b).map (.sel g)
  | 0x1d => (decR b).map (.mov g)
  | 0x1e => (decI b).map (.movi g)
  | 0x1f => (decI b).map (.addi g)
  | 0x20 => (decR b).map (.shfl g)
  | 0x21 => (decR b).bind fun o => pick3 (o.mod.extractLsb' 0 2) (.voteAny g o) (.voteAll g o) (.voteMask g o)
  | 0x22 => (decR b).map fun o => if o.mod.getLsbD 0 then .matchAll g o else .matchAny g o
  | 0x23 => (decR b).map (.rdlane g)
  | 0x24 => (decR b).map (.wscan g)
  | 0x25 => (decR b).map (.wred g)
  | _ => none

/-- Opcodes of group 1 (Table 20), by bits 6:0. -/
def decodeFloat (op : Nat) (g : Guard) (b : BitVec 69) : Option Instr :=
  match op with
  | 0x00 => (decR b).map (.fadd g)
  | 0x01 => (decR b).map (.fsub g)
  | 0x02 => (decR b).map (.fmul g)
  | 0x03 => (decR b).map (.ffma g)
  | 0x04 => (decR b).map (.fmin g)
  | 0x05 => (decR b).map (.fmax g)
  | 0x06 => (decR b).map (.frcp g)
  | 0x07 => (decR b).map (.frsq g)
  | 0x08 => (decR b).map (.fsqrt g)
  | 0x09 => (decR b).map (.fex2 g)
  | 0x0a => (decR b).map (.flg2 g)
  | 0x0b => (decR b).map (.fsin g)
  | 0x0c => (decR b).map (.fcos g)
  | 0x0d => (decR b).map (.frnd g)
  | 0x0e => (decR b).map (.fscale g)
  | 0x0f => (decR b).map (.fdot2 g)
  | 0x10 => (decR b).map fun o => if o.mod.getLsbD 0 then .fclassTake g o else .fclass g o
  | 0x11 => (decR b).map (.cvt g)
  | 0x12 => (decR b).map (.pack2 g)
  | 0x13 => (decR b).map (.dtdec g)
  | 0x14 => (decR b).map (.dtenc g)
  | _ => none

/-- Opcodes of group 2 (Table 20), by bits 6:0. -/
def decodePredicate (op : Nat) (g : Guard) (b : BitVec 69) : Option Instr :=
  match op with
  | 0x00 => (decP b).map (.icmp g)
  | 0x01 => (decP b).map (.fcmp g)
  | 0x02 => (decPset b).map (.pset g)
  | 0x03 => (decP b).map (.btst g)
  | 0x04 => (decR b).map fun o => if o.mod.getLsbD 0 then .pmovToPred g o else .pmovToReg g o
  | _ => none

/-- Opcodes of group 3 (Table 20), by bits 6:0. -/
def decodeMemory (op : Nat) (g : Guard) (b : BitVec 69) : Option Instr :=
  match op with
  | 0x00 => (decM b).map (.ld g)
  | 0x01 => (decM b).map (.st g)
  | 0x02 => (decM b).map (.ldc g)
  | 0x03 => (decM b).map (.atom g)
  | 0x04 => (decM b).map (.red g)
  | 0x05 => (decM b).map (.pref g)
  | _ => none

/-- Opcodes of group 4 (Table 20), by bits 6:0. -/
def decodeControl (op : Nat) (g : Guard) (b : BitVec 69) : Option Instr :=
  match op with
  | 0x00 => (decC b).map (.bra g)
  | 0x01 => (decC b).map (.brx g)
  | 0x02 => (decC b).map (.call g)
  | 0x03 => (decC b).map (.ret g)
  | 0x04 => (decC b).map fun o => if o.mod.getLsbD 0 then .loopExit g o else .loop g o
  | 0x05 => (decC b).map (.exit g)
  | 0x06 => (decC b).map (.joinEnrol g)
  | 0x07 => (decC b).map (.joinWait g)
  | 0x08 => (decC b).map (.joinLeave g)
  | 0x09 => (decC b).map (.yield g)
  | 0x0a => (decR b).map (.nop g)
  | 0x0b => (decC b).map (.brk g)
  | 0x0c => (decW b).map (.wait g)
  | 0x0d => (decR b).map (.fence g)
  | 0x0e => (decR b).bind fun o => pick3 (o.mod.extractLsb' 0 2) (.barArrive g o) (.barWait g o) (.barSync g o)
  | 0x0f => (decR b).bind fun o => pick3 (o.mod.extractLsb' 0 2) (.cbarArrive g o) (.cbarWait g o) (.cbarSync g o)
  | 0x10 => (decR b).map fun o => if o.mod.getLsbD 0 then .sringWait g o else .sringPost g o
  | 0x11 => (decC b).map (.rgn g)
  | 0x12 => (decPpoint b).map (.ppoint g)
  | 0x13 => (decR b).map (.trap g)
  | 0x14 => (decR b).map (.launch g)
  | 0x15 => (decR b).map (.snooze g)
  | _ => none

/-- Opcodes of group 5 (Table 20), by bits 6:0. -/
def decodeMatrix (op : Nat) (g : Guard) (b : BitVec 69) : Option Instr :=
  match op with
  | 0x00 => (decX b).map (.mma g)
  | 0x01 => (decX b).map fun o => if o.mod.getLsbD 0 then .tfillId g o else .tfill g o
  | 0x02 => (decX b).map (.tld g)
  | 0x03 => (decX b).map (.tst g)
  | 0x04 => (decX b).map fun o => if o.mod.getLsbD 0 then .tmovPut g o else .tmovGet g o
  | 0x05 => (decX b).map (.tmask g)
  | 0x06 => (decX b).map (.pbind g)
  | 0x07 => (decX b).map (.pfill g)
  | 0x08 => (decX b).map (.tbind g)
  | _ => none

/-- Opcodes of group 6 (Table 20), by bits 6:0. -/
def decodeEngine (op : Nat) (g : Guard) (b : BitVec 69) : Option Instr :=
  match op with
  | 0x00 => (decR b).map fun o => if o.mod.getLsbD 0 then .cp2d g o else .cp g o
  | 0x01 => (decR b).map (.gath g)
  | 0x02 => (decR b).map (.scat g)
  | 0x03 => (decR b).map (.probe g)
  | 0x04 => (decR b).map (.unpin g)
  | 0x05 => (decR b).map (.rstrp g)
  | 0x06 => (decR b).map (.discard g)
  | 0x07 => (decR b).map (.cpseal g)
  | 0x08 => (decR b).map (.sortw g)
  | 0x09 => (decR b).map fun o => if o.mod.getLsbD 0 then .sortqAll g o else .sortqKey g o
  | 0x0a => (decR b).map fun o => if o.mod.getLsbD 0 then .sortdKey g o else .sortd g o
  | 0x0b => (decR b).map fun o => if o.mod.getLsbD 0 then .sortcJoin g o else .sortc g o
  | 0x0c => (decR b).map (.msend g)
  | 0x0d => (decR b).map (.mdone g)
  | _ => none

/-- Opcodes of group 7 (Table 20), by bits 6:0. -/
def decodeSystem (op : Nat) (g : Guard) (b : BitVec 69) : Option Instr :=
  match op with
  | 0x00 => (decR b).map (.sysrd g)
  | 0x01 => (decR b).map (.syswr g)
  | 0x02 => (decR b).bind fun o => pick3 (o.mod.extractLsb' 0 2) (.tlbinvCtx g o) (.tlbinvRange g o) (.tlbinvAll g o)
  | 0x03 => (decR b).map (.cinv g)
  | 0x04 => (decR b).map (.gtime g)
  | 0x05 => (decR b).map (.hlt g)
  | _ => none

/-- The instruction of an opcode, a guard and a body, before the legality of its fields: OP bits 9:7 name the group. -/
def decodeRaw (op : BitVec 10) (g : Guard) (b : BitVec 69) : Option Instr :=
  let low := (op.extractLsb' 0 7).toNat
  match (op.extractLsb' 7 3).toNat with
  | 0 => decodeInteger low g b
  | 1 => decodeFloat low g b
  | 2 => decodePredicate low g b
  | 3 => decodeMemory low g b
  | 4 => decodeControl low g b
  | 5 => decodeMatrix low g b
  | 6 => decodeEngine low g b
  | _ => decodeSystem low g b

/-- Why bytes are no instruction: too few of them, or a word that check 6 of Table 3 refuses. -/
inductive Reject where
  | shortSlot
  | illegalInstruction (op : BitVec 10)
  deriving DecidableEq, Repr

/-- The instruction of a 96-bit word (R38, R45, R46, R62). -/
def decodeWord (w : IWord) : Option Instr :=
  match decodeRaw (w.extractLsb' 69 10) (decGuard w) (w.extractLsb' 0 69) with
  | some i => if i.wf then some i else none
  | none => none

/-- The little-endian value of bytes (R2). -/
def bytesToNat : List Byte → Nat
  | [] => 0
  | b :: bs => b.toNat + 256 * bytesToNat bs

/-- `n` bytes of a number, little-endian. -/
def natToBytes : Nat → Nat → List Byte
  | 0, _ => []
  | n + 1, x => BitVec.ofNat 8 x :: natToBytes n (x / 256)

/-- The instruction of a slot's bytes, byte 0 first (R24). -/
def decode (bs : List Byte) : Except Reject Instr :=
  if bs.length < 12 then .error .shortSlot
  else
    let w : IWord := BitVec.ofNat 96 (bytesToNat (bs.take 12))
    match decodeWord w with
    | some i => .ok i
    | none => .error (.illegalInstruction (w.extractLsb' 69 10))

/-- The instruction of a word whose bits are numbered as the opcode table numbers them: bit 0 is bit 0 of the slot's
first 32-bit word, so the number is the 96-bit instruction itself. -/
def decodeTableWord (nbits w : Nat) : Option Instr :=
  match decode (natToBytes 12 (w % 2 ^ (min nbits 96))) with
  | .ok i => some i
  | .error _ => none

/-! ### The encoder -/

/-- Selector order of the specials (Table 6). -/
def Special.code : Special → BitVec 9
  | .lane => 0x140 | .warp => 0x141 | .core => 0x142 | .group => 0x143 | .tcX => 0x144 | .tcY => 0x145 | .tcZ => 0x146
  | .bshapeX => 0x147 | .bshapeY => 0x148 | .bshapeZ => 0x149 | .bid => 0x14A | .nbid => 0x14B | .cid => 0x14C
  | .ncid => 0x14D | .cshape => 0x14E | .cpos => 0x14F | .stage => 0x150 | .home => 0x151 | .key => 0x152
  | .msrc => 0x153 | .amask => 0x154 | .fstat => 0x155 | .tstat => 0x156 | .cpstat => 0x157

/-- A selector's nine bits (Table 5). -/
def encSel : Sel → BitVec 9
  | .v n => 0#1 ++ n
  | .k n => 0b100#3 ++ n
  | .sp r => r.code
  | .z => 0x1FF

/-- A type's code (Table 15). -/
def Ty.code : Ty → BitVec 5
  | .s32 => 0x00 | .n32 => 0x01 | .s16 => 0x02 | .n16 => 0x03 | .s8 => 0x04 | .n8 => 0x05 | .s64 => 0x06 | .n64 => 0x07
  | .f32 => 0x08 | .f16 => 0x09 | .bf16 => 0x0A | .dt8 => 0x0B | .b1 => 0x0C | .b8 => 0x0D | .b16 => 0x0E | .b32 => 0x0F
  | .b64 => 0x10 | .b128 => 0x11 | .f16x2 => 0x12 | .bf16x2 => 0x13

/-- B20 and W, as one field of 21 bits. -/
def encB : BSrc → BitVec 21
  | .reg s => 0#11 ++ encSel s ++ 0#1
  | .win w off => w ++ off ++ 1#1

def encR (o : ROps) : BitVec 69 :=
  (encSel o.d ++ encSel o.a ++ encSel o.c ++ encB o.b ++ o.ty.code ++ o.mod)

def encI (o : IOps) : BitVec 69 :=
  (encSel o.d ++ encSel o.a ++ encSel o.c ++ o.imm ++ o.ty.code ++ o.mod)

def encP (o : POps) : BitVec 69 :=
  (o.pt ++ o.pf ++ o.cmb ++ o.cc ++ encSel o.a ++ encB o.b ++ o.ty.code ++ 0#22)

def encPset (o : PsetOps) : BitVec 69 :=
  (o.pt ++ o.pf ++ o.cmb ++ 0#4 ++ 0x1FF#9 ++ 0#3 ++ o.q3 ++ o.q2 ++ o.q1 ++ o.tq ++ 0#28)

def encPpoint (o : PpointOps) : BitVec 69 :=
  (0x3FFFF#18 ++ 0#2 ++ o.plm ++ 0#4 ++ o.prsm ++ 0#6 ++ o.accm)

def encM (o : MOps) : BitVec 69 :=
  (encSel o.d ++ encSel o.a ++ encSel o.x ++ o.off ++ o.xs ++ o.sp ++ o.ty.code ++ o.lc ++ o.aop)

def encC (o : COps) : BitVec 69 :=
  (o.disp ++ encSel o.a ++ o.cb ++ o.mod)

def encW (o : WOps) : BitVec 69 :=
  (o.nld ++ o.nst ++ o.ncp ++ o.nmx ++ 0#41)

def encX (o : XOps) : BitVec 69 :=
  (o.acc ++ o.prs ++ encSel o.aop ++ encSel o.skp ++ o.opt ++ o.tya.code ++ o.kst ++ o.asrc ++ o.mod)

/-- The opcode of an instruction (Table 20); none for a step of the part. -/
def Instr.op : Instr → Option (BitVec 10)
  | .add _ _ => some 0x000
  | .sub _ _ => some 0x001
  | .mul _ _ => some 0x002
  | .mulhi _ _ => some 0x003
  | .mad _ _ => some 0x004
  | .madhi _ _ => some 0x005
  | .min _ _ => some 0x006
  | .max _ _ => some 0x007
  | .abs _ _ => some 0x008
  | .neg _ _ => some 0x009
  | .sad _ _ => some 0x00a
  | .dot4 _ _ => some 0x00b
  | .lea _ _ => some 0x00c
  | .and _ _ => some 0x00d
  | .or _ _ => some 0x00e
  | .xor _ _ => some 0x00f
  | .bitop _ _ => some 0x010
  | .shl _ _ => some 0x011
  | .shr _ _ => some 0x012
  | .sra _ _ => some 0x013
  | .rotl _ _ => some 0x014
  | .rotr _ _ => some 0x015
  | .clz _ _ => some 0x016
  | .ctz _ _ => some 0x017
  | .popc _ _ => some 0x018
  | .brev _ _ => some 0x019
  | .bfx _ _ => some 0x01a
  | .bfi _ _ => some 0x01b
  | .sel _ _ => some 0x01c
  | .mov _ _ => some 0x01d
  | .movi _ _ => some 0x01e
  | .addi _ _ => some 0x01f
  | .shfl _ _ => some 0x020
  | .voteAny _ _ => some 0x021
  | .voteAll _ _ => some 0x021
  | .voteMask _ _ => some 0x021
  | .matchAny _ _ => some 0x022
  | .matchAll _ _ => some 0x022
  | .rdlane _ _ => some 0x023
  | .wscan _ _ => some 0x024
  | .wred _ _ => some 0x025
  | .fadd _ _ => some 0x080
  | .fsub _ _ => some 0x081
  | .fmul _ _ => some 0x082
  | .ffma _ _ => some 0x083
  | .fmin _ _ => some 0x084
  | .fmax _ _ => some 0x085
  | .frcp _ _ => some 0x086
  | .frsq _ _ => some 0x087
  | .fsqrt _ _ => some 0x088
  | .fex2 _ _ => some 0x089
  | .flg2 _ _ => some 0x08a
  | .fsin _ _ => some 0x08b
  | .fcos _ _ => some 0x08c
  | .frnd _ _ => some 0x08d
  | .fscale _ _ => some 0x08e
  | .fdot2 _ _ => some 0x08f
  | .fclass _ _ => some 0x090
  | .fclassTake _ _ => some 0x090
  | .cvt _ _ => some 0x091
  | .pack2 _ _ => some 0x092
  | .dtdec _ _ => some 0x093
  | .dtenc _ _ => some 0x094
  | .icmp _ _ => some 0x100
  | .fcmp _ _ => some 0x101
  | .pset _ _ => some 0x102
  | .btst _ _ => some 0x103
  | .pmovToReg _ _ => some 0x104
  | .pmovToPred _ _ => some 0x104
  | .ld _ _ => some 0x180
  | .st _ _ => some 0x181
  | .ldc _ _ => some 0x182
  | .atom _ _ => some 0x183
  | .red _ _ => some 0x184
  | .pref _ _ => some 0x185
  | .bra _ _ => some 0x200
  | .brx _ _ => some 0x201
  | .call _ _ => some 0x202
  | .ret _ _ => some 0x203
  | .loop _ _ => some 0x204
  | .loopExit _ _ => some 0x204
  | .exit _ _ => some 0x205
  | .joinEnrol _ _ => some 0x206
  | .joinWait _ _ => some 0x207
  | .joinLeave _ _ => some 0x208
  | .yield _ _ => some 0x209
  | .nop _ _ => some 0x20a
  | .brk _ _ => some 0x20b
  | .wait _ _ => some 0x20c
  | .fence _ _ => some 0x20d
  | .barArrive _ _ => some 0x20e
  | .barWait _ _ => some 0x20e
  | .barSync _ _ => some 0x20e
  | .cbarArrive _ _ => some 0x20f
  | .cbarWait _ _ => some 0x20f
  | .cbarSync _ _ => some 0x20f
  | .sringPost _ _ => some 0x210
  | .sringWait _ _ => some 0x210
  | .rgn _ _ => some 0x211
  | .ppoint _ _ => some 0x212
  | .trap _ _ => some 0x213
  | .launch _ _ => some 0x214
  | .snooze _ _ => some 0x215
  | .mma _ _ => some 0x280
  | .tfill _ _ => some 0x281
  | .tfillId _ _ => some 0x281
  | .tld _ _ => some 0x282
  | .tst _ _ => some 0x283
  | .tmovGet _ _ => some 0x284
  | .tmovPut _ _ => some 0x284
  | .tmask _ _ => some 0x285
  | .pbind _ _ => some 0x286
  | .pfill _ _ => some 0x287
  | .tbind _ _ => some 0x288
  | .cp _ _ => some 0x300
  | .cp2d _ _ => some 0x300
  | .gath _ _ => some 0x301
  | .scat _ _ => some 0x302
  | .probe _ _ => some 0x303
  | .unpin _ _ => some 0x304
  | .rstrp _ _ => some 0x305
  | .discard _ _ => some 0x306
  | .cpseal _ _ => some 0x307
  | .sortw _ _ => some 0x308
  | .sortqKey _ _ => some 0x309
  | .sortqAll _ _ => some 0x309
  | .sortd _ _ => some 0x30a
  | .sortdKey _ _ => some 0x30a
  | .sortc _ _ => some 0x30b
  | .sortcJoin _ _ => some 0x30b
  | .msend _ _ => some 0x30c
  | .mdone _ _ => some 0x30d
  | .sysrd _ _ => some 0x380
  | .syswr _ _ => some 0x381
  | .tlbinvCtx _ _ => some 0x382
  | .tlbinvRange _ _ => some 0x382
  | .tlbinvAll _ _ => some 0x382
  | .cinv _ _ => some 0x383
  | .gtime _ _ => some 0x384
  | .hlt _ _ => some 0x385
  | .parityRefetch _ _ | .fairnessTimerExpiry _ _ | .watchdogExpiry _ _ | .snoozeExpiry _ _ | .rejectionAgeLimit _
  | .loadDataReturn _ | .homeWritePerform _ | .writeCompletionReturn _ | .fencePass _ _ | .l1FillServe _ _
  | .leaseExpiry _ _ | .sliceEviction _ | .tlbWalk _ _ _ | .fransSuccess _ | .fransFailure _ | .frheadWrite _
  | .frsizeWrite _ | .frstatOvfClear | .nbvWrite _ | .leaseWrite _ | .slpinWrite _ | .systemRegisterWrite _ _ _
  | .group5EntryStart _ | .mmaKstep _ | .group5EntryComplete _ | .copyOpStart _ | .cpChunk _ | .gatherProbePass _
  | .gatherVector _ | .cpsealRecordWrite _ | .rstrpStart _ | .rstrpLineCopy _ | .rstrpPageShootdown _
  | .rstrpReturnEntry _ | .discardSliceWalk _ _ | .copyOpRetire _ | .sorterRunAccept _ _ | .basketEmit _ _ _ _
  | .drainEmission _ _ _ | .spillReadback _ _ _ | .basketAgeExpiry _ _ _ _ | .sortqReply _ _ | .domainStuck _ _
  | .messageArrival _ | .handlerWarpForm _ | .clusterReset _ | .kill _ | .hostQueuePublish _ _ | .launchAccept
  | .clusterPlace _ | .blockRetire _ _ _ | .clusterRetire _ _ | .cmapBitSet _ _ | .preemptSoft _ | .preemptHard _
  | .restore _ | .engineStopAck _ | .pdeadlineExpiry | .contextSave | .debugResumeWarp _ | .debugResumeAll _
  | .debugWindowWrite _ _ _ | .hostWindowRead _ _ | .hostWindowWrite _ _ | .ownershipFlipToHost _
  | .ownershipFlipToDevice _ | .ownershipFlipComplete | .peerInboundWrite _ _ _ | .peerInboundRead _ _ _
  | .peerLinkDown _ | .attest | .regcode | .unregcode | .signhead | .unseal | .bbread | .fwload | .coldReset
  | .warmReset | .softErrorCorrected | .uncorrectableError _ | .coreGroupRetire _ | .clockGovernorStep _ _
  | .thermalShutdown | .constantCacheFill _ _ _ | .instructionFetch _ _ _ | .wringerArrival _ => none

/-- The guard and the body of an instruction; none for a step of the part. -/
def Instr.body : Instr → Option (Guard × BitVec 69)
  | .add g o | .sub g o | .mul g o | .mulhi g o | .mad g o | .madhi g o | .min g o | .max g o | .abs g o | .neg g o
  | .sad g o | .dot4 g o | .lea g o | .and g o | .or g o | .xor g o | .bitop g o | .shl g o | .shr g o | .sra g o
  | .rotl g o | .rotr g o | .clz g o | .ctz g o | .popc g o | .brev g o | .bfx g o | .bfi g o | .sel g o | .mov g o
  | .shfl g o | .voteAny g o | .voteAll g o | .voteMask g o | .matchAny g o | .matchAll g o | .rdlane g o
  | .wscan g o | .wred g o | .fadd g o | .fsub g o | .fmul g o | .ffma g o | .fmin g o | .fmax g o | .frcp g o
  | .frsq g o | .fsqrt g o | .fex2 g o | .flg2 g o | .fsin g o | .fcos g o | .frnd g o | .fscale g o | .fdot2 g o
  | .fclass g o | .fclassTake g o | .cvt g o | .pack2 g o | .dtdec g o | .dtenc g o | .pmovToReg g o
  | .pmovToPred g o | .nop g o | .fence g o | .barArrive g o | .barWait g o | .barSync g o | .cbarArrive g o
  | .cbarWait g o | .cbarSync g o | .sringPost g o | .sringWait g o | .trap g o | .launch g o | .snooze g o
  | .cp g o | .cp2d g o | .gath g o | .scat g o | .probe g o | .unpin g o | .rstrp g o | .discard g o | .cpseal g o
  | .sortw g o | .sortqKey g o | .sortqAll g o | .sortd g o | .sortdKey g o | .sortc g o | .sortcJoin g o
  | .msend g o | .mdone g o | .sysrd g o | .syswr g o | .tlbinvCtx g o | .tlbinvRange g o | .tlbinvAll g o
  | .cinv g o | .gtime g o | .hlt g o => some (g, encR o)
  | .movi g o | .addi g o => some (g, encI o)
  | .icmp g o | .fcmp g o | .btst g o => some (g, encP o)
  | .ld g o | .st g o | .ldc g o | .atom g o | .red g o | .pref g o => some (g, encM o)
  | .bra g o | .brx g o | .call g o | .ret g o | .loop g o | .loopExit g o | .exit g o | .joinEnrol g o
  | .joinWait g o | .joinLeave g o | .yield g o | .brk g o | .rgn g o => some (g, encC o)
  | .mma g o | .tfill g o | .tfillId g o | .tld g o | .tst g o | .tmovGet g o | .tmovPut g o | .tmask g o
  | .pbind g o | .pfill g o | .tbind g o => some (g, encX o)
  | .pset g o => some (g, encPset o)
  | .ppoint g o => some (g, encPpoint o)
  | .wait g o => some (g, encW o)
  | .parityRefetch _ _ | .fairnessTimerExpiry _ _ | .watchdogExpiry _ _ | .snoozeExpiry _ _ | .rejectionAgeLimit _
  | .loadDataReturn _ | .homeWritePerform _ | .writeCompletionReturn _ | .fencePass _ _ | .l1FillServe _ _
  | .leaseExpiry _ _ | .sliceEviction _ | .tlbWalk _ _ _ | .fransSuccess _ | .fransFailure _ | .frheadWrite _
  | .frsizeWrite _ | .frstatOvfClear | .nbvWrite _ | .leaseWrite _ | .slpinWrite _ | .systemRegisterWrite _ _ _
  | .group5EntryStart _ | .mmaKstep _ | .group5EntryComplete _ | .copyOpStart _ | .cpChunk _ | .gatherProbePass _
  | .gatherVector _ | .cpsealRecordWrite _ | .rstrpStart _ | .rstrpLineCopy _ | .rstrpPageShootdown _
  | .rstrpReturnEntry _ | .discardSliceWalk _ _ | .copyOpRetire _ | .sorterRunAccept _ _ | .basketEmit _ _ _ _
  | .drainEmission _ _ _ | .spillReadback _ _ _ | .basketAgeExpiry _ _ _ _ | .sortqReply _ _ | .domainStuck _ _
  | .messageArrival _ | .handlerWarpForm _ | .clusterReset _ | .kill _ | .hostQueuePublish _ _ | .launchAccept
  | .clusterPlace _ | .blockRetire _ _ _ | .clusterRetire _ _ | .cmapBitSet _ _ | .preemptSoft _ | .preemptHard _
  | .restore _ | .engineStopAck _ | .pdeadlineExpiry | .contextSave | .debugResumeWarp _ | .debugResumeAll _
  | .debugWindowWrite _ _ _ | .hostWindowRead _ _ | .hostWindowWrite _ _ | .ownershipFlipToHost _
  | .ownershipFlipToDevice _ | .ownershipFlipComplete | .peerInboundWrite _ _ _ | .peerInboundRead _ _ _
  | .peerLinkDown _ | .attest | .regcode | .unregcode | .signhead | .unseal | .bbread | .fwload | .coldReset
  | .warmReset | .softErrorCorrected | .uncorrectableError _ | .coreGroupRetire _ | .clockGovernorStep _ _
  | .thermalShutdown | .constantCacheFill _ _ _ | .instructionFetch _ _ _ | .wringerArrival _ => none

/-- The 96-bit word of an instruction (R38); none for a step of the part, which has no encoding. -/
def encode (i : Instr) : Option IWord :=
  match i.op, i.body with
  | some op, some (g, b) => some (g.tt ++ g.ga ++ g.gb ++ g.gc ++ op ++ b)
  | _, _ => none

end Sys2Proof
end

