-- ==== Sys2Proof/Machine/State.lean ====
section
/-! DEFINITION. The state of the Salnel as plain data: threads, warps, blocks, clusters, the launch table, caches and
translation, memory, engines, the sorter, system registers, and what the driver and the surroundings hold. INVENTORY.md
lists every piece with the rule that names it. -/

namespace Sys2Proof.Machine

open Sys2Proof

/-! ### Memory -/

/-- Memory: address and byte pairs, addresses strictly rising, no listed byte equal to 0, which every unlisted
address reads as (assumption 4). -/
abbrev Memory := List Host.Cell

/-- Is every listed address above `lo` and rising, and is no listed byte 0? -/
def Memory.wfFrom (lo : Nat) : Memory → Bool
  | [] => true
  | (a, b) :: rest => decide (lo ≤ a) && b != 0 && Memory.wfFrom (a + 1) rest

/-- The canonical form of a memory. -/
def Memory.wf (m : Memory) : Bool := Memory.wfFrom 0 m

/-! ### Threads and warps -/

/-- A hardware loop frame (R99). -/
structure Frame where
  start : VAddr
  fin : VAddr
  remaining : Word
  deriving DecidableEq, Repr, Inhabited

/-- What a waiting lane waits on (R84). -/
inductive WaitOn where
  /-- `join.wait` on convergence barrier `cb` (R104) -/
  | join (cb : Nat)
  /-- a named block barrier (R367) -/
  | bar (b : Nat)
  /-- the cluster barrier (R370) -/
  | cbar
  /-- a stage ring slot, until its bit equals the phase (R372) -/
  | ring (ring slot : Nat) (phase : Bool)
  /-- the sorter's room check (R350, third hold) -/
  | sorter
  /-- `snooze`, until the core-cycle count reaches the bound (R107) -/
  | snooze (until_ : Nat)
  deriving DecidableEq, Repr

/-- The state of a lane (R84). `parked` holds the type of its access (Table 8 of 10_translation_and_faults) and the faulting
virtual addresses it waits for (R246). A lane is halted while
its warp is (`Warp.brk`, R109) or its context is (`Launch.run`, R411); it keeps what it was doing. -/
inductive LaneStatus where
  | runnable
  | waiting (on : WaitOn)
  | parked (typ : Nat) (vas : List Nat)
  | exited
  | departed
  deriving DecidableEq, Repr

/-- One lane of a warp: a thread (R17, R22, R99, R243, R267). Never-live lanes have status `exited` (R84). -/
structure Lane where
  status : LaneStatus
  pc : VAddr
  /-- `v0` to `v(n-1)` (R112) -/
  v : List Word
  /-- bit i is `p_i` for i = 1 to 7; `p0` reads as 1 whatever bit 0 holds (R117) -/
  p : BitVec 8
  /-- loop frames, innermost first (R99) -/
  frames : List Frame
  /-- region entry PC, snapshot and counter (R243) -/
  rpc : VAddr
  rsnap : List Frame
  rcnt : Word
  /-- the model's own thread number -/
  uid : Nat
  /-- `%bid` and linear index (R17, R22); for a handler thread the lane (R378) -/
  bid : Nat
  tid : Nat
  /-- `%key` (R43) -/
  key : BitVec 12
  /-- withdrawn by `sortc` (R361) -/
  withdrawn : Bool
  /-- `%msrc` (R378, Table 5) -/
  msrc : Word
  /-- the publication state of R267 and the settling time of R268 -/
  vis : Nat
  pw : Nat
  mc : Nat
  dgt : Nat
  /-- the largest global time that `gtime` has given the thread (R260) -/
  seenGt : Nat
  /-- cycle of the lane's last issue (R89) -/
  lastIssue : Nat
  /-- the predicates saved for this lane are only those of the `ppoint` that stopped it (R402) -/
  atPpoint : Bool
  deriving DecidableEq, Repr

/-- The four classes of counted operations (R192), and none. -/
inductive OpClass where
  | ld | st | cp | mx | none
  deriving DecidableEq, Repr

/-- A counted instruction that has not retired (R192, R193), in issue order in `Warp.ops`. `left` is the number of its
lanes' parts still to complete; `cpstat` and `w` are what retirement of a CP-class or `tst` operation writes. -/
structure OutOp where
  id : Nat
  cls : OpClass
  left : Nat
  cpstat : Option Word
  w : Nat
  uids : List Nat
  trapAddr : Option Nat
  pc : VAddr
  mask : Mask
  deriving DecidableEq, Repr

/-- Why the path at a PC is held although its lanes are runnable. -/
inductive Hold where
  /-- at a `fence` or a release of this scope, with these lanes active and executing (R270, R273); `moves` is false for a
  release, which then issues itself -/
  | fence (scope : Nat) (act ex : Mask) (moves : Bool)
  /-- at `sortw`, its run offered to the sorter since this cycle by these active and executing lanes, which wait (R350, third
  hold; R360), with `n` payload registers from `q` and each executing lane's key -/
  | sorter (since : Nat) (act ex : Mask) (n q : Nat) (keys : List (Nat × Nat))
  /-- at `sortq`, until its reply (R361): the active lanes, D, and for each executing lane its key, none for `.all` -/
  | sortq (act : Mask) (dest : Sel) (asks : List (Nat × Option Nat))
  /-- at `msend` after these lanes took their allowances (R376) -/
  | msend (ex : Mask)
  /-- at `launch`, with these lanes active, executing and done (R397) -/
  | launch (act ex did : Mask)
  /-- at `tlbinv`, its entries removed: until the accesses that were then under way are performed, those numbered below
  `upto`, of the selection and of the pages whose entries went (context, first and last address plus one; R241) -/
  | drain (act : Mask) (upto : Nat) (pages : List (Nat × Nat × Nat))
  deriving DecidableEq, Repr

/-- How a warp was formed (18 Table 6). -/
inductive WarpKind where
  | block | sorter | handler
  deriving DecidableEq, Repr

/-- A resident warp (04, 05, 08). -/
structure Warp where
  core : Nat
  slot : Nat
  ctx : Nat
  cluster : Nat
  kind : WarpKind
  /-- block warp number, for a warp formed at launch -/
  wid : Nat
  stage : Nat
  /-- formation number (R81) -/
  form : Nat
  /-- registers of each of its 32 lanes, which it holds until its slot is released (R112) -/
  nreg : Nat
  /-- 32 lanes -/
  lanes : List Lane
  /-- `k32` to `k63` -/
  k : List Word
  /-- `cb0` to `cb15`: enrolled and arrived masks (R104) -/
  cb : List (Mask × Mask)
  fstat : Word
  cpstat : Word
  /-- PC of the current path (R85) -/
  cur : Option VAddr
  /-- for each other path, the step at which it last held a turn or was formed (R86) -/
  since : List (VAddr × Nat)
  /-- cycle at which the current turn began (R88); nothing of the warp has issued yet, so that its first turn has not begun -/
  turnStart : Nat
  fresh : Bool
  /-- unretired counted operations, oldest first (R193) -/
  ops : List OutOp
  /-- what the path at a PC is held for (R270, R350, R361, R376) -/
  hold : List (VAddr × Hold)
  /-- paths held at a held instruction: its PC, the awaited lanes that have not joined, and the lanes of the path that
  execute it (R247) -/
  holds : List (VAddr × Mask × Mask)
  /-- rejections of the next instruction of the path at a PC (R202) -/
  ages : List (VAddr × Nat)
  /-- how the issuing lanes reached their PC: the PC and the address of a checked transfer still to be checked (R34) -/
  chk : List (Nat × VAddr × Nat)
  /-- stopped at a `ppoint`: ACCM, PRSM, PLM (R402) -/
  stopped : Option (BitVec 16 × BitVec 16 × BitVec 7)
  /-- halted at a breakpoint (R109) -/
  brk : Bool
  /-- cycle at which it was halted so -/
  brkAt : Nat
  /-- lanes of the stall record posted and not yet issued again (R89) -/
  stallMask : Mask
  deriving DecidableEq, Repr

/-! ### Blocks, clusters, launches -/

/-- The expected count of a named barrier (R366). -/
inductive Expect where
  | unset | all | count (c : Nat)
  deriving DecidableEq, Repr

/-- A named barrier of a block (R366), or the cluster barrier (R370). `pend` lists the threads with PEND = 1: the
thread's block and linear index, and its APH. -/
structure Bar where
  ph : Word
  cnt : Nat
  ec : Expect
  pend : List (Nat × Nat × Word)
  deriving DecidableEq, Repr

/-- An accumulator tile: its state word (R282) and its 64 rows of 128 elements. -/
structure Tile where
  s32 : Bool
  susp : Bool
  prog : Nat
  rows : List (List Word)
  deriving DecidableEq, Repr

/-- A dispatched block, at its home core (R18, R165, R281, R366, R371). -/
structure Block where
  ctx : Nat
  cluster : Nat
  bid : Nat
  home : Nat
  /-- reserved block SRAM bytes S (R162) -/
  size : Nat
  sram : Memory
  tiles : List Tile
  /-- binding descriptors of `pb0` to `pb(n-1)` (R282, Table 3) -/
  binds : List DWord
  /-- press region: key = slice * (n_p * 1024) + slice offset (R280) -/
  press : Memory
  tstat : Word
  bars : List Bar
  rings : List (BitVec 16)
  threads : Nat
  exited : List Nat
  deriving DecidableEq, Repr

/-- A message (R376, R377). -/
structure Msg where
  id : Nat
  ctx : Nat
  cluster : Nat
  /-- cluster-relative ordinals of the source and destination cores -/
  src : Nat
  dst : Nat
  h : Nat
  payload : List Word
  msrc : Word
  dev : Bool
  pc : VAddr
  /-- sending lane, warp slot and core, for R381 -/
  lane : Nat
  slot : Nat
  core : Nat
  /-- has it joined the destination's pending list? -/
  arrived : Bool
  deriving DecidableEq, Repr

/-- Where a thread's sorter records lie (R353). -/
inductive RecPlace where
  | sram
  | spill (unit first : Nat)
  deriving DecidableEq, Repr

/-- A thread in the sorter: its header, loop, snapshot and payload records (R347). -/
structure Basketed where
  lane : Lane
  stage : Nat
  n : Nat
  q : Nat
  arr : Word
  place : RecPlace
  readBack : Bool
  /-- cycle of its arrival, and the core it left; 192 after a restore -/
  came : Nat
  left : Nat
  /-- the DGT it was settling by when it left that core (R268) -/
  settle : Nat
  deriving DecidableEq, Repr

/-- A reorder domain (R342 to R360): the sorter's state for one cluster. -/
structure Domain where
  quota : Nat
  units : Nat
  spill : Nat
  /-- reserve units of the domain, as chosen at placement (R343, R353) -/
  reserve : List Nat
  nextArr : Word
  threads : List Basketed
  /-- baskets marked for drain: stage, key, and how many of their oldest threads still go out in full warps first (R354,
  Table 6) -/
  marks : List (Nat × Nat × Nat)
  /-- cycle of the last progress (R360) -/
  progress : Nat
  deriving DecidableEq, Repr

/-- A placed cluster (R19, R167, R370, R374, R391). -/
structure Cluster where
  ctx : Nat
  idx : Nat
  die : Nat
  ox : Nat
  oy : Nat
  cbar : Bar
  /-- threads of the cluster whose ends its origin core has learnt of (R370) -/
  cexits : Nat
  /-- core-pinned frames: key = ((core ordinal) * 6 + frame) * 65536 + offset -/
  pinned : Memory
  /-- allowances taken: source ordinal, destination ordinal, number (R376) -/
  allow : List (Nat × Nat × Nat)
  domain : Option Domain
  /-- largest VIS of a thread at exit (R394) -/
  visMax : Nat
  /-- all blocks retired and the rectangle released: the completion bit is still to be set (R394) -/
  retired : Bool
  deriving DecidableEq, Repr

/-- How a context stands (R395, R411, R420). -/
inductive RunState where
  | live | halted
  deriving DecidableEq, Repr

/-- A launch-table entry (R386, R387). `rec` is the 256-byte record as accepted. -/
structure Launch where
  ctx : Nat
  gen : Nat
  rec_ : List Byte
  htab : List Nat
  wtab : List (Nat × Nat)
  /-- table-space offset of the record's STATUS word -/
  statusAt : Option Nat
  accepted : Nat
  /-- clusters placed or finished, that are not to be placed again -/
  placed : List Nat
  /-- clusters retired with their bit set, or discarded -/
  done : List Nat
  /-- saved clusters still to be placed by a restore (image offset and index) -/
  toRestore : List (Nat × Nat)
  run : RunState
  /-- some cluster of it was discarded, so it ends with 0x90 (R395) -/
  broken : Bool
  /-- translation faults on its DMAP or CMAP that await an answer (R390, R394): twice the cluster's index, plus 1 for its CMAP bit,
  the core named, the address -/
  mapFault : List (Nat × Nat × Nat)
  dtrap : DWord
  slotNo : Nat
  /-- spill units of its saved clusters that no placed domain holds yet: cluster and unit (R343, R362) -/
  savedUnits : List (Nat × Nat)
  deriving DecidableEq, Repr

/-! ### Memory requests, caches, translation -/

/-- Where a byte lies. Of an access (R230, R261): block SRAM at its home core, a core-pinned frame, or a byte of an HBM channel
behind its slice (device address = channel * 2^31 + la). Of a poison mark also: a block's part of its matrix engine, the press region
by its keys (`Block.press`), then the tiles from 2^32 on, 2^15 bytes each (R280, R431). -/
inductive Target where
  | sram (ctx cluster bid off : Nat)
  | frame (ctx cluster key : Nat)
  | line (dev : Nat)
  | mx (ctx cluster bid off : Nat)
  deriving DecidableEq, Repr

/-- What a request does. -/
inductive ReqKind where
  | load | store | atom | red | ldc
  deriving DecidableEq, Repr

/-- A request in flight: one part of one lane's access (R172, R176, R180, R192). -/
structure Req where
  id : Nat
  op : Nat
  core : Nat
  slot : Nat
  form : Nat
  ctx : Nat
  cluster : Nat
  /-- `%bid` of the thread, 0xFFFFFFFF for a handler thread -/
  bid : Nat
  uid : Nat
  lane : Nat
  kind : ReqKind
  ty : Ty
  lc : BitVec 2
  aop : BitVec 6
  tgt : Target
  /-- virtual address of the part -/
  va : Nat
  size : Nat
  /-- offset of the part in the access -/
  at_ : Nat
  /-- store data of the part, or atomic operand (compare and then new value for cas) -/
  data : List Byte
  dest : Sel
  /-- takes a miss-status entry of its own (R200) -/
  mse : Bool
  /-- the L1 fill it started or joined (R201): its data is the fill's -/
  fill : Option Nat
  /-- bytes obtained at the home, or from an L1 copy -/
  got : Option (List Byte)
  /-- write completion time, once performed (R266) -/
  w : Option Nat
  /-- the line's attributes: home class, tag, sealed -/
  hc : Nat
  tag : Nat
  sealed : Bool
  /-- the numerics version in force at issue (R146) -/
  nbv : Nat
  /-- measurement slot of the launch, for a write to a sealed line (R339) -/
  meas : Nat
  /-- its data was poisoned (R431); its data, and its write completion time, have come back -/
  poison : Bool
  backD : Bool
  backW : Bool
  /-- an L1 hit whose bytes the copy still gives when they come back (R262) -/
  live : Bool
  /-- a store that an L1 copy of its core shows (R169, R262), and the other threads that have read it from one -/
  shown : Bool
  seen : List Nat
  deriving DecidableEq, Repr

/-- An L1 copy of a 128-byte line (R264). -/
structure Copy where
  core : Nat
  line : Nat
  data : List Byte
  expiry : Nat
  deriving DecidableEq, Repr

/-- An outstanding L1 fill (R169, R262): `drop` once it must not be installed; `va` is the line's address when it was asked
for. With `toL1` clear it is a `pref` into the slice alone (R185). -/
structure Fill where
  id : Nat
  core : Nat
  line : Nat
  ctx : Nat
  va : Nat
  drop : Bool
  tag : Nat
  hc : Nat
  toL1 : Bool
  deriving DecidableEq, Repr

/-- A line held in the constant cache or the instruction cache of a core (R187, R29): `bad` names the sectors that were
poisoned when it was filled (R431); `again` holds the PCs whose parity mismatch made the core fetch the line once more, until
the instruction there has passed every check (R32). -/
structure CLine where
  core : Nat
  ctx : Nat
  line : Nat
  data : List Byte
  bad : List Nat
  again : List VAddr
  deriving DecidableEq, Repr

/-- A fetch or constant-cache fill a core waits for (R30, R189, R190): `dev` is where the line lies, none once a
translation fault on it is posted and waits for its answer. -/
structure CWait where
  core : Nat
  slot : Nat
  ctx : Nat
  line : Nat
  /-- the address asked for -/
  va : Nat
  fetch : Bool
  /-- PC of the path that waits -/
  pc : VAddr
  dev : Option Nat
  /-- the placement attributes of the line: home class and tag -/
  hc : Nat
  tag : Nat
  /-- the PCs whose parity mismatch makes the core fetch the line once more (R32) -/
  again : List VAddr
  deriving DecidableEq, Repr

/-- A TLB entry (R238): context, page base, page size, the PTE and the geometry entry it names. `owner` is the core of an
L1 TLB entry, or 192 + group for an L2 TLB entry. -/
structure Tlb where
  owner : Nat
  ctx : Nat
  va : Nat
  size : Nat
  pte : DWord
  geo : BitVec 128
  deriving DecidableEq, Repr

/-- A mend-log entry (R248): `bid` is 0xFFFFFFFF for a handler thread, `meas` the measurement slot of the launch (R339). -/
structure Mend where
  core : Nat
  ctx : Nat
  cluster : Nat
  meas : Nat
  bid : Nat
  tid : Nat
  uid : Nat
  va : Nat
  data : List Byte
  /-- AOP, or 0xFF for a store -/
  aop : Nat
  ty : Ty
  lc : BitVec 2
  nbv : Nat
  deriving DecidableEq, Repr

/-- A line held in an L2 slice (R216, R217, R220). -/
structure L2Line where
  line : Nat
  data : List Byte
  dirty : Bool
  tag : Nat
  /-- global time of the latest write performed since the fill, and the number that the next operation then had -/
  wrote : Option Nat
  order : Nat
  /-- the context whose access locked it, if it is locked -/
  locked : Option Nat
  deriving DecidableEq, Repr

/-- A pinned page of a copy engine (R337, R338): its base and size, with no PTE while its retranslation after a restore
awaits an answer. -/
structure Pin where
  core : Nat
  ctx : Nat
  cluster : Nat
  va : Nat
  size : Nat
  count : Nat
  pte : Option DWord
  geo : BitVec 128
  deriving DecidableEq, Repr

/-- A page that an `rstrp` moves (R226, R227): lines below `moved` are at the new home. -/
structure Moving where
  op : Nat
  ctx : Nat
  va : Nat
  size : Nat
  /-- device address of the PTE -/
  pteAt : Nat
  old : DWord
  oldGeo : BitVec 128
  new_ : DWord
  newGeo : BitVec 128
  moved : Nat
  shot : Bool
  deriving DecidableEq, Repr

/-! ### Engines -/

/-- A translated address: where it lies, the line's attributes, and the TLB entry that a walk gave. -/
structure Mapped where
  tgt : Target
  hc : Nat
  tag : Nat
  sealed : Bool
  tlb : Option Tlb
  deriving DecidableEq, Repr

/-- One piece as translated. -/
structure Piece where
  va : Nat
  n : Nat
  m : Mapped
  deriving DecidableEq, Repr

/-- The progress of an engine operation. -/
inductive EngState where
  | queued
  | running
  /-- held for translation faults on these pages (R328, R302, R257) -/
  | faulted (vas : List Nat)
  /-- finished with a status code and a failing address -/
  | finished (code : Nat) (addr : Nat)
  deriving DecidableEq, Repr

/-- An operation of a copy and gather engine (R325, R467 Table 9): operands as read at issue. -/
structure CopyOp where
  id : Nat
  core : Nat
  ctx : Nat
  cluster : Nat
  bid : Nat
  slot : Nat
  form : Nat
  pc : VAddr
  mask : Mask
  opk : Nat
  o0 : DWord
  o1 : DWord
  o2 : Word
  q : List Word
  mod : BitVec 16
  ty : Ty
  uids : List Nat
  st : EngState
  /-- chunks or vectors done, `rstrp`: pages done; of a finished operation, COUNT -/
  prog : Nat
  /-- bytes done of the chunk or vector that stands next; `pfill`: rows (R329) -/
  part : Nat
  /-- `rstrp`: HEAD and RTAIL at the reservation; `discard`: T and the lines invalidated; others: aux0 the numerics
  version at issue -/
  aux0 : Nat
  aux1 : Nat
  /-- `discard`: the slices still to walk; `gath`, `scat`: the pages its probe pass pinned; `rstrp`: page size and
  descriptor address -/
  slices : List Nat
  /-- its start, and for `gath` and `scat` its probe pass, is done -/
  probed : Bool
  /-- the chunk or vector under way as it was translated before it began: source and destination of a transfer, contiguous side
  and table rows of a vector, the source of a `pfill` (R331, R336) -/
  mapA : List Piece
  mapB : List Piece
  /-- bytes read with their aligned part and not yet written, each with whether its sector was poisoned (R329) -/
  buf : List (Byte × Bool)
  /-- of one that has outlived its launch (R80): the launch's supervisor flag and measurement slot (R63, R339) -/
  super : Bool
  meas : Nat
  w : Nat
  deriving DecidableEq, Repr

/-- An entry of a core's engine queue (R288, R467 Table 9): operands as read at issue. -/
structure G5Entry where
  id : Nat
  core : Nat
  ctx : Nat
  cluster : Nat
  bid : Nat
  wcore : Nat
  slot : Nat
  form : Nat
  pc : VAddr
  /-- 0 mma, 1 tfill, 2 tld, 3 tst, 4 tmov, 5 tmask, 6 pbind, 7 tbind, 8 pfill -/
  opk : Nat
  ops : XOps
  a : DWord
  r : Word
  vals : List Word
  nbv : Nat
  uids : List Nat
  st : EngState
  prog : Nat
  /-- `%tstat` bits 7:0 gathered so far -/
  flags : BitVec 8
  /-- latest W of its writes -/
  w : Nat
  deriving DecidableEq, Repr

/-- What is on its way over the wringer or the mesh to a home or origin core (R369, R370, R372, R373, R288). Of a named barrier:
arrivals (block, barrier, count operand, lanes with their thread index), a request to wait, the ends of threads; of the cluster
barrier the same (lanes with block and thread index; a number of threads that ended); of a stage ring a post (block, ring, slot) and a
request to wait for a phase; an engine-queue entry. -/
inductive Carried where
  | arrive (bid b c : Nat) (threads : List (Nat × Nat))
  | waitBar (bid b : Nat) (threads : List (Nat × Nat))
  | exits (bid : Nat) (threads : List Nat)
  | carrive (threads : List (Nat × Nat × Nat))
  | waitCbar (threads : List (Nat × Nat × Nat))
  | cexits (n : Nat)
  | ringPost (bid ring slot : Nat)
  | waitRing (bid ring slot : Nat) (phase : Bool) (threads : List Nat)
  | group5 (e : G5Entry)
  deriving DecidableEq, Repr

/-- A packet of the wringer or mesh, from the core of a warp to a core; packets from one core to another arrive in order. -/
structure Packet where
  id : Nat
  core : Nat
  dst : Nat
  slot : Nat
  ctx : Nat
  cluster : Nat
  pc : VAddr
  mask : Mask
  what : Carried
  deriving DecidableEq, Repr

/-! ### Records and host state -/

/-- A fault-ring record before it is written (R253). -/
structure FaultRec where
  gen : Nat
  ctx : Nat
  gt : Nat
  aux : Nat
  lane : Nat
  addr : Nat
  count : Word
  warp : Nat
  core : Nat
  code : Nat
  typ : Nat
  kind : Nat
  deriving DecidableEq, Repr

/-- The outcome of the latest host or peer access that returns something. -/
inductive Reply where
  | none
  | data (bytes : List Byte)
  | unsupported
  | done
  | dropped
  deriving DecidableEq, Repr

/-- A black-box record (R434): `data` is the number of the first of its free data bytes, which the spec does not state
(assumption 17). -/
structure BoxRec where
  gt : Nat
  kind : Nat
  source : Nat
  data : Nat
  deriving DecidableEq, Repr

/-- Registers of a launch queue (R383). -/
structure QRegs where
  base : DWord
  size : Word
  wr : Word
  rd : Word
  ctl : Word
  deriving DecidableEq, Repr

/-- Inbound window registers of a peer port (R424). -/
structure PortRegs where
  base : DWord
  limit : DWord
  ctx : Word
  deriving DecidableEq, Repr

/-- Heap window registers (R233). -/
structure HeapRegs where
  base : DWord
  limit : DWord
  off : DWord
  geo : Word
  ctl : Word
  deriving DecidableEq, Repr

/-- The per-context register bank (R416, scope C). -/
structure CtxRegs where
  ptroot : DWord
  gtbase : DWord
  bsbase : DWord
  heap : List HeapRegs
  deriving DecidableEq, Repr

/-- The device-wide system registers (R416, Table 4). -/
structure SysRegs where
  nbv : Word
  lease : Word
  bage : Word
  fairt : Word
  wdog : Word
  /-- the values that FAIRT and WDOG held before, latest first, each with the cycle at which it was replaced (R90) -/
  fairWas : List (Nat × Word)
  wdogWas : List (Nat × Word)
  dbgctl : Word
  slpin : Word
  pdeadline : Word
  tsbase : DWord
  tssize : DWord
  tsloc : DWord
  tsgeo : DWord
  frbase : DWord
  frsize : Word
  frtail : Word
  frhead : Word
  frstat : Word
  frlate : Word
  frans0 : DWord
  frans1 : DWord
  prq : Word
  pimg : DWord
  pisz : Word
  ownf0 : DWord
  ownf1 : Word
  hwinbase : DWord
  hwinctx : Word
  kill : Word
  crst : DWord
  corrcnt : Word
  unccnt : Word
  msgdrop : Word
  hostviol : Word
  peerdrop : Word
  svcstat : Word
  clkstat : Word
  mbdoor : Word
  mbstat : Word
  ports : List PortRegs
  queues : List QRegs
  pinover : List Word
  deriving DecidableEq, Repr

/-- A pre-emption request in progress (R400 to R405). -/
structure Preempt where
  ctx : Nat
  gen : Nat
  hard : Bool
  start : Nat
  saving : Bool
  acks : List Engine
  deriving DecidableEq, Repr

/-- A restore request in progress: the context it created, the table-space offset of its image (R408), and the context number and
generation that the image was saved under. -/
structure Restoring where
  ctx : Nat
  base : Nat
  wasCtx : Nat
  wasGen : Nat
  deriving DecidableEq, Repr

/-- Where an image has a thread: a lane of a warp section, or the first record of a spill unit. -/
inductive Seat where
  | lane (sec lane : Nat)
  | record (unit first : Nat)
  deriving DecidableEq, Repr

/-- What the part keeps of a saved operation, log entry or thread beside its image. -/
inductive Kept where
  | copy (c : CopyOp)
  | mx (e : G5Entry)
  /-- with the thread that it belongs to -/
  | mend (m : Mend) (at_ : Option Seat)
  /-- of a thread: the time at which a write of its retired operations to host or peer memory is acknowledged (R270) -/
  | ack (at_ : Seat) (until_ : Nat)
  /-- of a thread in the sorter: that it has arrived at the cluster barrier, and whether in the phase that stands (R370) -/
  | pend (bid tid : Nat) (same : Bool)
  /-- of a sealed line of the pinned frames, by its number: the measurement slot of its latest writer (R339) -/
  | line (n slot : Nat)
  deriving DecidableEq, Repr

/-- An operation, a log entry or a thread that a save put into an image: the context and generation it was saved under, its cluster, its
64 bytes in the image (none for a thread), and what of it the image has no place for: the numerics version in force at its issue
(R146), the flags of an `mma` (R314), the bytes a `cpseal` has copied (R339), the reservation and the moving page of an `rstrp`
(R228). -/
structure Shelved where
  ctx : Nat
  gen : Nat
  cluster : Nat
  entry : List Byte
  kept : Kept
  deriving DecidableEq, Repr

/-- A registered code range (R427). -/
structure CodeSlot where
  slot : Nat
  va : Nat
  len : Nat
  digest : BitVec 384
  deriving DecidableEq, Repr

/-- Rilcia and the security block (R425 to R434). -/
structure Service where
  request : Memory
  response : Memory
  slots : List CodeSlot
  recovery : Bool
  firmware : List Byte
  stored : List Byte
  rollback : Nat
  /-- cold boots so far, by which the per-boot LMS trees are told apart (R426), and leaves of the tree used -/
  boots : Nat
  leaves : Nat
  seq : Nat
  headTag : BitVec 128
  box : List BoxRec
  deriving DecidableEq, Repr

/-- The environment: host bus memory, apertures the host grants, the memory behind each peer port (key =
port * 2^57 + address), and the ports whose link is up (R326, R423). -/
structure Outside where
  host : Memory
  apertures : List (Nat × Nat)
  peer : Memory
  peerWindows : List (Nat × Nat × Nat)
  linkUp : BitVec 8
  /-- writes of retired operations to host or peer memory that await their acknowledgement: thread uid, and the global time
  at which the destination acknowledges, a free value (R270, sys) -/
  unacked : List (Nat × Nat)
  irqs : List Nat
  /-- inbound writes performed and not yet acknowledged: port and W (R424) -/
  acks : List (Nat × Nat)
  reply : Reply
  /-- core groups that the part's fuse map marks (R433) -/
  fuses : List Nat
  deriving DecidableEq, Repr

/-- What a cache or TLB lets go early: an L1 copy, a line of a constant or instruction cache, a TLB entry (R187, R238, R264;
assumption 30). -/
inductive Replaced where
  | copy (core line : Nat)
  | constLine (core ctx line : Nat)
  | instrLine (core ctx line : Nat)
  | tlb (owner ctx va : Nat)
  deriving DecidableEq, Repr

/-- What acts next, and how much time passes before it (assumption 2). -/
inductive Act where
  /-- quadrant `quad` of `core` issues under R82 -/
  | issue (core quad : Nat)
  /-- an event row of the table -/
  | event (i : Instr)
  /-- the host reads or writes BAR 0 (R413, Table 1), or writes its own memory -/
  | barRead (offset size : Nat)
  | barWrite (offset : Nat) (data : List Byte)
  | hostMemory (addr : Nat) (data : List Byte)
  /-- a peer port's link comes up -/
  | linkUp (port : Nat)
  /-- an operation of a copy engine performs the next part of its chunk or vector: at most 16 bytes, or a row (R329) -/
  | part (op : Nat)
  /-- a cache or TLB replaces something although it is not full -/
  | replace (what : Replaced)
  /-- only time passes -/
  | idle
  deriving DecidableEq, Repr

/-- One turn of the schedule: nanoseconds and core cycles that pass, and who acts. -/
structure Turn where
  ns : Nat
  cycles : Nat
  act : Act
  deriving DecidableEq, Repr

/-- Why the machine stops with a fault. -/
inductive Fault where
  /-- Raised by `exec` of an instruction row when no path of the warp `State.issuing` stands to issue it: no warp is
  named, or the warp has no current path with an active lane. `step` never executes an instruction so. Safe: the model
  stops where the part issues nothing. -/
  | noIssuingPath
  deriving DecidableEq, Repr

/-- Why an instruction has no meaning. -/
inductive Refusal where
  /-- Raised by an arm of `exec` whose instruction has not been given its meaning yet. Safe. -/
  | notModelled (mnemonic : String)
  deriving DecidableEq, Repr

/-- The whole state of the part, its driver's registers and its surroundings. -/
structure State where
  /-- global time in nanoseconds (R259) and the count of core cycles -/
  gt : Nat
  cycle : Nat
  /-- how far each agent's copy of global time runs ahead: cores 0 to 191, slices 192 to 383, the I/O die 384 (R259) -/
  skews : List Nat
  sys : SysRegs
  banks : List CtxRegs
  /-- generation of each launch-table entry (R387) -/
  gens : List Nat
  launches : List Launch
  lastQueue : Nat
  acceptNo : Nat
  clusters : List Cluster
  blocks : List Block
  warps : List Warp
  /-- next formation number of each core (R81) -/
  forms : List Nat
  /-- per core, the warp slot for which freed miss-status entries are reserved, and the entries that were free when the
  reservation began and are still free for others (R203) -/
  reserved : List (Nat × Nat × Nat)
  reqs : List Req
  copies : List Copy
  fills : List Fill
  ccache : List CLine
  icache : List CLine
  cwaits : List CWait
  tlbs : List Tlb
  mends : List Mend
  hbm : Memory
  l2 : List L2Line
  /-- latest expiry granted per line, and EV per slice (R264) -/
  leases : List (Nat × Nat)
  ev : List Nat
  /-- poisoned 32-byte sectors, by device address div 32 (R431) -/
  poison : List Nat
  /-- poisoned 32-byte sectors of block SRAM, core-pinned frames and matrix engines, each by its first byte (R431) -/
  badSram : List Target
  /-- sealed-frame map: frame base, geometry, size (R428); measurement slot of each line of a slice or a frame, by its number (R339) -/
  sealedFrames : List (Nat × BitVec 128 × Nat)
  lineSlots : List (Target × Nat)
  pins : List Pin
  moving : List Moving
  /-- return slots reserved and not yet written, per pool descriptor address (R225) -/
  rsv : List (Nat × Nat)
  /-- return entries written that RTAIL has not yet passed: pool descriptor address and entry index (R226) -/
  returned : List (Nat × Nat)
  copyOps : List CopyOp
  /-- what the part keeps of saved operations and log entries beside their images (R146, R225, R228, R314, R339) -/
  shelf : List Shelved
  g5 : List G5Entry
  packets : List Packet
  msgs : List Msg
  /-- records waiting for the ring (R254) -/
  pendingRecs : List FaultRec
  /-- a record had to wait: the next one written has OVF = 1 (R253, R254) -/
  ovfNext : Bool
  preempt : Option Preempt
  restoring : Option Restoring
  flipping : Option (Nat × Nat × Bool)
  dsel : List DWord
  retired : List Nat
  stopped : Bool
  service : Service
  outside : Outside
  nextId : Nat
  /-- lines and entries replaced so far, by which the free choice of each victim is numbered -/
  drops : Nat
  /-- how many instructions have issued: what the step reads to see that a warp took its slot -/
  issues : Nat
  /-- rotation of the default issue order -/
  rr : Nat
  schedule : List Turn
  /-- the warp that issues in this step: core and slot -/
  issuing : Option (Nat × Nat)
  deriving DecidableEq, Repr

/-- A queue's registers after cold reset (R383). -/
def QRegs.reset : QRegs := { base := 0, size := 0, wr := 0, rd := 0, ctl := 0 }

/-- A port's window registers after cold reset (R424). -/
def PortRegs.reset : PortRegs := { base := 0, limit := 0, ctx := 0 }

/-- A heap window after cold reset (R233). -/
def HeapRegs.reset : HeapRegs := { base := 0, limit := 0, off := 0, geo := 0, ctl := 0 }

/-- A per-context bank after cold reset (R231, R233; GTBASE and BSBASE: assumption 5). -/
def CtxRegs.reset : CtxRegs :=
  { ptroot := 0, gtbase := 0, bsbase := 0, heap := List.replicate 4 HeapRegs.reset }

/-- The device-wide registers after cold reset: the Reset columns of the spec, and assumption 5 where it gives none. -/
def SysRegs.reset : SysRegs :=
  { nbv := 3, lease := 8, bage := 2048, fairt := 1024, wdog := 30, fairWas := [], wdogWas := [], dbgctl := 0, slpin := 0, pdeadline := 2000,
    tsbase := 0, tssize := 0, tsloc := 0, tsgeo := 0, frbase := 0, frsize := 0, frtail := 0, frhead := 0, frstat := 0,
    frlate := 0, frans0 := 0, frans1 := 0, prq := 0, pimg := 0, pisz := 0, ownf0 := 0, ownf1 := 0, hwinbase := 0,
    hwinctx := 0, kill := 0, crst := 0, corrcnt := 0, unccnt := 0, msgdrop := 0, hostviol := 0, peerdrop := 0,
    svcstat := 0x00FFFFFF, clkstat := 0x08340834, mbdoor := 0, mbstat := 0,
    ports := List.replicate 8 PortRegs.reset, queues := List.replicate 64 QRegs.reset,
    pinover := List.replicate 192 0 }

/-- Rilcia after cold reset: a verified image runs, nothing is registered, SEQ is 0 (R340, R425 to R434). -/
def Service.reset : Service :=
  { request := [], response := [], slots := [], recovery := false, firmware := [], stored := [], rollback := 0,
    boots := 0, leaves := 0, seq := 0, headTag := 0, box := [] }

/-- The surroundings the model starts with (assumption 5): host memory reads 0, every host address lies in an
aperture, every peer link is up and admits nothing. -/
def Outside.reset : Outside :=
  { host := [], apertures := [(0, 2 ^ 64)], peer := [], peerWindows := [], linkUp := 0xFF, unacked := [], irqs := [], acks := [],
    reply := .none, fuses := [] }

/-- The machine right after cold reset: no launch, no warp, nothing in flight (R4, R259, R387). -/
def State.reset : State :=
  { gt := 0, cycle := 0, skews := [], sys := SysRegs.reset, banks := List.replicate 64 CtxRegs.reset,
    gens := List.replicate 64 0, launches := [], lastQueue := 63, acceptNo := 0, clusters := [], blocks := [],
    warps := [], forms := List.replicate 192 0, reserved := [], reqs := [], copies := [], fills := [], ccache := [],
    icache := [], cwaits := [], tlbs := [], mends := [], hbm := [], l2 := [], leases := [], ev := List.replicate 192 0,
    poison := [], badSram := [], sealedFrames := [], lineSlots := [], pins := [], moving := [], rsv := [], returned := [], copyOps := [], shelf := [], g5 := [],
    packets := [], msgs := [], pendingRecs := [], ovfNext := false, preempt := none, restoring := none, flipping := none,
    dsel := List.replicate 64 0, retired := [], stopped := false, service := Service.reset,
    outside := Outside.reset, nextId := 1, drops := 0, issues := 0, rr := 0, schedule := [], issuing := none }

end Sys2Proof.Machine
end

