-- ==== Sys2Proof/Machine/Place.lean ====
section
/-! DEFINITION. Placement: cores, groups and dies (R8 to R12), the placement word (R205), the geometry entry (R208 to
R210), striping (R212, R213) and the map of channels to slices (R215). -/

namespace Sys2Proof.Machine

open Sys2Proof

/-! ### Cores and groups -/

/-- The die, row and column of a core (R8). -/
def coreDie (core : Nat) : Nat := core / 96
def coreRow (core : Nat) : Nat := core % 96 / 12
def coreCol (core : Nat) : Nat := core % 12

/-- The core at row `y`, column `x` of die `d` (R8). -/
def coreAt (d y x : Nat) : Nat := 96 * d + 12 * y + x

/-- The group of a core (R9). -/
def groupOf (core : Nat) : Nat := 12 * coreDie core + 3 * (coreRow core / 2) + coreCol core / 4

/-! ### Bit counts -/

/-- The number of one bits among the low `n` bits. -/
def popcountN : Nat → Nat → Nat
  | 0, _ => 0
  | n + 1, x => x % 2 + popcountN n (x / 2)

/-- The positions of one bits among the low `n` bits, ascending from `i`. -/
def onesFrom : Nat → Nat → Nat → List Nat
  | 0, _, _ => []
  | n + 1, i, x => if x % 2 == 1 then i :: onesFrom n (i + 1) (x / 2) else onesFrom n (i + 1) (x / 2)

/-- The least `b` with 2^b ≥ n (R212). -/
def ceilLog2 (n : Nat) : Nat := if n ≤ 1 then 0 else (n - 1).log2 + 1

/-! ### The placement word (R205, Table 1) -/

structure PlaceWord where
  tag : Nat
  hc : Nat
  geo : Nat
  pcol : Nat
  prow : Nat
  pfrm : Nat
  low : Nat
  deriving DecidableEq, Repr

/-- The fields of a placement word. -/
def placeWord (w : Nat) : PlaceWord :=
  { tag := w / 2 ^ 24 % 256, hc := w / 2 ^ 22 % 4, geo := w / 2 ^ 16 % 64, pcol := w / 2 ^ 12 % 16,
    prow := w / 2 ^ 9 % 8, pfrm := w / 2 ^ 6 % 8, low := w % 64 }

/-- The fields that the home class does not use are zero (R205). DESIGN CHOICE (assumption 84): TAG is not among them for a core-pinned
word, whatever its value. -/
def PlaceWord.unusedZero (p : PlaceWord) : Bool :=
  if p.hc == 3 then p.geo == 0 else p.pcol == 0 && p.prow == 0 && p.pfrm == 0

/-! ### Geometry entries (R208, Table 3) -/

structure Geometry where
  pool : Nat
  chmask : Nat
  v : Bool
  unit : Nat
  linear : Bool
  die : Nat
  stack : Nat
  reservedZero : Bool
  deriving DecidableEq, Repr

/-- The fields of a geometry entry. DESIGN CHOICE (assumption 85): bits 69:64 below POOL, which Table 3 says are zero, count among the
reserved fields of R209. -/
def geometry (g : BitVec 128) : Geometry :=
  { pool := (g.extractLsb' 64 57).toNat, chmask := (g.extractLsb' 32 32).toNat, v := g.getLsbD 31,
    unit := (g.extractLsb' 29 2).toNat, linear := g.getLsbD 28, die := (g.extractLsb' 24 2).toNat,
    stack := (g.extractLsb' 12 12).toNat,
    reservedZero := g.extractLsb' 121 7 == 0 && g.extractLsb' 0 12 == 0 && g.extractLsb' 64 6 == 0 }

/-- The dies that own the selected stacks (R209). -/
def Geometry.dies (g : Geometry) : Nat := (if g.stack % 64 != 0 then 1 else 0) + (if g.stack / 64 != 0 then 2 else 0)

/-- Is the entry valid (R209), where it was read from usable table space? -/
def Geometry.valid (g : Geometry) : Bool :=
  g.v && g.stack != 0 && g.chmask != 0 && g.die == g.dies && g.reservedZero

/-- The stripe unit u (R212). -/
def Geometry.stripe (g : Geometry) : Nat := 256 * 4 ^ g.unit

/-- The channel list (R210): device channels 32q + ch in order of stack, then channel. -/
def Geometry.channels (g : Geometry) : List Nat :=
  (onesFrom 12 0 g.stack).flatMap fun q => (onesFrom 32 0 g.chmask).map fun ch => 32 * q + ch

/-- The number N of channels (R210). -/
def Geometry.count (g : Geometry) : Nat := popcountN 12 g.stack * popcountN 32 g.chmask

/-- fold(x, b) over at most `fuel` pieces (R212). -/
def fold (b : Nat) : Nat → Nat → Nat
  | 0, _ => 0
  | fuel + 1, x => if b == 0 then 0 else (x % 2 ^ b).xor (fold b fuel (x / 2 ^ b))

/-- The byte at offset `o` of a frame region of size `f` and base `b` (R212, R213): its device address
channel * 2^31 + la; none when la is 2^31 or more. -/
def Geometry.place (g : Geometry) (f b o : Nat) : Option Nat :=
  let u := g.stripe
  let n := g.count
  let row := o / u / n
  let j := o / u % n
  let c := if !g.linear && decide (row < f / (n * u)) then (j + fold (ceilLog2 n) 64 row) % n else j
  let la := b / u * u + row * u + o % u
  if la < 2 ^ 31 then some (g.channels.getD c 0 * 2 ^ 31 + la) else none

/-- The offset of a device byte in a frame region, the inverse of `Geometry.place`; none outside it. -/
def Geometry.offset (g : Geometry) (f b dev : Nat) : Option Nat :=
  let u := g.stripe
  let n := g.count
  let la := dev % 2 ^ 31
  let base := b / u * u
  match g.channels.idxOf? (dev / 2 ^ 31) with
  | none => none
  | some c =>
    let row := (la - base) / u
    let j := if !g.linear && decide (row < f / (n * u)) then (c + n - fold (ceilLog2 n) 64 row % n) % n else c
    let o := (row * n + j) * u + la % u
    if base ≤ la ∧ o < f ∧ g.place f b o = some dev then some o else none

/-! ### Channels and slices (R215) -/

/-- The slice of a device channel. -/
def sliceOfChannel (chan : Nat) : Nat :=
  let stack := chan / 32
  let d := stack / 6
  let q := stack % 6
  let ch := chan % 32
  let y := if q < 3 then ch / 8 else 7 - ch / 8
  let x := 4 * (q % 3) + ch % 8 / 2
  coreAt d y x

/-- The slice of a device byte address. -/
def sliceOf (dev : Nat) : Nat := sliceOfChannel (dev / 2 ^ 31)

/-- The 128-byte line of a device byte address. -/
def lineOf (dev : Nat) : Nat := dev / 128

end Sys2Proof.Machine
end

