-- ==== Sys2Proof/Machine/Ops.lean ====
section
/-! DEFINITION. The named operations over memory, registers and warps; the view of an issuing path; posting records,
taking a trap, and the return from one (R245, R422). -/

namespace Sys2Proof

/-- Is the selector inside the thread's allocation (R41)? Aligned pairs and quads lie inside with their base. -/
def Sel.inAlloc (nreg : Nat) : Sel → Bool
  | .v n => n.toNat < nreg
  | _ => true

/-- Do two register ranges overlap? -/
def overlaps (a : Sel) (wa : Nat) (b : Sel) (wb : Nat) : Bool :=
  match a, b with
  | .v m, .v n => decide (m.toNat < n.toNat + wb) && decide (n.toNat < m.toNat + wa)
  | .k m, .k n => decide (m.toNat < n.toNat + wb) && decide (n.toNat < m.toNat + wa)
  | _, _ => false

/-- A register operand and how many registers it spans. -/
abbrev RegUse := Sel × Nat

/-- The registers of source B, none for a window. -/
def BSrc.use (b : BSrc) (regs : Nat) : List RegUse :=
  match b with
  | .reg s => [(s, regs)]
  | .win _ _ => []

end Sys2Proof

namespace Sys2Proof.Machine

open Sys2Proof

/-- What a meaning answers. -/
abbrev Result := Host.Outcome State Fault Refusal

/-! ### Memory -/

/-- The byte at an address; an unlisted address reads 0 (assumption 4). -/
def Memory.get : Memory → Nat → Byte
  | [], _ => 0
  | (a, b) :: rest, x => if x == a then b else Memory.get rest x

/-- Write one byte, keeping the canonical form. -/
def Memory.set : Memory → Nat → Byte → Memory
  | [], x, v => if v == 0 then [] else [(x, v)]
  | (a, b) :: rest, x, v =>
    if x < a then (if v == 0 then (a, b) :: rest else (x, v) :: (a, b) :: rest)
    else if x == a then (if v == 0 then rest else (x, v) :: rest)
    else (a, b) :: Memory.set rest x v

/-- `n` bytes from `a` upwards. -/
def Memory.getN (m : Memory) (a : Nat) : Nat → List Byte
  | 0 => []
  | n + 1 => m.get a :: Memory.getN m (a + 1) n

/-- Write bytes from `a` upwards. -/
def Memory.setN (m : Memory) (a : Nat) : List Byte → Memory
  | [] => m
  | b :: bs => Memory.setN (m.set a b) (a + 1) bs

/-- The bytes whose addresses lie outside [lo, hi). -/
def Memory.clear (m : Memory) (lo hi : Nat) : Memory := m.filter fun c => decide (c.1 < lo) || decide (hi ≤ c.1)

/-- Replace the element at an index. -/
def setAt {α : Type} (l : List α) (i : Nat) (v : α) : List α := l.set i v

/-- Apply a function at an index. -/
def modAt {α : Type} (l : List α) (i : Nat) (f : α → α) : List α :=
  match l[i]? with
  | some v => l.set i (f v)
  | none => l

/-- Overwrite a list from an index with the elements of another. -/
def overlayAt (l : List Byte) (i : Nat) (bs : List Byte) : List Byte := l.take i ++ bs ++ l.drop (i + bs.length)

/-! ### Lookups -/

def State.warp? (s : State) (core slot : Nat) : Option Warp := s.warps.find? fun w => w.core == core && w.slot == slot
def State.launch? (s : State) (ctx : Nat) : Option Launch := s.launches.find? fun l => l.ctx == ctx
def State.cluster? (s : State) (ctx idx : Nat) : Option Cluster := s.clusters.find? fun c => c.ctx == ctx && c.idx == idx
def State.block? (s : State) (ctx cluster bid : Nat) : Option Block :=
  s.blocks.find? fun b => b.ctx == ctx && b.cluster == cluster && b.bid == bid

/-- Replace the warp in its slot. -/
def State.setWarp (s : State) (w : Warp) : State :=
  { s with warps := s.warps.map fun x => if x.core == w.core && x.slot == w.slot then w else x }

/-- Apply a function to the warp in a slot. -/
def State.modWarp (s : State) (core slot : Nat) (f : Warp → Warp) : State :=
  { s with warps := s.warps.map fun w => if w.core == core && w.slot == slot then f w else w }

def State.modWarps (s : State) (f : Warp → Warp) : State := { s with warps := s.warps.map f }

def State.modLaunch (s : State) (ctx : Nat) (f : Launch → Launch) : State :=
  { s with launches := s.launches.map fun l => if l.ctx == ctx then f l else l }

def State.modCluster (s : State) (ctx idx : Nat) (f : Cluster → Cluster) : State :=
  { s with clusters := s.clusters.map fun c => if c.ctx == ctx && c.idx == idx then f c else c }

def State.modBlock (s : State) (ctx cluster bid : Nat) (f : Block → Block) : State :=
  { s with blocks := s.blocks.map fun b => if b.ctx == ctx && b.cluster == cluster && b.bid == bid then f b else b }

/-- The copy of global time that an agent reads (R259): cores 0 to 191, slices 192 to 383, the I/O die 384. -/
def State.gtOf (s : State) (agent : Nat) : Nat := s.gt + s.skews.getD agent 0
def State.coreGt (s : State) (core : Nat) : Nat := s.gtOf core
def State.sliceGt (s : State) (slice : Nat) : Nat := s.gtOf (192 + slice)

/-- The numerics version in force (R146). -/
def State.nbv (s : State) : Nat := s.sys.nbv.toNat % 4

/-! ### The launch record (R386, Table 2) -/

/-- An `n`-byte little-endian field of the record. -/
def Launch.num (l : Launch) (off n : Nat) : Nat := bytesToNat ((l.rec_.drop off).take n)

def Launch.entry (l : Launch) : VAddr := BitVec.ofNat 57 (l.num 0x00 8)
def Launch.gx (l : Launch) : Nat := l.num 0x18 2
def Launch.gy (l : Launch) : Nat := l.num 0x1A 2
def Launch.cw (l : Launch) : Nat := l.num 0x1C 1
def Launch.ch (l : Launch) : Nat := l.num 0x1D 1
def Launch.bpc (l : Launch) : Nat := l.num 0x1E 1
/-- Registers per thread (R112). -/
def Launch.nreg (l : Launch) : Nat := 8 * l.num 0x1F 1
def Launch.nx (l : Launch) : Nat := l.num 0x20 2
def Launch.ny (l : Launch) : Nat := l.num 0x22 2
def Launch.nz (l : Launch) : Nat := l.num 0x24 2
def Launch.nacc (l : Launch) : Nat := l.num 0x26 1
def Launch.nprs (l : Launch) : Nat := l.num 0x27 1
def Launch.bsram (l : Launch) : Nat := l.num 0x28 4
/-- Reserved block SRAM, a multiple of 1 KiB (R162). -/
def Launch.bsize (l : Launch) : Nat := (l.bsram + 1023) / 1024 * 1024
def Launch.stageCount (l : Launch) (st : Nat) : Nat := l.num (0x2C + st) 1
def Launch.pinf (l : Launch) : Nat := l.num 0x30 1
def Launch.nh (l : Launch) : Nat := l.num 0x31 1
def Launch.flags (l : Launch) : Nat := l.num 0x32 1
/-- FLAGS bit 0: the progress promise (R87). -/
def Launch.promise (l : Launch) : Bool := l.flags.testBit 0
/-- FLAGS bit 1: pre-emption is hard (R399). -/
def Launch.hardPre (l : Launch) : Bool := l.flags.testBit 1
/-- FLAGS bit 2: reorder (R20, R342). -/
def Launch.reorder (l : Launch) : Bool := l.flags.testBit 2
/-- FLAGS bit 3: supervisor (R63). -/
def Launch.super (l : Launch) : Bool := l.flags.testBit 3
/-- FLAGS bit 4: interrupt at completion (R388). -/
def Launch.irq (l : Launch) : Bool := l.flags.testBit 4
def Launch.prio (l : Launch) : Nat := l.num 0x33 1
def Launch.quota (l : Launch) : Nat := l.num 0x34 4
def Launch.spill (l : Launch) : Nat := l.num 0x38 8
def Launch.spillu (l : Launch) : Nat := l.num 0x40 4
def Launch.cmap (l : Launch) : Nat := l.num 0x48 8
def Launch.dmap (l : Launch) : Nat := l.num 0x50 8
/-- Launch constant `k_i`, i = 0 to 31 (R113). -/
def Launch.k (l : Launch) (i : Nat) : Word := BitVec.ofNat 32 (l.num (0x80 + 4 * i) 4)
/-- Threads of a block (R18). -/
def Launch.threads (l : Launch) : Nat := l.nx * l.ny * l.nz
/-- Warps of a block (R18). -/
def Launch.nw (l : Launch) : Nat := (l.threads + 31) / 32
/-- Blocks of a cluster (R19). -/
def Launch.nbid (l : Launch) : Nat := l.cw * l.ch * l.bpc

/-- The home core of block `bid` of a cluster (R19). -/
def Cluster.home (c : Cluster) (l : Launch) (bid : Nat) : Nat :=
  coreAt c.die (c.oy + bid / l.bpc / l.cw) (c.ox + bid / l.bpc % l.cw)

/-- The core at a cluster-relative column and row. -/
def Cluster.coreOf (c : Cluster) (col row : Nat) : Nat := coreAt c.die (c.oy + row) (c.ox + col)

/-- The cores of a cluster's rectangle, row by row; the position in this list is the core's ordinal. -/
def Cluster.cores (c : Cluster) (l : Launch) : List Nat :=
  (List.range (l.cw * l.ch)).map fun i => c.coreOf (i % l.cw) (i / l.cw)

/-- The ordinal of a core in its cluster: row · w + column. -/
def Cluster.ordinal (c : Cluster) (l : Launch) (core : Nat) : Nat :=
  (coreRow core - c.oy) * l.cw + (coreCol core - c.ox)

/-! ### Program counters (R25, R26) -/

/-- Does the address name a slot (R25)? -/
def validPc (pc : VAddr) : Bool :=
  let r := pc.toNat % 64
  r == 0x04 || r == 0x10 || r == 0x1C || r == 0x28 || r == 0x34

/-- The next PC in sequential flow (R26). -/
def nextPc (pc : VAddr) : VAddr := if pc.toNat % 64 == 0x34 then pc + 16 else pc + 12

/-- Arrival at `e` with the frames given, innermost first (R101): the PC and the frames left. -/
def arriveFrames (e : VAddr) : List Frame → VAddr × List Frame
  | [] => (e, [])
  | f :: fs =>
    if f.fin == e then
      if 1 < f.remaining.toNat then (f.start, { f with remaining := f.remaining - 1 } :: fs)
      else arriveFrames e fs
    else (e, f :: fs)

/-- A lane arrives at `e` (R101). -/
def Lane.arrive (l : Lane) (e : VAddr) : Lane :=
  let r := arriveFrames e l.frames
  { l with pc := r.1, frames := r.2 }

/-! ### Lanes and paths (R84 to R86) -/

/-- A lane that was never live (R18, R84). -/
def Lane.dead : Lane :=
  { status := .exited, pc := 0, v := [], p := 0, frames := [], rpc := 0, rsnap := [], rcnt := 0, uid := 0, bid := 0,
    tid := 0, key := 0, withdrawn := false, msrc := 0, vis := 0, pw := 0, mc := 0, dgt := 0, seenGt := 0, lastIssue := 0,
    atPpoint := false }

/-- Lane `i` of a warp. -/
def Warp.lane (w : Warp) (i : Nat) : Lane := w.lanes.getD i Lane.dead

/-- Apply a function to lane `i`. -/
def Warp.modLane (w : Warp) (i : Nat) (f : Lane → Lane) : Warp := { w with lanes := modAt w.lanes i f }

/-- Apply a function to every lane of a list. -/
def Warp.modLanes (w : Warp) (is : List Nat) (f : Nat → Lane → Lane) : Warp :=
  { w with lanes := w.lanes.mapIdx fun i l => if is.contains i then f i l else l }

/-- The lanes of a path: runnable at the PC (R84), ascending. -/
def Warp.activeAt (w : Warp) (pc : VAddr) : List Nat :=
  (List.range 32).filter fun i => (w.lane i).status == .runnable && (w.lane i).pc == pc

/-- The PCs of the warp's paths, in order of their lowest lane. -/
def Warp.paths (w : Warp) : List VAddr :=
  (w.lanes.filter fun l => l.status == .runnable).foldl (fun ps l => if ps.contains l.pc then ps else ps ++ [l.pc]) []

/-- A mask of lanes. -/
def maskOf (is : List Nat) : Mask := is.foldl (fun m i => m ||| (1#32 <<< i)) 0

/-- The lanes of a mask, ascending. -/
def lanesOf (m : Mask) : List Nat := (List.range 32).filter fun i => m.getLsbD i

/-- Since when a path has waited (R86); a path formed now has waited since now. -/
def Warp.waited (w : Warp) (now : Nat) (p : VAddr) : Nat :=
  match w.since.find? fun q => q.1 == p with
  | some q => q.2
  | none => now

/-- The path that has waited longest; the first of equals holds the lowest lane (R86). -/
def longest (f : VAddr → Nat) : List VAddr → Option VAddr
  | [] => none
  | p :: ps =>
    match longest f ps with
    | none => some p
    | some q => if f q < f p then some q else some p

/-- Keep a current path if it still has a runnable lane, else give the turn to the path that has waited longest
(R85, R86), at cycle `now`. -/
def Warp.refresh (w : Warp) (now : Nat) : Warp :=
  let ps := w.paths
  let f := w.waited now
  match w.cur with
  | some p =>
    if ps.contains p then { w with since := (ps.filter (· != p)).map fun q => (q, f q) }
    else
      match longest f ps with
      | none => { w with cur := none, since := [] }
      | some n => { w with cur := some n, turnStart := now, since := (ps.filter (· != n)).map fun q => (q, f q) }
  | none =>
    match longest f ps with
    | none => { w with since := [] }
    | some n => { w with cur := some n, turnStart := now, since := (ps.filter (· != n)).map fun q => (q, f q) }

/-- End the turn of the path at `p`: it has waited since now, also where its lanes have joined a path that waited
before (assumption 72); the path that has waited longest takes the turn (R86). -/
def Warp.endTurn (w : Warp) (now : Nat) (p : VAddr) : Warp :=
  Warp.refresh { w with cur := none, since := (w.since.filter fun q => q.1 != p) ++ [(p, now)] } now

/-! ### The issuing path -/

/-- The view of an issue: the state, the warp, its launch and cluster, the PC of its current path, the active lanes and
the executing lanes (R5, R39). -/
structure Iss where
  s : State
  w : Warp
  l : Launch
  c : Cluster
  pc : VAddr
  act : List Nat
  ex : List Nat
  deriving DecidableEq, Repr

/-- Predicate n of a lane; `p0` reads 1 (R117). -/
def Lane.pred (l : Lane) (n : BitVec 3) : Bool := n == 0 || l.p.getLsbD n.toNat

/-- A truth table of three predicates (R39, R51). -/
def Lane.table (l : Lane) (tt : BitVec 8) (a b c : BitVec 3) : Bool :=
  tt.getLsbD ((l.pred a).toNat * 4 + (l.pred b).toNat * 2 + (l.pred c).toNat)

/-- The guard of a lane (R39). -/
def Lane.guard (l : Lane) (g : Guard) : Bool := l.table g.tt g.ga g.gb g.gc

/-- Has vector issue of the context been stopped by a pre-emption (R400, R403)? -/
def State.vectorStopped (s : State) (ctx : Nat) : Bool :=
  match s.preempt with
  | some p => p.ctx == ctx && (p.hard || p.saving)
  | none => false

/-- A run that waits for the sorter; its lanes are no path, and other lanes may come to the same PC. -/
def Hold.isSorter : Hold → Bool
  | .sorter _ _ _ _ _ _ => true
  | _ => false

/-- The holds but for that of the path at a PC. -/
def Warp.otherHolds (w : Warp) (pc : VAddr) : List (VAddr × Hold) :=
  w.hold.filter fun (h : VAddr × Hold) => h.1 != pc || h.2.isSorter

/-- What the path at a PC is held for. -/
def Warp.holdAt (w : Warp) (pc : VAddr) : Option Hold :=
  (w.hold.find? fun (h : VAddr × Hold) => h.1 == pc && !h.2.isSorter).map fun h => h.2

/-- Have lanes of a path so held begun to take effect, at `launch` or at `msend` (18 Table 2)? -/
def Hold.hasBegun : Hold → Bool
  | .msend _ => true
  | .launch _ _ _ => true
  | _ => false

/-- The paths of a warp whose lanes have begun to take effect. -/
def Warp.begunPaths (w : Warp) : List VAddr := (w.hold.filter fun (h : VAddr × Hold) => h.2.hasBegun).map fun h => h.1

/-- Is there such a path; is the current path one? -/
def Warp.begun (w : Warp) : Bool := !w.begunPaths.isEmpty
def Warp.curBegun (w : Warp) : Bool :=
  match w.cur with
  | some pc => w.begunPaths.contains pc
  | none => false

/-- Does a breakpoint, a `ppoint`, a stop of the context's vector issue or its halt bar the warp from issuing (R109, R400,
R402, R411)? -/
def State.barred (s : State) (w : Warp) (l : Launch) : Bool :=
  w.brk || w.stopped.isSome || s.vectorStopped w.ctx || l.run == .halted

/-- May the warp issue at all? A warp that is barred still completes an instruction that has begun (18 Table 2). -/
def State.mayIssue (s : State) (w : Warp) (l : Launch) : Bool := (!s.barred w l || w.curBegun) && !s.stopped

/-- The turn of a barred warp goes to a path that has an instruction to complete. -/
def State.steer (s : State) (core slot : Nat) : State :=
  match s.warp? core slot with
  | none => s
  | some w =>
    match s.launch? w.ctx, w.begunPaths with
    | some l, pc :: _ =>
      if s.barred w l && !w.curBegun then s.modWarp core slot fun w => { w with cur := some pc } else s
    | _, _ => s

/-- The view of the issue of an instruction with guard `g` by the warp the state names, if a path of it stands to
issue. -/
def State.iss (s : State) (g : Guard) : Option Iss :=
  match s.issuing with
  | none => none
  | some (core, slot) =>
    match s.warp? core slot with
    | none => none
    | some w =>
      match s.launch? w.ctx, s.cluster? w.ctx w.cluster, w.cur with
      | some l, some c, some pc =>
        let act := w.activeAt pc
        if act.isEmpty || !s.mayIssue w l then none
        else some { s := s, w := w, l := l, c := c, pc := pc, act := act, ex := act.filter fun i => (w.lane i).guard g }
      | _, _, _ => none

/-- The lowest executing lane, or the lowest active lane when none executes (R253). -/
def Iss.lead (x : Iss) : Nat := (x.ex ++ x.act).headD 0

/-- A lane of the issuing warp. -/
def Iss.lane (x : Iss) (i : Nat) : Lane := x.w.lane i

/-- The block of a lane's thread; none for a handler thread. -/
def Iss.block? (x : Iss) (i : Nat) : Option Block :=
  if x.w.kind == .handler then none else x.s.block? x.w.ctx x.w.cluster (x.lane i).bid

/-- The home core of a lane's thread (R22, R378). -/
def Iss.homeOf (x : Iss) (i : Nat) : Nat :=
  if x.w.kind == .handler then x.w.core else x.c.home x.l (x.lane i).bid

/-! ### Reading registers (R40 to R43, R116) -/

/-- Two 16-bit halves packed (R43). -/
def pack16 (lo hi : Nat) : Word := BitVec.ofNat 32 (lo % 65536 + 65536 * (hi % 65536))

/-- A special register of a lane (R43, Table 6; R378 for a handler thread). -/
def Iss.special (x : Iss) (i : Nat) (r : Special) : Word :=
  let t := (x.lane i).tid
  let handler := x.w.kind == .handler
  match r with
  | .lane => BitVec.ofNat 32 i
  | .warp => BitVec.ofNat 32 x.w.slot
  | .core => BitVec.ofNat 32 x.w.core
  | .group => BitVec.ofNat 32 (groupOf x.w.core)
  | .tcX => BitVec.ofNat 32 (if handler then i else t % x.l.nx)
  | .tcY => BitVec.ofNat 32 (if handler then 0 else t / x.l.nx % x.l.ny)
  | .tcZ => BitVec.ofNat 32 (if handler then 0 else t / (x.l.nx * x.l.ny))
  | .bshapeX => BitVec.ofNat 32 x.l.nx
  | .bshapeY => BitVec.ofNat 32 x.l.ny
  | .bshapeZ => BitVec.ofNat 32 x.l.nz
  | .bid => if handler then 0xFFFFFFFF else BitVec.ofNat 32 (x.lane i).bid
  | .nbid => BitVec.ofNat 32 x.l.nbid
  | .cid => pack16 (x.w.cluster % x.l.gx) (x.w.cluster / x.l.gx)
  | .ncid => pack16 x.l.gx x.l.gy
  | .cshape => pack16 x.l.cw x.l.ch
  | .cpos => pack16 (coreCol x.w.core - x.c.ox) (coreRow x.w.core - x.c.oy)
  | .stage => BitVec.ofNat 32 (if handler then 0 else x.w.stage)
  | .home => BitVec.ofNat 32 (x.homeOf i)
  | .key => BitVec.ofNat 32 (x.lane i).key.toNat
  | .msrc => if handler then (x.lane i).msrc else 0
  | .amask => maskOf (x.w.activeAt (x.lane i).pc)
  | .fstat => x.w.fstat
  | .tstat =>
    match x.block? i with
    | some b => b.tstat
    | none => 0
  | .cpstat => x.w.cpstat

/-- Register `n` of the uniform file: launch constants below 32 (R113, R114). -/
def Iss.kreg (x : Iss) (n : Nat) : Word := if n < 32 then x.l.k n else x.w.k.getD (n - 32) 0

/-- The raw value of `regs` consecutive words, the first least significant. -/
def joinWords (f : Nat → Word) : Nat → Nat → Nat
  | _, 0 => 0
  | n, r + 1 => (f n).toNat + 2 ^ 32 * joinWords f (n + 1) r

/-- The raw bits of an operand of `regs` registers in a lane (R42). -/
def Iss.read (x : Iss) (i : Nat) (s : Sel) (regs : Nat) : Nat :=
  match s with
  | .v n => joinWords (fun j => (x.lane i).v.getD j 0) n.toNat regs
  | .k n => joinWords x.kreg n.toNat regs
  | .sp r => (x.special i r).toNat
  | .z => 0

/-- One 32-bit register of a lane. -/
def Iss.word (x : Iss) (i : Nat) (s : Sel) : Word := BitVec.ofNat 32 (x.read i s 1)

/-! ### Constant windows at issue (R48, R186 to R189) -/

/-- Base and size of a window (R186). -/
def Launch.window (l : Launch) (n : Nat) : Nat × Nat := l.wtab.getD n (0, 0)

/-- A 4-byte word of a constant-cache line of a core and context, if the cache holds the line. -/
def State.ccWord (s : State) (core ctx va : Nat) : Option Word :=
  (s.ccache.find? fun c => c.core == core && c.ctx == ctx && c.line == va / 64).map fun c =>
    BitVec.ofNat 32 (bytesToNat ((c.data.drop (va % 64)).take 4))

/-- A word of a window at byte offset `o`, an exact integer (R188): none on a constant-cache miss, 0 outside. -/
def Iss.windowWord (x : Iss) (n : Nat) (o : Int) : Option Word :=
  let w := x.l.window n
  if 0 ≤ o ∧ o + 4 ≤ (w.2 : Int) then x.s.ccWord x.w.core x.w.ctx (w.1 + o.toNat) else some 0

/-- The address of a window word, where it reads memory; past 2^57 it is used modulo the address space (assumption 78). -/
def Iss.windowVa (x : Iss) (n : Nat) (o : Int) : Option Nat :=
  let w := x.l.window n
  if 0 ≤ o ∧ o + 4 ≤ (w.2 : Int) then some (w.1 + o.toNat) else none

/-- The raw bits of source B (R47, R48): of a window, the words at the offset and, for a pair, the next. -/
def Iss.readB (x : Iss) (i : Nat) (b : BSrc) (regs : Nat) : Nat :=
  match b with
  | .reg s => x.read i s regs
  | .win w off => joinWords (fun j => (x.windowWord w.toNat (4 * j : Nat)).getD 0) off.toNat regs

/-- The addresses of a window operand's words. -/
def Iss.windowVas (x : Iss) (b : BSrc) (regs : Nat) : List Nat :=
  match b with
  | .reg _ => []
  | .win w off => (List.range regs).filterMap fun j => x.windowVa w.toNat (4 * (off.toNat + j) : Nat)

/-- Those that the constant cache lacks. -/
def Iss.windowMisses (x : Iss) (b : BSrc) (regs : Nat) : List Nat :=
  (x.windowVas b regs).filter fun va => (x.s.ccWord x.w.core x.w.ctx va).isNone

/-- Does a window operand read a sector that was poisoned when its line was filled (R431)? -/
def Iss.windowPoison (x : Iss) (b : BSrc) (regs : Nat) : Bool :=
  (x.windowVas b regs).any fun va => x.s.ccache.any fun c =>
    c.core == x.w.core && c.ctx == x.w.ctx && c.line == va / 64 && c.bad.contains (va % 64 / 32)

/-! ### Writing registers (R115) -/

/-- Words of a raw value, the first least significant. -/
def splitWords (v : Nat) : Nat → List Word
  | 0 => []
  | n + 1 => BitVec.ofNat 32 v :: splitWords (v / 2 ^ 32) n

/-- Overwrite a register list from index `n`. -/
def putWords (l : List Word) (n : Nat) : List Word → List Word
  | [] => l
  | w :: ws => putWords (setAt l n w) (n + 1) ws

/-- Write per-lane values of `regs` registers to a destination, in ascending lane order: a vector register of each
lane; for a uniform register the value of the lowest lane; `z` and specials discard (R40, R115). -/
def Warp.write (w : Warp) (d : Sel) (regs : Nat) (vals : List (Nat × Nat)) : Warp :=
  match d with
  | .v n =>
    { w with lanes := w.lanes.mapIdx fun i l =>
        match vals.find? fun p => p.1 == i with
        | some p => { l with v := putWords l.v n.toNat (splitWords p.2 regs) }
        | none => l }
  | .k n =>
    match vals with
    | [] => w
    | p :: _ => { w with k := putWords w.k (n.toNat - 32) (splitWords p.2 regs) }
  | .sp _ => w
  | .z => w

/-! ### Table space (R231, R232, R465) -/

/-- Size of table space in bytes. -/
def State.tsBytes (s : State) : Nat := s.sys.tssize.toNat / 2 ^ 16 % 2 ^ 25 * 65536

/-- The geometry of table space: V is taken as 1, POOL as 0 (R232). -/
def State.tsGeometry (s : State) : Geometry :=
  geometry (BitVec.ofNat 128 (s.sys.tsgeo.toNat / 2 ^ 12 * 2 ^ 12) ||| BitVec.ofNat 128 (2 ^ 31))

/-- Is table space usable (R465)? -/
def State.tsUsable (s : State) : Bool := s.tsBytes != 0 && s.tsGeometry.valid

/-- The device address of the table-space byte at offset `o` (R232). -/
def State.tsPlace (s : State) (o : Nat) : Option Nat :=
  s.tsGeometry.place s.tsBytes (s.sys.tsloc.toNat % 2 ^ 31) o

/-- May the part access offsets `o` to `o + n - 1` on its own account (R465)? -/
def State.tsCovers (s : State) (o n : Nat) : Bool := s.tsUsable && decide (o + n ≤ s.tsBytes)

/-! ### Replacement -/

/-- A list without `n` of the elements that `mine` names, each a free choice (assumption 30). -/
def dropVictims {α : Type} (mine : α → Bool) : Nat → Nat → List α → List α
  | 0, _, l => l
  | n + 1, seed, l =>
    match (List.range l.length).filter fun i => (l[i]?).any mine with
    | [] => l
    | is => dropVictims mine n (seed + 1) (l.eraseIdx (is.getD (Config.victim seed % is.length) 0))

/-- How many elements that `mine` names must go for one more to fit within `cap`. -/
def excess {α : Type} (mine : α → Bool) (cap : Nat) (l : List α) : Nat := l.countP mine + 1 - cap

/-! ### Bytes at their home: the L2 and the channels (R212, R216, R217) -/

/-- The byte at a device address, as its home holds it. -/
def State.devByte (s : State) (dev : Nat) : Byte :=
  match s.l2.find? fun l => l.line == lineOf dev with
  | some l => l.data.getD (dev % 128) 0
  | none => s.hbm.get dev

/-- Consecutive device bytes. -/
def State.devRead (s : State) (dev : Nat) : Nat → List Byte
  | 0 => []
  | n + 1 => s.devByte dev :: s.devRead (dev + 1) n

/-- Ways reserved for locked lines (R216). -/
def SysRegs.ways (r : SysRegs) : Nat := min (r.slpin.toNat % 16) 8

/-- The set of its slice, of 1,024, that a line goes to (R216): which one, the spec leaves open. -/
def l2SetOf (line : Nat) : Nat := Config.l2Set line % 1024

/-- May a slice-pinned line be locked: its group is in service, and fewer locked lines stand in its set than reserved
ways (R216, R433)? -/
def State.mayLock (s : State) (line : Nat) : Bool :=
  let set := l2SetOf line
  !s.retired.contains (groupOf (sliceOf (line * 128))) &&
    ((s.l2.filter fun l =>
      l.locked.isSome && sliceOf (l.line * 128) == sliceOf (line * 128) && l2SetOf l.line == set).length
        < s.sys.ways)

/-- Count a pin overflow of a slice (R216), saturating. -/
def State.pinOverflow (s : State) (slice : Nat) : State :=
  { s with sys := { s.sys with pinover := modAt s.sys.pinover slice fun w => if w == 0xFFFFFFFF then w else w + 1 } }

/-- Write a line of a slice back to its channel and let it go. -/
def State.evict (s : State) (k : L2Line) : State :=
  { s with hbm := if k.dirty then s.hbm.setN (k.line * 128) k.data else s.hbm,
           l2 := s.l2.filter fun l => l.line != k.line }

/-- A set holds 24 lines (R216): when it is full, an unlocked line of it makes way for another. -/
def State.makeWay (s : State) (line : Nat) : State :=
  if s.l2.length < 24 then s
  else
    let set := s.l2.filter fun l =>
      sliceOf (l.line * 128) == sliceOf (line * 128) && l2SetOf l.line == l2SetOf line
    if set.length < 24 then s
    else
      match set.filter fun l => l.locked.isNone with
      | [] => s
      | k :: ks => { s.evict ((k :: ks).getD (Config.victim s.drops % (ks.length + 1)) k) with drops := s.drops + 1 }

/-- Fill or write a line at its home under a placement word's tag and class (R216, R217): a line that carries a tag or
is slice-pinned is held in the slice; other lines are left to the channel, which their slice's write-back and eviction
do not show (R216). A slice-pinned line is locked, or counts as a pin overflow, when it is filled or written, not when a line
that the slice holds is read. `ctx` is the context on whose account the line is locked. -/
def State.touchLine (s : State) (dev ctx tag hc : Nat) (isWrite : Bool) : State :=
  let line := lineOf dev
  let serving := !s.retired.contains (groupOf (sliceOf dev))
  let wrote := if isWrite then some (s.sliceGt (sliceOf dev)) else none
  let lockIt := hc == 2 && s.mayLock line
  match s.l2.find? fun l => l.line == line with
  | some l =>
    let l' := { l with tag := (if isWrite then tag else l.tag), wrote := (if isWrite then wrote else l.wrote),
                       order := (if isWrite then s.nextId else l.order), dirty := l.dirty || isWrite,
                       locked := if isWrite && lockIt && l.locked.isNone then some ctx else l.locked }
    let s := { s with l2 := s.l2.map fun k => if k.line == line then l' else k }
    if isWrite && hc == 2 && l'.locked.isNone then s.pinOverflow (sliceOf dev) else s
  | none =>
    if serving && (tag != 0 || hc == 2) then
      let s := s.makeWay line
      let s' := { s with l2 := { line := line, data := s.hbm.getN (line * 128) 128, dirty := isWrite, tag := tag,
                                 wrote := wrote, order := s.nextId, locked := if lockIt then some ctx else none } :: s.l2 }
      if hc == 2 && !lockIt then s'.pinOverflow (sliceOf dev) else s'
    else if hc == 2 then s.pinOverflow (sliceOf dev) else s

/-- Clear the poison of sectors that a write of `n` bytes from `dev` covers whole (R431). -/
def State.unpoison (s : State) (dev n : Nat) : State :=
  { s with poison := s.poison.filter fun p => !(decide (dev ≤ p * 32) && decide (p * 32 + 32 ≤ dev + n)) }

/-- Does a poisoned sector overlap `n` bytes from `dev` (R431)? -/
def State.poisoned (s : State) (dev n : Nat) : Bool :=
  s.poison.any fun p => decide (p * 32 < dev + n) && decide (dev < p * 32 + 32)

/-- Write bytes within one line at its home. -/
def State.devWrite (s : State) (dev : Nat) (bs : List Byte) : State :=
  let s := if bs.isEmpty then s else s.unpoison dev bs.length
  if s.l2.any fun l => l.line == lineOf dev then
    { s with l2 := s.l2.map fun l =>
        if l.line == lineOf dev then { l with data := overlayAt l.data (dev % 128) bs, dirty := true } else l }
  else { s with hbm := s.hbm.setN dev bs }

/-- Table-space bytes from offset `o`; 0 for a byte that cannot be placed. -/
def State.tsRead (s : State) (o : Nat) : Nat → List Byte
  | 0 => []
  | n + 1 =>
    (match s.tsPlace o with
     | some d => s.devByte d
     | none => 0) :: s.tsRead (o + 1) n

/-- Write table-space bytes from offset `o`, one by one; a byte that cannot be placed is not written. -/
def State.tsWriteBytes (s : State) (o : Nat) : List Byte → State
  | [] => s
  | b :: bs =>
    State.tsWriteBytes (match s.tsPlace o with
      | some d => s.devWrite d [b]
      | none => s) (o + 1) bs

/-- Write table-space bytes from offset `o`: sectors that they cover whole lose their poison (R431). -/
def State.tsWrite (s : State) (o : Nat) (bs : List Byte) : State :=
  let t := s.tsWriteBytes o bs
  if s.poison.isEmpty then t
  else
    let ds := (List.range bs.length).filterMap fun i => s.tsPlace (o + i)
    { t with poison := t.poison.filter fun p => !((List.range 32).all fun j => ds.contains (p * 32 + j)) }

/-- A write of table space on the part's own account: not made where R465 does not let it. -/
def State.tsPut (s : State) (o : Nat) (bs : List Byte) : State := if s.tsCovers o bs.length then s.tsWrite o bs else s

/-- A read of table space on the part's own account: where R465 does not let it, nothing is read, and the bytes count as
zero (assumption 56). -/
def State.tsGet (s : State) (o n : Nat) : List Byte := if s.tsCovers o n then s.tsRead o n else List.replicate n 0

/-! ### Interrupts, black box, the fault ring (R251 to R254, R434) -/

/-- Raise an MSI-X vector to the host (R413, Table 2). -/
def State.interrupt (s : State) (v : Nat) : State :=
  { s with outside := { s.outside with irqs := s.outside.irqs ++ [v] } }

/-- Record an event in the black box: the last 4,096 are kept (R434), and vector 4 is raised. Kinds: 0 a trap, 1 a retirement,
2 an uncorrectable error, 3 a thermal event, 4 a reset; their codes and the data are free (assumption 17). -/
def State.blackBox (s : State) (kind source : Nat) : State :=
  let box := s.service.box ++ [{ gt := s.gtOf 384, kind := kind, source := source, data := s.nextId }]
  State.interrupt { s with service := { s.service with box := box.drop (box.length - 4096) }, nextId := s.nextId + 52 } 4

/-- Records of the ring: 2^N, for N = 4 to 20 (R251). -/
def State.ringN (s : State) : Nat := s.sys.frsize.toNat % 32

/-- Table-space offset of the ring. -/
def State.ringBase (s : State) : Nat := s.sys.frbase.toNat / 32 % 2 ^ 35 * 32

/-- Does the ring count as full (R251, R252, R465)? -/
def State.ringFull (s : State) : Bool :=
  !(decide (4 ≤ s.ringN) && decide (s.ringN ≤ 20)) || !s.tsCovers s.ringBase (32 * 2 ^ s.ringN) ||
    (s.sys.frtail - s.sys.frhead).toNat == 2 ^ s.ringN

/-- The 32 bytes of a record (R253, Table 10). -/
def FaultRec.bytes (r : FaultRec) (ovf : Bool) : List Byte :=
  let w : BitVec 256 :=
    BitVec.ofNat 10 r.gen ++ BitVec.ofNat 6 r.ctx ++ BitVec.ofNat 48 r.gt ++ 0#7 ++ BitVec.ofNat 57 r.aux ++ 0#1 ++
      BitVec.ofNat 5 r.lane ++ 0#1 ++ BitVec.ofNat 57 r.addr ++ r.count ++ 0#1 ++ BitVec.ofNat 6 r.warp ++
      BitVec.ofNat 8 r.core ++ (if ovf then 1#1 else 0#1) ++ BitVec.ofNat 8 r.code ++ BitVec.ofNat 4 r.typ ++
      BitVec.ofNat 4 r.kind
  natToBytes 32 w.toNat

/-- Write one record at TAIL, advance TAIL and interrupt the host (R251). -/
def State.ringWrite (s : State) (r : FaultRec) : State :=
  let i := s.sys.frtail.toNat % 2 ^ s.ringN
  let s' := s.tsWrite (s.ringBase + 32 * i) (r.bytes s.ovfNext)
  State.interrupt { s' with sys := { s'.sys with frtail := s'.sys.frtail + 1 }, ovfNext := false } 0

/-- Write the records given, in order, as far as the ring has room; the rest wait, OVF set (R254). -/
def State.ringPost (s : State) : List FaultRec → State
  | [] => { s with pendingRecs := [] }
  | r :: rs =>
    if s.ringFull then
      { s with pendingRecs := r :: rs, ovfNext := true, sys := { s.sys with frstat := s.sys.frstat ||| 1 } }
    else State.ringPost (s.ringWrite r) rs

/-- Write pending records while the ring has room (R252, R254). -/
def State.flushRecs (s : State) : State := s.ringPost s.pendingRecs

/-- Post records in event order, behind those that wait (R251, R254). -/
def State.post (s : State) (rs : List FaultRec) : State := s.ringPost (s.pendingRecs ++ rs)

/-- A record of a context, stamped with its generation, or the last of its number where it is gone, and global time (R253). -/
def State.record (s : State) (ctx kind typ code : Nat) (core warp lane addr aux : Nat) (count : Word) : FaultRec :=
  { gen := (match s.launch? ctx with | some l => l.gen | none => s.gens.getD ctx 0), ctx := ctx, gt := s.gt % 2 ^ 48, aux := aux,
    lane := lane, addr := addr, count := count, warp := warp, core := core, code := code, typ := typ, kind := kind }

/-! ### STATUS, halting and traps (R388, R395, R411) -/

/-- Write a launch's STATUS word (Table 4 of 17_launch_and_scheduling): the value, CTX in bits 15:8 and GEN in bits
31:16. With FLAGS bit 4 the host is interrupted after a final write (R388). -/
def State.writeStatus (s : State) (l : Launch) (value : Nat) : State :=
  let s := match l.statusAt with
    | some o => s.tsPut o (natToBytes 4 (value + 256 * l.ctx + 65536 * l.gen))
    | none => s
  if l.irq && value != 1 then s.interrupt 1 else s

/-- End a pre-emption or restore request (R399): DONE, BUSY clear, HARD and ERR as given, vector 2. -/
def State.endRequest (s : State) (hard err : Bool) : State :=
  let p := (s.sys.prq &&& 0x000FFFFF) ||| 0x00400000 ||| (if hard then 0x00200000 else 0) |||
    (if err then 0x00100000 else 0)
  State.interrupt { s with sys := { s.sys with prq := p }, preempt := none, restoring := none } 2

/-- Set one byte of the debug trap word (19_system Table 6). -/
def setByte (d : DWord) (n v : Nat) : DWord :=
  (d &&& ~~~((0xFF#64) <<< (8 * n))) ||| ((BitVec.ofNat 64 (v % 256)) <<< (8 * n))

/-- Halt a context in place (R395, R411): it places nothing further, STATUS becomes 0x90, and a pre-emption of it in
progress ends with ERR (R412). A context already halted is left as it is. -/
def State.halt (s : State) (ctx : Nat) : State :=
  match s.launch? ctx with
  | none => s
  | some l =>
    if l.run == .halted then s
    else
      let s := s.modLaunch ctx fun l => { l with run := .halted }
      let s := s.writeStatus l 0x90
      match s.preempt with
      | some p => if p.ctx == ctx then s.endRequest p.hard true else s
      | none => s

/-- A trap is reported: its record of KIND 3 is posted, vector 0 is raised at once even while the record waits (R254), and the black
box records the trap (R434). -/
def State.postTrap (s : State) (r : FaultRec) : State :=
  let waits := s.ringFull || !s.pendingRecs.isEmpty
  let s := s.post [r]
  (if waits then s.interrupt 0 else s).blackBox 0 r.core

/-- The mark of the clusters of launches that are gone: what is left of launch GEN of a context has cluster 2^32 + GEN (R80, R387;
assumption 63). -/
def goneCluster : Nat := 2 ^ 32

/-- A record of what belongs to a cluster: where its launch is gone, it carries that launch's GEN. -/
def FaultRec.stamp (r : FaultRec) (cluster : Nat) : FaultRec :=
  if goneCluster ≤ cluster then { r with gen := cluster - goneCluster } else r

/-- Taking a halting trap (R411): it is reported, the trap word of the debug pages takes the code, and the context halts. -/
def State.takeTrap (s : State) (r : FaultRec) : State :=
  ((s.modLaunch r.ctx fun l => { l with dtrap := setByte l.dtrap 2 r.code }).postTrap r).halt r.ctx

/-- The trap record of the issuing instruction (R253, Table 11). -/
def Iss.trapRec (x : Iss) (code aux lane : Nat) : FaultRec :=
  x.s.record x.w.ctx 3 0 code x.w.core x.w.slot lane x.pc.toNat aux (maskOf x.ex)

/-- The issuing instruction traps with no effect of its own (R31, R411); it has taken its issue slot. -/
def Iss.trap (x : Iss) (code : Nat) : State :=
  { x.s.takeTrap (x.trapRec code 0 x.lead) with issues := x.s.issues + 1 }

/-- A trap that a lane's values raise: the lane and its second address (R466). -/
def Iss.trapLane (x : Iss) (code lane aux : Nat) : State :=
  { x.s.takeTrap (x.trapRec code aux lane) with issues := x.s.issues + 1 }

/-- The return from a translation fault: a released lane restarts at its region entry with the snapshot's frames
(R245). -/
def Lane.restart (l : Lane) : Lane := { l with status := .runnable, pc := l.rpc, frames := l.rsnap }

/-- A cycle from which a count had begun, moved on by the time that the warp was halted (R109). -/
def Warp.skipHalt (w : Warp) (now t : Nat) : Nat := min now (t + (now - w.brkAt))

/-- The return from a breakpoint: the warp resumes with every lane at its recorded PC (R422); the time it was halted counts
towards neither the fairness timer nor the watchdog (R109). -/
def Warp.resume (w : Warp) (now : Nat) : Warp :=
  Warp.refresh { w with brk := false, turnStart := w.skipHalt now w.turnStart,
                        lanes := w.lanes.map fun l => { l with lastIssue := w.skipHalt now l.lastIssue } } now

/-! ### Register hazards and legality at issue (R41, R177) -/

/-- Is a request a load, an atomic or an `ldc` that will write a register of the thread? -/
def Req.writesReg (r : Req) : Bool := (r.kind == .load || r.kind == .atom || r.kind == .ldc) && !r.backD

/-- The engine-queue entries that have not completed, those on the wringer included. -/
def State.entries (s : State) : List G5Entry :=
  s.g5 ++ s.packets.filterMap fun p => match p.what with
    | .group5 e => some e
    | _ => none

/-- Does an outstanding load of an executing lane, or a `tmov` of the warp, still have to write one of the registers
(R177, R303)? A uniform register is every lane's. -/
def Iss.hazard (x : Iss) (uses : List RegUse) : Bool :=
  (x.s.reqs.any fun r =>
    r.form == x.w.form && r.core == x.w.core && r.writesReg &&
      uses.any fun u => overlaps r.dest r.ty.regs u.1 u.2 &&
        (match u.1 with
         | .v _ => x.ex.any fun i => (x.lane i).uid == r.uid
         | _ => true)) ||
  (x.s.entries.any fun (e : G5Entry) =>
    e.wcore == x.w.core && e.form == x.w.form && e.opk == 4 && !e.ops.mod.getLsbD 0 &&
      uses.any fun u => overlaps e.ops.aop (if e.ops.mod.getLsbD 1 then 2 else 4) u.1 u.2)

/-! ### Completing an issue -/

/-- Record what the path at a PC is held for. -/
def Warp.setHold (w : Warp) (pc : VAddr) (k : Hold) : Warp := { w with hold := w.otherHolds pc ++ [(pc, k)] }

/-- The issuing lanes' bookkeeping: they have issued at this cycle (R89), and how they reached their PC is settled. The first issue of a
warp begins its first turn (21 Table 2; assumption 81). -/
def Iss.mark (x : Iss) (w : Warp) : Warp :=
  let w' := w.modLanes x.act fun _ l => { l with lastIssue := x.s.cycle }
  { w' with
    turnStart := if w.fresh then x.s.cycle else w.turnStart, fresh := false,
    chk := w.chk.filter fun c => !x.act.contains c.1,
    stallMask := w.stallMask &&& ~~~(maskOf x.act),
    ages := w.ages.filter fun a => a.1 != x.pc,
    hold := w.otherHolds x.pc }

/-- Move lanes to a PC, each by arrival (R101). -/
def Warp.move (w : Warp) (is : List Nat) (e : VAddr) : Warp := w.modLanes is fun _ l => l.arrive e

/-- Complete an issue with the warp given: the turn goes on with the path of lane `lead` (R85), if that lane still
runs; else the turn passes on (R86). -/
def Iss.settle (x : Iss) (s : State) (w : Warp) (lead : Nat) : State :=
  let w := x.mark w
  let now := s.cycle
  let l := w.lane lead
  let w := Warp.refresh { w with cur := if l.status == .runnable then some l.pc else none } now
  { s.setWarp w with issues := s.issues + 1 }

/-- The turn's end: the path of lane `lead` has waited since now, and the longest waiting path takes the turn. -/
def Iss.settleEnd (x : Iss) (s : State) (w : Warp) (lead : Nat) : State :=
  let w := x.mark w
  let w := w.endTurn s.cycle (w.lane lead).pc
  { s.setWarp w with issues := s.issues + 1 }

/-- Complete an ordinary instruction: every active lane moves to the next slot in sequential flow (R26, R119). -/
def Iss.next (x : Iss) (s : State) (w : Warp) : State := x.settle s (w.move x.act (nextPc x.pc)) (x.act.headD 0)

/-- A held instruction: nothing changes but what the hold itself records, and the path issues again later. -/
def Iss.hold (x : Iss) : State := x.s

/-- Whether an instruction type is DT8, which only numerics version 3 executes (R147). -/
def nbvOk (s : State) (ty : Ty) : Bool := ty != .dt8 || s.nbv == 3

/-- The shared frame of every instruction's issue: the view of the path; what check 6 leaves to the issue, as `legal`
says; check 7 for a privileged instruction (R63); the wait for registers (R177); then the body. -/
def issue (g : Guard) (s : State) (uses : List RegUse) (legal : Iss → Bool) (priv : Bool) (body : Iss → State) : Result :=
  match s.iss g with
  | none => .fault .noIssuingPath
  | some x =>
    if !(uses.all (fun u => u.1.inAlloc x.l.nreg) && legal x) then .next (x.trap 0x01)
    else if priv && !x.l.super then .next (x.trap 0x04)
    else if x.hazard uses then .next x.hold
    else .next (body x)

end Sys2Proof.Machine
end

