-- ==== Sys2Proof/Machine/Translate.lean ====
section
/-! DEFINITION. Translation: table-space window, heap windows, TLBs and the page-table walk (R230 to R239), `tlbinv` and
the TLBs, the sealed-frame map (R428), and lines that `rstrp` moves (R227). -/

namespace Sys2Proof.Machine

open Sys2Proof

/-! ### Register fields -/

/-- A field of a 64-bit register, kept at its place: bits `hi` down to `lo`. -/
def fieldAt (w : DWord) (hi lo : Nat) : Nat := w.toNat / 2 ^ lo % 2 ^ (hi + 1 - lo) * 2 ^ lo

/-- The bank of a context (scope C registers). -/
def State.bank (s : State) (ctx : Nat) : CtxRegs := s.banks.getD ctx CtxRegs.reset

/-- TSBASE.VA (R231). -/
def State.tsVa (s : State) : Nat := fieldAt s.sys.tsbase 56 16

/-- The table-space offset of an address in the table-space window (R232). -/
def State.tsOffset (s : State) (ea : Nat) : Option Nat :=
  if s.tsVa ≤ ea ∧ ea < s.tsVa + s.tsBytes then some (ea - s.tsVa) else none

/-- Geometry entry `g` of a context (R208, R465): all zero, so not valid, where it cannot be read. -/
def State.geoEntry (s : State) (ctx g : Nat) : BitVec 128 :=
  let va := fieldAt (s.bank ctx).gtbase 56 10 + 16 * g
  if s.tsVa ≤ va && s.tsCovers (va - s.tsVa) 16 then BitVec.ofNat 128 (bytesToNat (s.tsRead (va - s.tsVa) 16)) else 0

/-! ### The walk (R235 to R237) -/

/-- What a walk finds. -/
inductive Walk where
  | leaf (pte : DWord) (size : Nat)
  | invalid
  | malformed
  deriving DecidableEq, Repr

/-- Fields of a PTE (Table 5). -/
def pteWord (pte : DWord) : PlaceWord := placeWord (pte.toNat / 2 ^ 32)
def pteFrame (pte : DWord) : Nat := fieldAt pte 30 8
def pteSeal (pte : DWord) : Bool := pte.getLsbD 4
def pteWr (pte : DWord) : Bool := pte.getLsbD 3
def pteOwn (pte : DWord) : Bool := pte.getLsbD 2

/-- Is a valid PTE well formed (Table 6, order 2)? -/
def pteOk (pte : DWord) : Bool :=
  !pte.getLsbD 31 && pte.extractLsb' 5 3 == 0 && (pteWord pte).low == 0 &&
    ((pteWord pte).hc != 3 || pteFrame pte == 0)

/-- The walk from a table, by the levels that remain: level, lowest VA bit and number of VA bits it indexes (Table 3). An entry that
the table-space geometry places nowhere (R213) cannot be read and is judged as one that is not well formed (Table 6, order 2). -/
def State.walkFrom (s : State) (va table : Nat) : List (Nat × Nat × Nat) → Walk
  | [] => .malformed
  | (lv, sh, bits) :: rest =>
    if table % (8 * 2 ^ bits) != 0 || !s.tsCovers table (8 * 2 ^ bits) then .malformed
    else
      let o := table + 8 * (va / 2 ^ sh % 2 ^ bits)
      let e : DWord := BitVec.ofNat 64 (bytesToNat (s.tsRead o 8))
      if (s.tsPlace o).isNone then .malformed
      else if !e.getLsbD 0 then .invalid
      else if e.getLsbD 1 then
        (if lv == 4 || !pteOk e then .malformed else .leaf e (2 ^ sh))
      else if lv == 1 || e.extractLsb' 40 24 != 0 || e.extractLsb' 2 6 != 0 then .malformed
      else s.walkFrom va (fieldAt e 39 8) rest

/-- The walk of the page table of a context. -/
def State.walk (s : State) (ctx va : Nat) : Walk :=
  s.walkFrom va (fieldAt (s.bank ctx).ptroot 39 21) [(4, 39, 18), (3, 30, 9), (2, 21, 9), (1, 16, 5)]

/-! ### Outcomes -/

/-- The outcome of a translation (Table 6): a fault carries its record kind, 0 page or 1 migration. -/
inductive Xlat where
  | ok (m : Mapped)
  | fault (kind : Nat)
  | violation
  deriving DecidableEq, Repr

/-- Who translates: the core, the context, the supervisor flag of its launch, and the cluster with its launch for a
core-pinned home. -/
structure Who where
  core : Nat
  ctx : Nat
  super : Bool
  cl : Option (Cluster × Launch)
  deriving DecidableEq, Repr

/-- Does a geometry's frame region hold the byte at a device address? -/
def Geometry.holds (g : Geometry) (f b dev : Nat) : Bool :=
  let u := g.stripe
  let n := g.count
  let la := dev % 2 ^ 31
  match g.channels.idxOf? (dev / 2 ^ 31) with
  | none => false
  | some c =>
    decide (b / u * u ≤ la) &&
      (let row := (la - b / u * u) / u
       decide (row < f / (n * u)) || (row == f / (n * u) && decide (c < f / u % n)))

/-- Is a device byte in a frame of the sealed-frame map (R428)? -/
def State.inSealed (s : State) (dev : Nat) : Bool :=
  s.sealedFrames.any fun f => (geometry f.2.1).holds f.2.2 f.1 dev

/-- A placement word applied at an offset of a frame region (orders 5 and 6 of Table 6; R205, R207, R209, R213). `paged`
says that a PTE gave the word: memory of a heap window is never sealed (R234). -/
def State.placed (s : State) (w : Who) (p : PlaceWord) (geo : BitVec 128) (f b o : Nat) (paged pinOk sealed : Bool)
    (tlb : Option Tlb) : Xlat :=
  if !p.unusedZero then .violation
  else if p.hc == 3 then
    match w.cl with
    | none => .violation
    | some (c, l) =>
      if pinOk && decide (p.pfrm < l.pinf) && decide (p.pfrm < 6) && decide (p.pcol < l.cw) && decide (p.prow < l.ch) then
        .ok { tgt := .frame c.ctx c.idx (((p.prow * l.cw + p.pcol) * 6 + p.pfrm) * 65536 + o), hc := 3, tag := 0,
              sealed := sealed, tlb := tlb }
      else .violation
  else
    let g := geometry geo
    if !g.valid then .violation
    else
      match g.place f b o with
      | none => .violation
      | some d => .ok { tgt := .line d, hc := p.hc, tag := p.tag, sealed := paged && (sealed || s.inSealed d), tlb := tlb }

/-- A PTE judged (orders 3 to 6 of Table 6). -/
def State.judge (s : State) (w : Who) (pte : DWord) (geo : BitVec 128) (size va : Nat) (write : Bool) (tlb : Option Tlb) :
    Xlat :=
  if pteOwn pte then .fault 1
  else if write && !pteWr pte then .violation
  else s.placed w (pteWord pte) geo size (pteFrame pte) (va % size) true (size == 65536) (pteSeal pte) tlb

/-- The heap window of a context that covers the address, by number (R233, R234). -/
def coveringWindow (ea : Nat) : List HeapRegs → Option HeapRegs
  | [] => none
  | h :: hs =>
    if h.ctl.getLsbD 0 && decide (fieldAt h.base 56 16 ≤ ea) && decide (ea < fieldAt h.limit 56 16) then some h
    else coveringWindow ea hs

/-- The TLB entry that covers the address, for an L1 or L2 TLB. -/
def State.tlbFind (s : State) (owner ctx va : Nat) : Option Tlb :=
  s.tlbs.find? fun t => t.owner == owner && t.ctx == ctx && decide (t.va ≤ va) && decide (va < t.va + t.size)

/-- Translation by TLBs and walk (R230, third source). -/
def State.pageTranslate (s : State) (w : Who) (va : Nat) (write : Bool) : Xlat :=
  match s.tlbFind w.core w.ctx va with
  | some t => s.judge w t.pte t.geo t.size va write none
  | none =>
    match s.tlbFind (192 + groupOf w.core) w.ctx va with
    | some t => s.judge w t.pte t.geo t.size va write (some { t with owner := w.core })
    | none =>
      match s.walk w.ctx va with
      | .invalid => .fault 0
      | .malformed => .violation
      | .leaf pte size =>
        let geo := s.geoEntry w.ctx (pteWord pte).geo
        s.judge w pte geo size va write
          (some { owner := w.core, ctx := w.ctx, va := va / size * size, size := size, pte := pte, geo := geo })

/-- The translation of a global address (R230). -/
def State.translate (s : State) (w : Who) (ea : Nat) (write : Bool) : Xlat :=
  match s.tsOffset ea with
  | some o =>
    if !w.super || !s.tsGeometry.valid then .violation
    else
      match s.tsPlace o with
      | none => .violation
      | some d => .ok { tgt := .line d, hc := 0, tag := 0, sealed := false, tlb := none }
  | none =>
    match coveringWindow ea (s.bank w.ctx).heap with
    | some h =>
      let p := placeWord (h.geo.toNat / 64 * 64)
      if write && !h.ctl.getLsbD 1 then .violation
      else
        s.placed w p (s.geoEntry w.ctx p.geo) (fieldAt h.limit 56 16 - fieldAt h.base 56 16) (fieldAt h.off 30 0)
          (ea - fieldAt h.base 56 16) false false false none
    | none => s.pageTranslate w ea write

/-- Install an entry in a TLB of `cap` entries (R15, R238). -/
def State.addTlb (s : State) (cap : Nat) (e : Tlb) : State :=
  if s.tlbs.contains e then s
  else
    let mine := fun (t : Tlb) => t.owner == e.owner
    let n := excess mine cap s.tlbs
    { s with tlbs := dropVictims mine n s.drops s.tlbs ++ [e], drops := s.drops + n }

/-- A translation of a PTE with SEAL = 1 enters its frame in the sealed-frame map (R428). -/
def State.sealFrame (s : State) (pte : DWord) (geo : BitVec 128) (size : Nat) : State :=
  let f := (pteFrame pte, geo, size)
  if pteSeal pte && (pteWord pte).hc != 3 && !s.sealedFrames.contains f then { s with sealedFrames := s.sealedFrames ++ [f] } else s

/-- A TLB entry is installed in the L1 TLB, of 128 entries, and in the L2 TLB of the group, of 4,096 (R238); a PTE with
SEAL = 1 enters its frame in the sealed-frame map (R428). -/
def State.learn (s : State) : Xlat → State
  | .ok m =>
    match m.tlb with
    | none => s
    | some t => ((s.addTlb 128 t).addTlb 4096 { t with owner := 192 + groupOf t.owner }).sealFrame t.pte t.geo t.size
  | _ => s

/-- Remove the TLB entries of a context that overlap [lo, hi). -/
def State.tlbDrop (s : State) (ctx lo hi : Nat) : State :=
  { s with tlbs := s.tlbs.filter fun t => !(t.ctx == ctx && decide (t.va < hi) && decide (lo < t.va + t.size)) }

/-! ### Lines on the move (R227) -/

/-- Offset of the byte in its frame region under a PTE, placed by the old or the new PTE of a move. -/
def Moving.place (m : Moving) (new : Bool) (o : Nat) : Option Nat :=
  if new then (geometry m.newGeo).place m.size (pteFrame m.new_) o else (geometry m.oldGeo).place m.size (pteFrame m.old) o

/-- Offset of a device byte in the old frame of a move. -/
def Moving.offset (m : Moving) (dev : Nat) : Option Nat := (geometry m.oldGeo).offset m.size (pteFrame m.old) dev

/-- Where a move forwards a device byte: its new home, once its line has been copied. -/
def Moving.forwards (m : Moving) (dev : Nat) : Option Nat :=
  match m.offset dev with
  | some o => if o / 128 < m.moved then m.place true o else none
  | none => none

/-- Where an access that translated to a device address is performed: the old home of a moving page forwards a line that has been
copied to its new home, whoever's access it is (R227). -/
def State.forward (s : State) (_ctx _va dev : Nat) : Nat := (s.moving.findSome? fun m => m.forwards dev).getD dev

/-! ### Window operands (R188, R189) -/

/-- The issuing path as a translator. -/
def Iss.who (x : Iss) : Who := { core := x.w.core, ctx := x.w.ctx, super := x.l.super, cl := some (x.c, x.l) }

/-- A page request or migration request of a lane (R253): type, lane, address. -/
def Iss.faultRec (x : Iss) (kind typ lane va : Nat) : FaultRec :=
  x.s.record x.w.ctx kind typ 0 x.w.core x.w.slot lane va (x.lane lane).rpc.toNat (x.lane lane).rcnt

/-- Is a fill of the line, for this core and context, awaited (for a fetch or for the constant cache)? -/
def State.awaited (s : State) (core ctx line : Nat) (fetch : Bool) : Bool :=
  s.cwaits.any fun c => c.core == core && c.ctx == ctx && c.line == line && c.fetch == fetch

/-- The path of an issue awaits the line of an address, for a fetch or for the constant cache: it lies where `m` says, or its
translation fault is posted and awaits an answer. -/
def State.addWait (s : State) (x : Iss) (va : Nat) (fetch : Bool) (again : List VAddr) (m : Option Mapped) : State :=
  let c : CWait := { core := x.w.core, slot := x.w.slot, ctx := x.w.ctx, line := va / 64, va := va, fetch := fetch, pc := x.pc,
                     dev := m.bind fun m => match m.tgt with
                       | .line d => some d
                       | _ => none,
                     hc := (m.map fun m => m.hc).getD 0, tag := (m.map fun m => m.tag).getD 0, again := again }
  { s with cwaits := s.cwaits ++ [c] }

/-- Ask for one constant-cache line, at address `va` of it: a translation fault posts a TYPE 6 record for the path. -/
def Iss.askLine (x : Iss) (s : State) (va : Nat) : State :=
  if s.awaited x.w.core x.w.ctx (va / 64) false then s
  else
    match s.translate x.who (va / 64 * 64) false with
    | .ok m => match m.tgt with
      | .line _ => (s.addWait x va false [] (some m)).learn (.ok m)
      | _ => s
    | .fault k => (s.addWait x va false [] none).post [x.faultRec k 6 (x.act.headD 0) va]
    | .violation => s

/-- Is a line of a window not to be had (R188): its translation traps, or gives a core-pinned page? -/
def Iss.windowBad (x : Iss) (va : Nat) : Bool :=
  match x.s.translate x.who (va / 64 * 64) false with
  | .ok m => match m.tgt with
    | .line _ => false
    | _ => true
  | .fault _ => false
  | .violation => true

/-- Wait for a window operand's words, if a lane executes (R189), else go on. A poisoned sector read so traps (R431). -/
def Iss.withWindow (x : Iss) (b : BSrc) (regs : Nat) (k : State) : State :=
  if x.ex.isEmpty then k
  else
    match x.windowMisses b regs with
    | [] => if x.windowPoison b regs then x.trap 0x09 else k
    | ms =>
      match ms.find? fun va => !x.s.awaited x.w.core x.w.ctx (va / 64) false && x.windowBad va with
      | some va => x.trapLane 0x07 x.lead va
      | none => ms.foldl x.askLine x.s

end Sys2Proof.Machine
end

