-- ==== Sys2Proof/Machine/Flags.lean ====
section
/-! DEFINITION. Flags and conditions: the float flags (R145, Table 3), the combine modes of the predicate pair (R122),
integer and float conditions (R58, Table 16). -/

namespace Sys2Proof.Machine

open Sys2Proof

/-! ### Float flags -/

/-- A set of the five flags, laid out as `%fstat` bits 4:0. -/
abbrev Flags := BitVec 5

def Flags.none : Flags := 0
def Flags.nv : Flags := 0b00001
def Flags.dz : Flags := 0b00010
def Flags.ovf : Flags := 0b00100
def Flags.unf : Flags := 0b01000
def Flags.nx : Flags := 0b10000

/-- Set flags in the warp's sticky word (R145). -/
def Warp.raise (w : Warp) (f : Flags) : Warp := { w with fstat := w.fstat ||| f.zeroExtend 32 }

/-! ### The predicate pair (R122) -/

/-- Write predicate `n`; writes to `p0` are discarded (R117). -/
def setPred (p : BitVec 8) (n : BitVec 3) (b : Bool) : BitVec 8 :=
  if n == 0 then p
  else if b then p ||| (1#8 <<< n.toNat) else p &&& ~~~(1#8 <<< n.toNat)

/-- Fold a condition into the pair PT, PF of a lane under CMB; both old values are read first (R122). -/
def Lane.foldPair (l : Lane) (pt pf : BitVec 3) (cmb : BitVec 2) (c : Bool) : Lane :=
  let t := l.pred pt
  let f := l.pred pf
  let t' := if cmb == 0 then c else if cmb == 1 then t && c else t || c
  let f' := if cmb == 0 then !c else if cmb == 1 then f || !c else f && !c
  { l with p := setPred (setPred l.p pt t') pf f' }

/-! ### Conditions (R58, Table 16) -/

/-- The order of two values, or unordered. -/
inductive Order where
  | less | equal | greater | unordered
  deriving DecidableEq, Repr

/-- The condition of a compare code. -/
def condition (cc : BitVec 4) (o : Order) : Bool :=
  let eq := o == .equal
  let lt := o == .less
  let gt := o == .greater
  let un := o == .unordered
  match cc.toNat with
  | 0x0 => eq
  | 0x1 => lt || gt
  | 0x2 => lt
  | 0x3 => lt || eq
  | 0x4 => gt
  | 0x5 => gt || eq
  | 0x6 => !un
  | 0x7 => un
  | 0x8 => un || eq
  | 0x9 => un || lt || gt
  | 0xA => un || lt
  | 0xB => un || lt || eq
  | 0xC => un || gt
  | _ => un || gt || eq

/-- The order of two integers. -/
def orderInt (a b : Int) : Order := if a < b then .less else if a = b then .equal else .greater

end Sys2Proof.Machine
end

