-- ==== Sys2Proof/Machine/Operands.lean ====
section
/-! DEFINITION. Operand forms: reading a register at a type and writing a result at a type (R42, R57, R127, R128), and
the shared shapes of the per-lane and cross-lane instructions. -/

namespace Sys2Proof

/-! ### Values at a type -/

/-- Signed integer types. -/
def Ty.signed? : Ty → Bool
  | .s8 | .s16 | .s32 | .s64 => true
  | _ => false

/-- The low `n` bits. -/
def low (n x : Nat) : Nat := x % 2 ^ n

/-- The low `n` bits read as two's complement. -/
def signedOf (n x : Nat) : Int :=
  let v := x % 2 ^ n
  if 2 ^ n ≤ 2 * v then (v : Int) - (2 ^ n : Nat) else v

/-- The integer that raw bits hold at a type: signed for sN, unsigned otherwise (R128). -/
def Ty.int (ty : Ty) (x : Nat) : Int := if ty.signed? then signedOf ty.bits x else ((low ty.bits x : Nat) : Int)

/-- An integer wrapped to `n` bits. -/
def wrapN (n : Nat) (v : Int) : Nat := (v % ((2 ^ n : Nat) : Int)).toNat

/-- The range of an integer type. -/
def Ty.lo (ty : Ty) : Int := if ty.signed? then -((2 ^ (ty.bits - 1) : Nat) : Int) else 0
def Ty.hi (ty : Ty) : Int :=
  if ty.signed? then ((2 ^ (ty.bits - 1) : Nat) : Int) - 1 else ((2 ^ ty.bits : Nat) : Int) - 1

/-- Clamp to a range. -/
def clampInt (lo hi v : Int) : Int := if v < lo then lo else if hi < v then hi else v

/-- The bits a result writes: N bits, and for N below 32 all 32 bits, extended as the type says (R128). -/
def Ty.put (ty : Ty) (v : Int) : Nat :=
  let n := ty.bits
  let w := wrapN n v
  if n < 32 && ty.signed? then wrapN 32 (signedOf n w) else w

/-- An exact result brought to the width of TY: wrapped, or clamped with `.sat` (R127). -/
def Ty.result (ty : Ty) (sat : Bool) (v : Int) : Nat := ty.put (if sat then clampInt ty.lo ty.hi v else v)

/-- How many registers each of D, A, B and C spans. -/
structure Spans where
  d : Nat
  a : Nat
  b : Nat
  c : Nat
  deriving DecidableEq, Repr

/-- All at the width of TY. -/
def ROps.spans (o : ROps) : Spans := ⟨o.ty.regs, o.ty.regs, o.ty.regs, o.ty.regs⟩

/-- The registers of a format R instruction. -/
def ROps.regUses (o : ROps) (n : Spans) : List RegUse := [(o.d, n.d), (o.a, n.a), (o.c, n.c)] ++ o.b.use n.b

end Sys2Proof

namespace Sys2Proof.Machine

open Sys2Proof

/-! ### Per-lane shapes -/

/-- The shape of an instruction that writes D in every executing lane with a function of the lane's raw A, B and C. -/
def aluR (g : Guard) (o : ROps) (n : Spans) (f : Nat → Nat → Nat → Nat) (s : State) : Result :=
  issue g s (o.regUses n) (fun x => nbvOk x.s o.ty) false fun x =>
    x.withWindow o.b n.b
      (x.next x.s (x.w.write o.d n.d
        (x.ex.map fun i => (i, f (x.read i o.a n.a) (x.readB i o.b n.b) (x.read i o.c n.c)))))

/-- The same with flags, gathered from the executing lanes into `%fstat` (R145); the function sees the numerics version
and the lane's A, B and C. -/
def fluR (g : Guard) (o : ROps) (n : Spans) (f : Nat → Nat → Nat → Nat → Nat × Flags) (s : State) : Result :=
  issue g s (o.regUses n) (fun x => nbvOk x.s o.ty) false fun x =>
    x.withWindow o.b n.b
      (let rs := x.ex.map fun i => (i, f x.s.nbv (x.read i o.a n.a) (x.readB i o.b n.b) (x.read i o.c n.c))
       let w := x.w.write o.d n.d (rs.map fun r => (r.1, r.2.1))
       x.next x.s (w.raise (rs.foldl (fun m r => m ||| r.2.2) 0)))

/-- The shape of an instruction that writes D from a function of the lane's predicates. -/
def predR (g : Guard) (o : ROps) (n : Spans) (f : Lane → Nat → Nat → Nat) (s : State) : Result :=
  issue g s (o.regUses n) (fun _ => true) false fun x =>
    x.withWindow o.b n.b
      (x.next x.s (x.w.write o.d n.d
        (x.ex.map fun i => (i, f (x.lane i) (x.read i o.a n.a) (x.readB i o.b n.b)))))

/-- The shape of format I (R131). -/
def aluI (g : Guard) (o : IOps) (f : Nat → Nat) (s : State) : Result :=
  issue g s [(o.d, o.ty.regs), (o.a, o.ty.regs)] (fun _ => true) false fun x =>
    x.next x.s (x.w.write o.d o.ty.regs (x.ex.map fun i => (i, f (x.read i o.a o.ty.regs))))

/-- The shape of a compare: the condition of each executing lane, with the flags it raises, folded into the pair. -/
def cmpP (g : Guard) (o : POps) (na nb : Nat) (f : Nat → Nat → Nat → Bool × Flags) (s : State) : Result :=
  issue g s ((o.a, na) :: o.b.use nb) (fun _ => true) false fun x =>
    x.withWindow o.b nb
      (let rs := x.ex.map fun i => (i, f x.s.nbv (x.read i o.a na) (x.readB i o.b nb))
       let w := x.w.modLanes x.ex fun i l =>
         match rs.find? fun r => r.1 == i with
         | some r => l.foldPair o.pt o.pf o.cmb r.2.1
         | none => l
       x.next x.s (w.raise (rs.foldl (fun m r => m ||| r.2.2) 0)))

/-! ### Held instructions (R121, R247) -/

/-- The lanes of the warp that are parked. -/
def Warp.parkedLanes (w : Warp) : List Nat :=
  (List.range 32).filter fun i => match (w.lane i).status with
    | .parked _ _ => true
    | _ => false

/-- The lanes of an awaited set that have not joined the held path at `pc`: still parked, or running or snoozing elsewhere. -/
def Warp.missing (w : Warp) (pc : VAddr) (m : Mask) : List Nat :=
  (lanesOf m).filter fun i =>
    match (w.lane i).status with
    | .parked _ _ => true
    | .runnable => (w.lane i).pc != pc
    | .waiting (.snooze _) => true
    | .exited => false
    | .departed => false
    | _ => false

/-- A path held at a held instruction: its PC, its awaited lanes, its executing lanes. -/
abbrev HeldPath := VAddr × Mask × Mask

/-- The held path whose awaited set has a lane that waits at a barrier, a ring or `join.wait` (R247). -/
def Warp.strayed (w : Warp) : Option HeldPath :=
  w.holds.find? fun (h : HeldPath) => (lanesOf h.2.1).any fun i => match (w.lane i).status with
    | .waiting (.join _) => true
    | .waiting (.bar _) => true
    | .waiting .cbar => true
    | .waiting (.ring _ _ _) => true
    | _ => false

/-- The awaited set of a path at this PC: recorded when it reached its instruction, else the lanes now parked. -/
def Warp.awaiting (w : Warp) (pc : VAddr) : Mask :=
  match w.holds.find? fun (h : HeldPath) => h.1 == pc with
  | some h => h.2.1
  | none => maskOf w.parkedLanes

/-- The held path whose awaited set has a lane that has resumed, running or snoozing, and that a halt of the warp stops (R247). -/
def Warp.haltStray (w : Warp) : Option HeldPath :=
  w.holds.find? fun (h : HeldPath) => (lanesOf h.2.1).any fun i => match (w.lane i).status with
    | .runnable => (w.lane i).pc != h.1
    | .waiting (.snooze _) => true
    | _ => false

/-- The trap illegal-convergence at a held path of any warp (R247). -/
def State.strayOf (s : State) (w : Warp) (h : HeldPath) : State :=
  s.takeTrap (s.record w.ctx 3 0 0x05 w.core w.slot ((lanesOf h.2.2 ++ w.activeAt h.1).headD 0) h.1.toNat 0 h.2.2)

/-- The trap illegal-convergence at a held instruction, which need not be the issuing one (R247). -/
def Iss.strayTrap (x : Iss) (s : State) (h : HeldPath) : State :=
  let lanes := lanesOf h.2.2 ++ x.w.activeAt h.1
  s.takeTrap { x.trapRec 0x05 0 (lanes.headD 0) with addr := h.1.toNat, count := h.2.2 }

/-- After an instruction that makes lanes wait or halt: a lane that a held path awaits must not be among them (R247). -/
def Iss.checkStray (x : Iss) (s : State) : State :=
  match s.warp? x.w.core x.w.slot with
  | none => s
  | some w =>
    match w.strayed with
    | some h => x.strayTrap s h
    | none => s

/-- A held instruction (R247): while a lane that was parked when the path reached it has not joined, the path is held,
not ready, and its turn ends. A lane awaited elsewhere that reaches this instruction makes the one that awaits it trap
illegal-convergence. -/
def Iss.held (x : Iss) (k : State) : State :=
  let m := x.w.awaiting x.pc
  match x.w.holds.find? (fun (h : HeldPath) => h.1 != x.pc && x.act.any fun i => h.2.1.getLsbD i) with
  | some h => { x.strayTrap x.s h with issues := x.s.issues + 1 }
  | none =>
    let left := x.w.missing x.pc m
    if left.isEmpty then k
    else
      let w := { x.w with holds := (x.w.holds.filter fun (h : HeldPath) => h.1 != x.pc) ++
                   [(x.pc, maskOf left, maskOf x.ex)] }
      x.s.setWarp (w.endTurn x.s.cycle x.pc)

/-- The warp once a held instruction issues: its hold is over. -/
def Warp.unheld (w : Warp) (pc : VAddr) : Warp := { w with holds := w.holds.filter fun (h : HeldPath) => h.1 != pc }

/-- The shape of a cross-lane instruction (R121): a function of the executing lanes' A and B gives each executing lane
its result. -/
def crossR (g : Guard) (o : ROps) (n : Spans) (f : Iss → List (Nat × Nat) → List (Nat × Nat) → Nat → Nat) (s : State) :
    Result :=
  issue g s (o.regUses n) (fun _ => true) false fun x =>
    x.held
      (x.withWindow o.b n.b
        (let as := x.ex.map fun i => (i, x.read i o.a n.a)
         let bs := x.ex.map fun i => (i, x.readB i o.b n.b)
         x.next x.s ((x.w.unheld x.pc).write o.d n.d (x.ex.map fun i => (i, f x as bs i)))))

end Sys2Proof.Machine
end

