-- ==== Sys2Proof/Machine/Integer.lean ====
section
/-! DEFINITION. The meanings of the integer, bit and move instructions of group 0 (R127 to R131). -/

namespace Sys2Proof.Machine

open Sys2Proof

/-! ### Arithmetic (R127, Table 4) -/

def execAdd (g : Guard) (o : ROps) (s : State) : Result :=
  aluR g o o.spans (fun a b _ => o.ty.result (o.mod.getLsbD 0) (o.ty.int a + o.ty.int b)) s

def execSub (g : Guard) (o : ROps) (s : State) : Result :=
  aluR g o o.spans (fun a b _ => o.ty.result (o.mod.getLsbD 0) (o.ty.int a - o.ty.int b)) s

def execMul (g : Guard) (o : ROps) (s : State) : Result :=
  aluR g o o.spans (fun a b _ => o.ty.result (o.mod.getLsbD 0) (o.ty.int a * o.ty.int b)) s

/-- Floored division of the exact product by 2^N. -/
def highHalf (ty : Ty) (a b : Nat) : Int := Int.fdiv (ty.int a * ty.int b) ((2 ^ ty.bits : Nat) : Int)

def execMulhi (g : Guard) (o : ROps) (s : State) : Result :=
  aluR g o o.spans (fun a b _ => o.ty.put (highHalf o.ty a b)) s

def execMad (g : Guard) (o : ROps) (s : State) : Result :=
  aluR g o o.spans (fun a b c => o.ty.result (o.mod.getLsbD 0) (o.ty.int a * o.ty.int b + o.ty.int c)) s

def execMadhi (g : Guard) (o : ROps) (s : State) : Result :=
  aluR g o o.spans (fun a b c => o.ty.put (highHalf o.ty a b + o.ty.int c)) s

def execMin (g : Guard) (o : ROps) (s : State) : Result :=
  aluR g o o.spans (fun a b _ => o.ty.put (if o.ty.int b < o.ty.int a then o.ty.int b else o.ty.int a)) s

def execMax (g : Guard) (o : ROps) (s : State) : Result :=
  aluR g o o.spans (fun a b _ => o.ty.put (if o.ty.int a < o.ty.int b then o.ty.int b else o.ty.int a)) s

def execAbs (g : Guard) (o : ROps) (s : State) : Result :=
  aluR g o o.spans
    (fun a _ _ => o.ty.result (o.mod.getLsbD 0) (if o.ty.int a < 0 then -o.ty.int a else o.ty.int a)) s

def execNeg (g : Guard) (o : ROps) (s : State) : Result :=
  aluR g o o.spans (fun a _ _ => o.ty.result (o.mod.getLsbD 0) (-o.ty.int a)) s

def execSad (g : Guard) (o : ROps) (s : State) : Result :=
  aluR g o o.spans (fun a b c =>
    let d := o.ty.int a - o.ty.int b
    o.ty.put ((if d < 0 then -d else d) + o.ty.int c)) s

/-- Byte `i` of a register, signed or not. -/
def byteInt (sgn : Bool) (x i : Nat) : Int :=
  if sgn then signedOf 8 (x / 256 ^ i) else ((low 8 (x / 256 ^ i) : Nat) : Int)

/-- The dot product of four byte pairs added to c read as s32, wrapped or clamped as s32 (R127). -/
def dot4Value (ty : Ty) (opp sat : Bool) (a b c : Nat) : Nat :=
  let sa := ty.signed?
  let sb := sa != opp
  let t := fun i => byteInt sa a i * byteInt sb b i
  Ty.s32.result sat (signedOf 32 c + (t 0 + t 1 + t 2 + t 3))

def execDot4 (g : Guard) (o : ROps) (s : State) : Result :=
  aluR g o ⟨1, 1, 1, 1⟩ (dot4Value o.ty (o.mod.getLsbD 0) (o.mod.getLsbD 1)) s

def execLea (g : Guard) (o : ROps) (s : State) : Result :=
  aluR g o ⟨o.ty.regs, o.ty.regs, 1, 1⟩ (fun a b _ =>
    let i : Int := if o.mod.getLsbD 3 then signedOf 32 b else ((low 32 b : Nat) : Int)
    o.ty.put (o.ty.int a + i * ((2 ^ (o.mod.extractLsb' 0 3).toNat : Nat) : Int))) s

/-! ### Bit operations (R129, Table 5) -/

def execAnd (g : Guard) (o : ROps) (s : State) : Result :=
  aluR g o o.spans (fun a b _ => (low o.ty.bits a).land (low o.ty.bits b)) s

def execOr (g : Guard) (o : ROps) (s : State) : Result :=
  aluR g o o.spans (fun a b _ => (low o.ty.bits a).lor (low o.ty.bits b)) s

def execXor (g : Guard) (o : ROps) (s : State) : Result :=
  aluR g o o.spans (fun a b _ => (low o.ty.bits a).xor (low o.ty.bits b)) s

/-- The number whose bit k, for k < n, is `f k`. -/
def bitsOf (f : Nat → Bool) : Nat → Nat
  | 0 => 0
  | n + 1 => bitsOf f n + (if f n then 2 ^ n else 0)

/-- A truth table over the bits of three values (R129). -/
def bitopValue (n : Nat) (tm : BitVec 8) (a b c : Nat) : Nat :=
  bitsOf (fun k =>
    tm.getLsbD ((a.testBit k).toNat * 4 + (b.testBit k).toNat * 2 + (c.testBit k).toNat)) n

def execBitop (g : Guard) (o : ROps) (s : State) : Result :=
  aluR g o o.spans (bitopValue o.ty.bits (o.mod.extractLsb' 0 8)) s

/-- D and A at the width of TY, B one 32-bit amount (R128). -/
def ROps.shiftSpans (o : ROps) : Spans := ⟨o.ty.regs, o.ty.regs, 1, o.ty.regs⟩

def execShl (g : Guard) (o : ROps) (s : State) : Result :=
  aluR g o (ROps.shiftSpans o)
    (fun a b _ => if o.ty.bits ≤ low 32 b then 0 else low o.ty.bits (a * 2 ^ low 32 b)) s

def execShr (g : Guard) (o : ROps) (s : State) : Result :=
  aluR g o (ROps.shiftSpans o)
    (fun a b _ => if o.ty.bits ≤ low 32 b then 0 else low o.ty.bits a / 2 ^ low 32 b) s

def execSra (g : Guard) (o : ROps) (s : State) : Result :=
  aluR g o (ROps.shiftSpans o) (fun a b _ =>
    o.ty.put (Int.fdiv (o.ty.int a) ((2 ^ min (low 32 b) (o.ty.bits - 1) : Nat) : Int))) s

/-- `a` of `n` bits rotated left by `i`, i < n. -/
def rotLeft (n a i : Nat) : Nat := low n (low n a * 2 ^ i) + low n a / 2 ^ (n - i)

def execRotl (g : Guard) (o : ROps) (s : State) : Result :=
  aluR g o (ROps.shiftSpans o) (fun a b _ => rotLeft o.ty.bits a (low 32 b % o.ty.bits)) s

def execRotr (g : Guard) (o : ROps) (s : State) : Result :=
  aluR g o (ROps.shiftSpans o)
    (fun a b _ => rotLeft o.ty.bits a ((o.ty.bits - low 32 b % o.ty.bits) % o.ty.bits)) s

/-- A at the width of TY, D one register. -/
def ROps.countSpans (o : ROps) : Spans := ⟨1, o.ty.regs, 1, 1⟩

/-- Leading zeros among `n` bits. -/
def leadingZeros : Nat → Nat → Nat
  | 0, _ => 0
  | n + 1, x => if x.testBit n then 0 else 1 + leadingZeros n x

/-- Trailing zeros among `n` bits. -/
def trailingZeros : Nat → Nat → Nat
  | 0, _ => 0
  | n + 1, x => if x % 2 == 1 then 0 else 1 + trailingZeros n (x / 2)

def execClz (g : Guard) (o : ROps) (s : State) : Result :=
  aluR g o (ROps.countSpans o) (fun a _ _ => leadingZeros o.ty.bits a) s

def execCtz (g : Guard) (o : ROps) (s : State) : Result :=
  aluR g o (ROps.countSpans o) (fun a _ _ => trailingZeros o.ty.bits a) s

def execPopc (g : Guard) (o : ROps) (s : State) : Result :=
  aluR g o (ROps.countSpans o) (fun a _ _ => popcountN o.ty.bits a) s

def execBrev (g : Guard) (o : ROps) (s : State) : Result :=
  aluR g o o.spans (fun a _ _ => bitsOf (fun k => a.testBit (o.ty.bits - 1 - k)) o.ty.bits) s

/-- The field of `a` at pos and len from `b` (R130). -/
def bfxValue (ty : Ty) (a b : Nat) : Nat :=
  let n := ty.bits
  let pos := low 8 b
  let len := low 8 (b / 256)
  let src := fun k => if pos + k < n then a.testBit (pos + k) else ty.signed? && a.testBit (n - 1)
  bitsOf (fun k => if k < len then src k else ty.signed? && decide (0 < len) && src (len - 1)) n

def execBfx (g : Guard) (o : ROps) (s : State) : Result :=
  aluR g o (ROps.shiftSpans o) (fun a b _ => bfxValue o.ty a b) s

/-- `c` with a field at pos and len replaced from `a` (R130). -/
def bfiValue (n a b c : Nat) : Nat :=
  let pos := low 8 b
  let len := low 8 (b / 256)
  bitsOf (fun k => if pos ≤ k ∧ k < pos + len then a.testBit (k - pos) else c.testBit k) n

def execBfi (g : Guard) (o : ROps) (s : State) : Result :=
  aluR g o (ROps.shiftSpans o) (bfiValue o.ty.bits) s

/-! ### Moves and immediates (R131, Table 6) -/

def execSel (g : Guard) (o : ROps) (s : State) : Result :=
  predR g o o.spans (fun l a b => if l.pred (o.mod.extractLsb' 0 3) != o.mod.getLsbD 3 then a else b) s

/-- What `mov` writes: narrow types extended under R128, others as they are. -/
def movValue (ty : Ty) (b : Nat) : Nat := if ty.bits < 32 then ty.put (ty.int b) else b

def execMov (g : Guard) (o : ROps) (s : State) : Result :=
  aluR g o o.spans (fun _ b _ => movValue o.ty b) s

/-- What `movi` writes: the immediate, sign-extended for s64 and zero-extended for n64 and b64. -/
def moviValue (ty : Ty) (imm : BitVec 32) : Nat := if ty == .s64 then wrapN 64 imm.toInt else imm.toNat

def execMovi (g : Guard) (o : IOps) (s : State) : Result := aluI g o (fun _ => moviValue o.ty o.imm) s

def execAddi (g : Guard) (o : IOps) (s : State) : Result :=
  aluI g o (fun a => o.ty.result (o.mod.getLsbD 0) (o.ty.int a + o.imm.toInt)) s

end Sys2Proof.Machine
end

