-- ==== Sys2Proof/Machine/CrossLane.lean ====
section
/-! DEFINITION. The meanings of the cross-lane instructions of group 0 (R132 to R135). -/

namespace Sys2Proof.Machine

open Sys2Proof

/-- The value of a lane in a list of the executing lanes' values; 0 for a lane that does not execute (R121). -/
def valueAt (vs : List (Nat × Nat)) (i : Nat) : Nat :=
  match vs.find? fun v => v.1 == i with
  | some v => v.2
  | none => 0

/-! ### shfl (R132) -/

/-- The source lane: mode 0 idx, 1 up, 2 down, 3 xor; segment width 2^sw; distance `d`. -/
def shflSource (mode sw i d : Nat) : Nat :=
  let w := 2 ^ sw
  let m := i % w
  let base := i - m
  if mode == 0 then base + d % w
  else if mode == 1 then (if d ≤ m then i - d else i)
  else if mode == 2 then (if m + d < w then i + d else i)
  else base + m.xor (d % w)

def execShfl (g : Guard) (o : ROps) (s : State) : Result :=
  crossR g o ⟨o.ty.regs, o.ty.regs, 1, 1⟩ (fun _ as bs i =>
    valueAt as (shflSource (o.mod.extractLsb' 0 2).toNat (o.mod.extractLsb' 2 3).toNat i (valueAt bs i))) s

/-! ### vote and match (R133) -/

/-- The executing lanes whose predicate, negated as asked, is set. -/
def votes (o : ROps) (x : Iss) : List Nat :=
  x.ex.filter fun i => (x.lane i).pred (o.mod.extractLsb' 2 3) != o.mod.getLsbD 5

def execVoteAny (g : Guard) (o : ROps) (s : State) : Result :=
  crossR g o ⟨1, 1, 1, 1⟩ (fun x _ _ _ => if (votes o x).isEmpty then 0 else 1) s

def execVoteAll (g : Guard) (o : ROps) (s : State) : Result :=
  crossR g o ⟨1, 1, 1, 1⟩ (fun x _ _ _ => if votes o x == x.ex then 1 else 0) s

def execVoteMask (g : Guard) (o : ROps) (s : State) : Result :=
  crossR g o ⟨1, 1, 1, 1⟩ (fun x _ _ _ => (maskOf (votes o x)).toNat) s

/-- A at the width of TY, D one register. -/
def ROps.matchSpans (o : ROps) : Spans := ⟨1, o.ty.regs, 1, 1⟩

def execMatchAny (g : Guard) (o : ROps) (s : State) : Result :=
  crossR g o (ROps.matchSpans o)
    (fun x as _ i => (maskOf (x.ex.filter fun j => valueAt as j == valueAt as i)).toNat) s

def execMatchAll (g : Guard) (o : ROps) (s : State) : Result :=
  crossR g o (ROps.matchSpans o)
    (fun x as _ i => if x.ex.all fun j => valueAt as j == valueAt as i then (maskOf x.ex).toNat else 0) s

/-! ### rdlane (R134) -/

def execRdlane (g : Guard) (o : ROps) (s : State) : Result :=
  crossR g o ⟨o.ty.regs, o.ty.regs, 1, 1⟩
    (fun x as bs _ => valueAt as (low 5 (valueAt bs (x.ex.headD 0)))) s

/-! ### wscan and wred (R135, Table 7) -/

/-- The identity of an operation at a type. -/
def scanIdentity (op : Nat) (ty : Ty) : Nat :=
  if op == 1 then ty.put ty.hi else if op == 2 then ty.put ty.lo else if op == 3 then 2 ^ ty.bits - 1 else 0

/-- One step of an operation; additions wrap. -/
def scanStep (op : Nat) (ty : Ty) (a b : Nat) : Nat :=
  if op == 0 then ty.put (ty.int a + ty.int b)
  else if op == 1 then (if ty.int b < ty.int a then b else a)
  else if op == 2 then (if ty.int a < ty.int b then b else a)
  else if op == 3 then a.land b
  else if op == 4 then a.lor b
  else a.xor b

/-- The combination of A over the lanes of a list in its order. -/
def combine (op : Nat) (ty : Ty) (vs : List (Nat × Nat)) : Nat :=
  vs.foldl (fun acc v => scanStep op ty acc v.2) (scanIdentity op ty)

def execWscan (g : Guard) (o : ROps) (s : State) : Result :=
  crossR g o o.spans (fun _ as _ i =>
    combine (o.mod.extractLsb' 0 3).toNat o.ty
      (as.filter fun v => if o.mod.getLsbD 3 then v.1 < i else v.1 ≤ i)) s

def execWred (g : Guard) (o : ROps) (s : State) : Result :=
  crossR g o o.spans (fun _ as _ _ => combine (o.mod.extractLsb' 0 3).toNat o.ty as) s

end Sys2Proof.Machine
end

