-- ==== Sys2Proof/Machine/Float.lean ====
section
/-! DEFINITION. Number formats and rounding (R137 to R148): a float as an exact sign, magnitude and power of two; one
rounding to a format under a mode, with its flags; comparison; conversion to integers; DT8 (R140 to R142). -/

namespace Sys2Proof.Machine

open Sys2Proof

/-! ### Formats (R137, Table 1) -/

/-- A binary format: exponent and fraction widths. -/
structure Fmt where
  ebits : Nat
  mbits : Nat
  deriving DecidableEq, Repr

def Fmt.f32 : Fmt := ⟨8, 23⟩
def Fmt.f16 : Fmt := ⟨5, 10⟩
def Fmt.bf16 : Fmt := ⟨8, 7⟩

/-- The format of a float type; of a packed type, its elements'. -/
def fmtOf : Ty → Fmt
  | .f16 | .f16x2 => Fmt.f16
  | .bf16 | .bf16x2 => Fmt.bf16
  | _ => Fmt.f32

def Fmt.bias (f : Fmt) : Nat := 2 ^ (f.ebits - 1) - 1
/-- The exponent of the least normal value, and of the greatest binade. -/
def Fmt.emin (f : Fmt) : Int := 1 - (f.bias : Int)
def Fmt.emax (f : Fmt) : Int := (f.bias : Int)
def Fmt.width (f : Fmt) : Nat := 1 + f.ebits + f.mbits
/-- The sign bit, the infinity and the canonical quiet NaN. -/
def Fmt.signBit (f : Fmt) : Nat := 2 ^ (f.ebits + f.mbits)
def Fmt.infBits (f : Fmt) : Nat := (2 ^ f.ebits - 1) * 2 ^ f.mbits
def Fmt.nanBits (f : Fmt) : Nat := f.infBits + 2 ^ (f.mbits - 1)
def Fmt.maxBits (f : Fmt) : Nat := f.infBits - 1

/-- A float's value: a NaN, quiet or signalling; an infinity; or ±m·2^e exactly, m = 0 being a zero. -/
inductive FVal where
  | nan (signalling : Bool)
  | inf (neg : Bool)
  | fin (neg : Bool) (m : Nat) (e : Int)
  deriving DecidableEq, Repr

/-- The value of bits in a format. -/
def Fmt.val (f : Fmt) (bits : Nat) : FVal :=
  let neg := bits.testBit (f.ebits + f.mbits)
  let ex := bits / 2 ^ f.mbits % 2 ^ f.ebits
  let fr := bits % 2 ^ f.mbits
  if ex == 2 ^ f.ebits - 1 then
    (if fr == 0 then .inf neg else .nan (!fr.testBit (f.mbits - 1)))
  else if ex == 0 then .fin neg fr (f.emin - f.mbits)
  else .fin neg (2 ^ f.mbits + fr) ((ex : Int) - f.bias - f.mbits)

/-- The bits of a signed zero, an infinity and the largest finite value. -/
def Fmt.zero (f : Fmt) (neg : Bool) : Nat := if neg then f.signBit else 0
def Fmt.inf (f : Fmt) (neg : Bool) : Nat := f.zero neg + f.infBits
def Fmt.max (f : Fmt) (neg : Bool) : Nat := f.zero neg + f.maxBits

/-! ### Rounding (R143, R144) -/

/-- The rounding modes, by their codes. -/
inductive RMode where
  | rne | rz | ru | rd
  deriving DecidableEq, Repr

def rmode (c : BitVec 2) : RMode :=
  match c.toNat with
  | 0 => .rne
  | 1 => .rz
  | 2 => .ru
  | _ => .rd

/-- Does a magnitude `q` with a remainder move up to q + 1? `half` compares the remainder with one half: below, equal
or above. -/
def RMode.up (r : RMode) (neg : Bool) (q : Nat) (half : Order) : Bool :=
  match r with
  | .rne => half == .greater || (half == .equal && q % 2 == 1)
  | .rz => false
  | .ru => !neg
  | .rd => neg

/-- m·2^e rounded to a multiple of 2^q, in units of 2^q, and whether it was inexact. -/
def roundUnits (r : RMode) (neg : Bool) (m : Nat) (e q : Int) : Nat × Bool :=
  if q ≤ e then (m * 2 ^ (e - q).toNat, false)
  else
    let k := (q - e).toNat
    let d := m / 2 ^ k
    let rem := m % 2 ^ k
    if rem == 0 then (d, false)
    else
      let half := orderInt (2 * rem : Nat) ((2 ^ k : Nat) : Int)
      (if r.up neg d half then d + 1 else d, true)

/-- The bits of an overflowed result (R144): `sat` replaces ±∞ by ±max. -/
def Fmt.overflow (f : Fmt) (r : RMode) (sat neg : Bool) : Nat :=
  if sat then f.max neg
  else match r with
    | .rne => f.inf neg
    | .rz => f.max neg
    | .ru => if neg then f.max neg else f.inf neg
    | .rd => if neg then f.inf neg else f.max neg

/-- The bits of a magnitude of `sig` units of 2^q, already rounded, no more than the largest finite value. -/
def Fmt.pack (f : Fmt) (neg : Bool) (sig : Nat) (q : Int) : Nat :=
  if sig < 2 ^ f.mbits then f.zero neg + sig
  else
    let k := sig.log2
    let e := (k : Int) + q
    let frac := if k ≤ f.mbits then sig * 2 ^ (f.mbits - k) else sig / 2 ^ (k - f.mbits)
    f.zero neg + (e + f.bias).toNat * 2 ^ f.mbits + frac % 2 ^ f.mbits

/-- ±m·2^e, m > 0, rounded once to a format (R144): overflow with inexact, underflow when tiny after rounding and
inexact. -/
def Fmt.round (f : Fmt) (r : RMode) (sat neg : Bool) (m : Nat) (e : Int) : Nat × Flags :=
  if m == 0 then (f.zero neg, Flags.none)
  else
    let top := (m.log2 : Int) + e
    let q := (if top < f.emin then f.emin else top) - f.mbits
    let (sig, inexact) := roundUnits r neg m e q
    if sig != 0 && decide (f.emax < (sig.log2 : Int) + q) then (f.overflow r sat neg, Flags.ovf ||| Flags.nx)
    else
      let free := (roundUnits r neg m e (top - f.mbits)).1
      let tiny := decide ((free.log2 : Int) + (top - f.mbits) < f.emin)
      (f.pack neg sig q,
        if inexact then (if tiny then Flags.unf ||| Flags.nx else Flags.nx) else Flags.none)

/-! ### Version 1 flushing (R148) -/

/-- An FP32 operand as version 1 reads it: a subnormal is a zero of its sign. -/
def FVal.flushIn (f : Fmt) (nbv : Nat) (v : FVal) : FVal :=
  match v with
  | .fin neg m e => if nbv == 1 && f == Fmt.f32 && decide (m < 2 ^ 23) then .fin neg 0 e else v
  | _ => v

/-- An FP32 result as version 1 writes it: a zero of its sign below 2^−126, with underflow and inexact. -/
def flushOut (f : Fmt) (nbv : Nat) (r : Nat × Flags) : Nat × Flags :=
  let mag := r.1 % 2 ^ 31
  if nbv == 1 && f == Fmt.f32 && mag != 0 && decide (mag < 2 ^ 23) then
    (r.1 - mag, r.2 ||| Flags.unf ||| Flags.nx)
  else r

/-- An operand read in a format under a numerics version. -/
def Fmt.read (f : Fmt) (nbv bits : Nat) : FVal := (f.val bits).flushIn f nbv

/-- The invalid flag of a signalling operand (R144). -/
def FVal.sig (v : FVal) : Flags := if v == .nan true then Flags.nv else Flags.none

def FVal.isNan : FVal → Bool
  | .nan _ => true
  | _ => false

def FVal.isInf : FVal → Bool
  | .inf _ => true
  | _ => false

def FVal.neg : FVal → Bool
  | .nan _ => false
  | .inf n => n
  | .fin n _ _ => n

/-- The value with its sign turned. -/
def FVal.flip : FVal → FVal
  | .nan g => .nan g
  | .inf n => .inf (!n)
  | .fin n m e => .fin (!n) m e

/-! ### Exact sums and products -/

/-- The exact product; none for 0 · ∞. -/
def FVal.mul (a b : FVal) : Option FVal :=
  match a, b with
  | .nan g, _ => some (.nan g)
  | _, .nan g => some (.nan g)
  | .inf n, .inf k => some (.inf (n != k))
  | .inf n, .fin k m _ => if m == 0 then none else some (.inf (n != k))
  | .fin k m _, .inf n => if m == 0 then none else some (.inf (n != k))
  | .fin n m e, .fin k p q => some (.fin (n != k) (m * p) (e + q))

/-- A finite value in units of 2^e. -/
def FVal.units (v : FVal) (e : Int) : Int :=
  match v with
  | .fin n m x =>
    let t : Int := ((m * 2 ^ (x - e).toNat : Nat) : Int)
    if n then -t else t
  | _ => 0

/-- The least exponent of the nonzero finite values of a list. -/
def leastExp : List FVal → Option Int
  | [] => none
  | .fin _ m e :: vs =>
    if m == 0 then leastExp vs
    else match leastExp vs with
      | some k => some (if e < k then e else k)
      | none => some e
  | _ :: vs => leastExp vs

/-- The exact sum of finite values: an integer in units of 2^e. -/
def exactSum (vs : List FVal) : Int × Int :=
  match leastExp vs with
  | none => (0, 0)
  | some e => (vs.foldl (fun acc v => acc + (match v with
      | .fin _ m _ => if m == 0 then 0 else v.units e
      | _ => 0)) 0, e)

/-- The sign of an exact zero sum (R144): of like-signed zeros, theirs; otherwise + but under RD −. -/
def zeroSign (r : RMode) (vs : List FVal) : Bool :=
  if vs.all FVal.neg then true else if vs.all fun v => !v.neg then false else r == .rd

/-- The sum of values rounded once (R144): a NaN, or infinities of opposite sign, give the canonical NaN. `bad` is an
invalid operation already met. -/
def Fmt.sum (f : Fmt) (nbv : Nat) (r : RMode) (bad : Bool) (vs : List FVal) : Nat × Flags :=
  let infs := vs.filter FVal.isInf
  let opposed := infs.any FVal.neg && infs.any fun v => !v.neg
  if bad || opposed then (f.nanBits, Flags.nv)
  else if vs.any FVal.isNan then (f.nanBits, vs.foldl (fun m v => m ||| v.sig) Flags.none)
  else match infs with
    | v :: _ => (f.inf v.neg, Flags.none)
    | [] =>
      let t := exactSum vs
      if t.1 = 0 then (f.zero (zeroSign r vs), Flags.none)
      else flushOut f nbv (f.round r false (decide (t.1 < 0)) t.1.natAbs t.2)

/-! ### The operations of one element -/

def fadd1 (f : Fmt) (r : RMode) (nbv a b : Nat) : Nat × Flags := f.sum nbv r false [f.read nbv a, f.read nbv b]

def fsub1 (f : Fmt) (r : RMode) (nbv a b : Nat) : Nat × Flags := f.sum nbv r false [f.read nbv a, (f.read nbv b).flip]

def fmul1 (f : Fmt) (r : RMode) (nbv a b : Nat) : Nat × Flags :=
  let x := f.read nbv a
  let y := f.read nbv b
  let sig := x.sig ||| y.sig
  match x.mul y with
  | none => (f.nanBits, Flags.nv)
  | some (.nan _) => (f.nanBits, sig)
  | some (.inf n) => (f.inf n, Flags.none)
  | some (.fin n m e) => if m == 0 then (f.zero n, Flags.none) else flushOut f nbv (f.round r false n m e)

/-- a·b + c with one rounding; 0 · ∞ is invalid whatever c is (R151). -/
def ffma1 (f : Fmt) (r : RMode) (nbv a b c : Nat) : Nat × Flags :=
  let x := f.read nbv a
  let y := f.read nbv b
  let z := f.read nbv c
  let sig := x.sig ||| y.sig ||| z.sig
  match x.mul y with
  | none => (f.nanBits, Flags.nv)
  | some p => if p.isNan || z.isNan then (f.nanBits, sig) else f.sum nbv r false [p, z]

/-- Where a value stands in the order −∞ … −0, +0 … +∞, as an exact comparison with −0 below +0 (R152). -/
def FVal.before (a b : FVal) : Bool :=
  match a, b with
  | .inf n, .inf k => n && !k
  | .inf n, _ => n
  | _, .inf k => !k
  | .fin n m e, .fin k p q =>
    let t := exactSum [.fin n m e, .fin (!k) p q]
    if t.1 = 0 then n && !k && m == 0 else decide (t.1 < 0)
  | _, _ => false

/-- The bits of a value that a NaN-free read gave: the operand's own, a flushed subnormal as its zero. -/
def Fmt.keep (f : Fmt) (nbv bits : Nat) : Nat :=
  match f.read nbv bits with
  | .fin n m _ => if m == 0 then f.zero n else bits % 2 ^ f.width
  | _ => bits % 2 ^ f.width

def fminmax1 (greater : Bool) (f : Fmt) (nbv a b : Nat) : Nat × Flags :=
  let x := f.read nbv a
  let y := f.read nbv b
  let sig := x.sig ||| y.sig
  if x.isNan && y.isNan then (f.nanBits, sig)
  else if x.isNan then (f.keep nbv b, sig)
  else if y.isNan then (f.keep nbv a, sig)
  else if greater then (if x.before y then f.keep nbv b else f.keep nbv a, sig)
  else (if y.before x then f.keep nbv b else f.keep nbv a, sig)

/-- Rounded to an integral value; the sign is kept; only a signalling NaN raises a flag (R151). -/
def frnd1 (f : Fmt) (r : RMode) (nbv a : Nat) : Nat × Flags :=
  match f.read nbv a with
  | .nan g => (f.nanBits, if g then Flags.nv else Flags.none)
  | .inf n => (f.inf n, Flags.none)
  | .fin n m e =>
    let u := (roundUnits r n m e 0).1
    if u == 0 then (f.zero n, Flags.none) else ((f.round .rz false n u 0).1, Flags.none)

/-- a·2^b rounded once; zeros and infinities come back as they are (R154). Powers beyond ±4,096 act as ±4,096: the
result is the same. -/
def fscale1 (f : Fmt) (r : RMode) (nbv a : Nat) (b : Int) : Nat × Flags :=
  match f.read nbv a with
  | .nan g => (f.nanBits, if g then Flags.nv else Flags.none)
  | .inf n => (f.inf n, Flags.none)
  | .fin n m e =>
    if m == 0 then (f.zero n, Flags.none) else flushOut f nbv (f.round r false n m (e + clampInt (-4096) 4096 b))

/-- The integer square root by bits from `k` downwards: the greatest r with r² ≤ m, given r so far. -/
def isqrtFrom (m : Nat) : Nat → Nat → Nat
  | 0, r => r
  | k + 1, r => let t := r + 2 ^ k; isqrtFrom m k (if t * t ≤ m then t else r)

/-- √(m·2^e) as an integer in units of 2^x with a sticky low bit: the square root of at least 60 bits. -/
def sqrtUnits (m : Nat) (e : Int) : Nat × Int :=
  let odd := e % 2 != 0
  let m' := (if odd then 2 * m else m) * 2 ^ 64
  let e' := (if odd then e - 1 else e) - 64
  let r := isqrtFrom m' 64 0
  (2 * r + (if r * r == m' then 0 else 1), e' / 2 - 1)

/-- The square root, rounded once (R153, Table 8). -/
def fsqrt1 (f : Fmt) (r : RMode) (nbv a : Nat) : Nat × Flags :=
  match f.read nbv a with
  | .nan g => (f.nanBits, if g then Flags.nv else Flags.none)
  | .inf n => if n then (f.nanBits, Flags.nv) else (f.inf false, Flags.none)
  | .fin n m e =>
    if m == 0 then (f.zero n, Flags.none)
    else if n then (f.nanBits, Flags.nv)
    else
      let t := sqrtUnits m e
      flushOut f nbv (f.round r false false t.1 t.2)

/-- The class bit of an operand as stored (R156, Table 9). -/
def fclass1 (f : Fmt) (a : Nat) : Nat :=
  match f.val a with
  | .nan g => if g then 1 else 2
  | .inf n => if n then 4 else 512
  | .fin n m _ =>
    if m == 0 then (if n then 32 else 64)
    else if m < 2 ^ f.mbits then (if n then 16 else 128)
    else (if n then 8 else 256)

/-- The order of two floats (R58); the two zeros are equal. -/
def orderF (a b : FVal) : Order :=
  match a, b with
  | .nan _, _ => .unordered
  | _, .nan _ => .unordered
  | .inf n, .inf k => if n == k then .equal else if n then .less else .greater
  | .inf n, _ => if n then .less else .greater
  | _, .inf k => if k then .greater else .less
  | .fin n m e, .fin k p q => orderInt (exactSum [.fin n m e, .fin (!k) p q]).1 0

/-! ### Packed operands (R138) -/

/-- A one-operand operation on a scalar or on both elements of a packed type. -/
def lift1 (ty : Ty) (f : Nat → Nat × Flags) (a : Nat) : Nat × Flags :=
  if ty == .f16x2 || ty == .bf16x2 then
    let x := f (low 16 a)
    let y := f (low 16 (a / 2 ^ 16))
    (x.1 + 2 ^ 16 * y.1, x.2 ||| y.2)
  else f (low ty.bits a)

/-- The same with two operands. -/
def lift2 (ty : Ty) (f : Nat → Nat → Nat × Flags) (a b : Nat) : Nat × Flags :=
  if ty == .f16x2 || ty == .bf16x2 then
    let x := f (low 16 a) (low 16 b)
    let y := f (low 16 (a / 2 ^ 16)) (low 16 (b / 2 ^ 16))
    (x.1 + 2 ^ 16 * y.1, x.2 ||| y.2)
  else f (low ty.bits a) (low ty.bits b)

/-- The same with three operands. -/
def lift3 (ty : Ty) (f : Nat → Nat → Nat → Nat × Flags) (a b c : Nat) : Nat × Flags :=
  if ty == .f16x2 || ty == .bf16x2 then
    let x := f (low 16 a) (low 16 b) (low 16 c)
    let y := f (low 16 (a / 2 ^ 16)) (low 16 (b / 2 ^ 16)) (low 16 (c / 2 ^ 16))
    (x.1 + 2 ^ 16 * y.1, x.2 ||| y.2)
  else f (low ty.bits a) (low ty.bits b) (low ty.bits c)

/-! ### Conversions (R157, Table 10) -/

/-- A float value rounded to an integer type: NaN gives 0, out of range the nearest bound, both invalid. -/
def floatToInt (dst : Ty) (r : RMode) (v : FVal) : Nat × Flags :=
  match v with
  | .nan _ => (0, Flags.nv)
  | .inf n => (dst.put (if n then dst.lo else dst.hi), Flags.nv)
  | .fin n m e =>
    let u := roundUnits r n m (if e < 200 then e else 200) 0
    let i : Int := if n then -(u.1 : Int) else u.1
    if i < dst.lo ∨ dst.hi < i then (dst.put (clampInt dst.lo dst.hi i), Flags.nv)
    else (dst.put i, if u.2 then Flags.nx else Flags.none)

/-- An integer rounded to a float format. -/
def intToFloat (f : Fmt) (nbv : Nat) (r : RMode) (sat : Bool) (i : Int) : Nat × Flags :=
  if i = 0 then (0, Flags.none) else flushOut f nbv (f.round r sat (decide (i < 0)) i.natAbs 0)

/-- A float value rounded to a float format; an infinity stays one, a NaN is canonical. -/
def floatToFloat (f : Fmt) (nbv : Nat) (r : RMode) (sat : Bool) (v : FVal) : Nat × Flags :=
  match v with
  | .nan g => (f.nanBits, if g then Flags.nv else Flags.none)
  | .inf n => (f.inf n, Flags.none)
  | .fin n m e => if m == 0 then (f.zero n, Flags.none) else flushOut f nbv (f.round r sat n m e)

/-- `cvt` of the raw source bits (R157). -/
def cvtValue (src dst : Ty) (r : RMode) (sat hi : Bool) (nbv a : Nat) : Nat × Flags :=
  let x := if hi then a / 2 ^ 16 else a
  let srcF := src == .f32 || src == .f16 || src == .bf16
  let dstF := dst == .f32 || dst == .f16 || dst == .bf16
  let fs := fmtOf src
  let fd := fmtOf dst
  if srcF then
    let v := fs.read nbv (low src.bits x)
    if dstF then floatToFloat fd nbv r sat v else floatToInt dst r v
  else if dstF then intToFloat fd nbv r sat (src.int x)
  else (dst.result sat (src.int x), Flags.none)

/-! ### DT8 (R140 to R142, R159, R160) -/

/-- One term of a DT8 element in units of 2^−6: sign and exponent field. -/
def dtTerm (sgn : Bool) (e : Nat) : Int :=
  if e == 7 then 0 else
    let t : Int := ((2 ^ (6 - e) : Nat) : Int)
    if sgn then -t else t

/-- The value of a DT8 code in units of 2^−6 (R140). -/
def dtUnits (code : Nat) : Int :=
  dtTerm (code.testBit 7) (code / 16 % 8) + dtTerm (code.testBit 3) (code % 8)

/-- Codes in the order of preference of R142: fewest nonzero terms, then least E1, S1, E2, S2, a zero term with sign
bit 0. -/
def dtOrder : List Nat :=
  let zeroT : List Nat := [0x77]
  let one : List Nat :=
    (List.range 8).flatMap fun e1 => (List.range 2).flatMap fun s1 => (List.range 8).flatMap fun e2 =>
      (List.range 2).filterMap fun s2 =>
        if (e1 == 7) != (e2 == 7) && !(e1 == 7 && s1 == 1) && !(e2 == 7 && s2 == 1) then
          some (s1 * 128 + e1 * 16 + s2 * 8 + e2) else none
  let two : List Nat :=
    (List.range 7).flatMap fun e1 => (List.range 2).flatMap fun s1 => (List.range 7).flatMap fun e2 =>
      (List.range 2).map fun s2 => s1 * 128 + e1 * 16 + s2 * 8 + e2
  zeroT ++ one ++ two

/-- The canonical code of a DT8 value in units of 2^−6 (R142). -/
def dtCanonical (u : Int) : Nat :=
  if u = 0 then 0x77 else (dtOrder.find? fun c => dtUnits c == u).getD 0x77

/-- The DT8 values, in units of 2^−6, without repeats. -/
def dtValues : List Int := (dtOrder.map dtUnits).dedup

/-- The DT8 value nearest to n/2^k units, clamped to −2 … 2; of two equally near, the smaller in magnitude (R160). The
distance is compared exactly, in units of 2^−(6+k). -/
def dtNearest (n : Int) (k : Nat) : Int :=
  dtValues.foldl (fun best u =>
    let d := fun (v : Int) => (v * ((2 ^ k : Nat) : Int) - n).natAbs
    if d u < d best || (d u == d best && decide (u.natAbs < best.natAbs)) then u else best) 0

/-- `dtdec`: a code and a scale byte to f32 (R159). -/
def dtdecValue (code e : Nat) : Nat × Flags :=
  if e == 0xFF then (Fmt.f32.nanBits, Flags.none)
  else
    let u := dtUnits code
    if u = 0 then (0, Flags.none)
    else
      let r := Fmt.f32.round .rne false (decide (u < 0)) u.natAbs ((e : Int) - 127 - 6)
      (r.1, if r.2 &&& Flags.ovf != 0 then Flags.ovf ||| Flags.nx else Flags.none)

/-- `dtenc`: an f32 value and a scale byte to a canonical code (R160). -/
def dtencCode (a e : Nat) : Nat × Flags :=
  match Fmt.f32.val (low 32 a) with
  | .nan _ => (0x77, Flags.nv)
  | .inf n => if e == 0xFF then (0x77, Flags.nv) else (dtCanonical (if n then -128 else 128), Flags.nx)
  | .fin n m x =>
    if e == 0xFF then (0x77, Flags.nv)
    else if m == 0 then (0x77, Flags.none)
    else
      let p : Int := x + 127 - e + 6
      let big := decide ((9 : Int) < (m.log2 : Int) + p)
      if big then (dtCanonical (if n then -128 else 128), Flags.nx)
      else
        let k := if p < 0 then (-p).toNat else 0
        let v : Int := ((m * 2 ^ (if p < 0 then 0 else p.toNat) : Nat) : Int)
        let t : Int := if n then -v else v
        let q := dtNearest t k
        (dtCanonical q, if q * ((2 ^ k : Nat) : Int) = t then Flags.none else Flags.nx)

end Sys2Proof.Machine
end

