-- ==== Sys2Proof/Machine/Approx.lean ====
section
/-! DEFINITION. The approximated functions of R153: the special values and flags of Table 7, and for every other operand
the part's own result (Config.approx) where it lies within the bound of Table 8, and else the exact value rounded to
nearest. Exact values are fixed-point numbers in units of 2^-320 with an error far below the bounds. -/

namespace Sys2Proof.Machine

open Sys2Proof

/-- Fraction bits of the fixed-point values. -/
def fixBits : Nat := 320

/-- 2π and ln 2 in units of 2^-320, rounded down. -/
def fixTwoPi : Nat := 0x6487ed5110b4611a62633145c06e0e68948127044533e63a0105df531d89cd9128a5043cc71a026ef
def fixLn2 : Nat := 0xb17217f7d1cf79abc9e3b39803f2f6af40f343267298b62d8a0d175b8baafa2be7b876206debac98

/-- What the computed fixed-point values may err by, in units: 2^-170. -/
def fixErr : Nat := 2 ^ 150

/-- ±m·2^e in units of 2^-320, for e ≥ -320. -/
def fixOf (neg : Bool) (m : Nat) (e : Int) : Int :=
  let v : Int := ((m * 2 ^ (e + fixBits).toNat : Nat) : Int)
  if neg then -v else v

/-- The fixed-point product. -/
def fixMul (a b : Nat) : Nat := a * b / 2 ^ fixBits

/-- Σ t·x^k/k! from term k, `n` terms. -/
def expSeries (x : Nat) : Nat → Nat → Nat → Nat
  | 0, _, _ => 0
  | n + 1, k, t => t + expSeries x n (k + 1) (fixMul t x / k)

/-- 2^a for a in units: the fraction by the exponential series, then the integral power. -/
def fixExp2 (a : Int) : Nat :=
  let n := Int.fdiv a ((2 ^ fixBits : Nat) : Int)
  let f := (a - n * ((2 ^ fixBits : Nat) : Int)).toNat
  let v := expSeries (fixMul f fixLn2) 90 1 (2 ^ fixBits)
  if n < 0 then v / 2 ^ (-n).toNat else v * 2 ^ n.toNat

/-- Σ z^(2k+1)/(2k+1), `n` terms: the inverse hyperbolic tangent. -/
def atanhSeries (z2 : Nat) : Nat → Nat → Nat → Nat
  | 0, _, _ => 0
  | n + 1, k, t => t / k + atanhSeries z2 n (k + 2) (fixMul t z2)

/-- log2 of m·2^e, m > 0: the integral part, and 2 atanh((x-1)/(x+1)) / ln 2 for x in [1, 2). -/
def fixLog2 (m : Nat) (e : Int) : Int :=
  let k := m.log2
  let d := m - 2 ^ k
  let z := d * 2 ^ fixBits / (m + 2 ^ k)
  let ln := 2 * atanhSeries (fixMul z z) 110 1 z
  (e + k) * ((2 ^ fixBits : Nat) : Int) + ((ln * 2 ^ fixBits / fixLn2 : Nat) : Int)

/-- The alternating series of sine (k = 2, t = r) or cosine (k = 1, t = 1): Σ ±t·r²ⁱ/…, `n` terms. -/
def trigSeries (r2 : Nat) : Nat → Nat → Nat → Bool → Int
  | 0, _, _, _ => 0
  | n + 1, k, t, neg =>
    (if neg then -(t : Int) else (t : Int)) + trigSeries r2 n (k + 2) (fixMul t r2 / (k * (k + 1))) (!neg)

/-- The sine or cosine of an angle in units: reduced modulo 2π into [0, π] by its symmetries. -/
def fixTrig (cos : Bool) (a : Int) : Int :=
  let r := a.natAbs % fixTwoPi
  let upper := decide (fixTwoPi < 2 * r)
  let r := if upper then fixTwoPi - r else r
  let v := trigSeries (fixMul r r) 70 (if cos then 1 else 2) (if cos then 2 ^ fixBits else r) false
  if cos then v else if upper != decide (a < 0) then -v else v

/-- ulp of an exact value in units, times `k` (Table 8): 2^(max(E, -126) - 23) with 2^E ≤ |y| < 2^(E+1). -/
def ulpUnits (v : Int) (k : Nat) : Nat :=
  let e : Int := (v.natAbs.log2 : Int) - fixBits
  k * 2 ^ ((if e < -126 then -126 else e) - 23 + fixBits).toNat

/-- Is a finite f32 candidate within `bound` units of the exact value, whatever the computation's error? -/
def within (cand : Nat) (v : Int) (bound : Nat) : Bool :=
  match Fmt.f32.val cand with
  | .fin n m e => decide ((fixOf n m e - v).natAbs + fixErr ≤ bound)
  | _ => false

/-- Is the candidate's value within −1 to 1? -/
def inUnit (cand : Nat) : Bool :=
  match Fmt.f32.val cand with
  | .fin n m e => decide ((fixOf n m e).natAbs ≤ 2 ^ fixBits)
  | _ => false

/-- The exact value rounded to nearest. -/
def nearest (v : Int) : Nat := if v = 0 then 0 else (Fmt.f32.round .rne false (decide (v < 0)) v.natAbs (-(fixBits : Int))).1

/-- The part's result for function `fn`: its own where it meets `ok`, else the exact value rounded. -/
def approximate (fn nbv a : Nat) (ok : Nat → Bool) (v : Int) : Nat :=
  let c := (Config.approx fn nbv (BitVec.ofNat 32 a)).toNat
  if ok c then c else nearest v

/-- A result below 2^-126 as version 1 writes it: a signed zero, with no flag (Table 8). -/
def flushQuiet (nbv r : Nat) : Nat := (flushOut Fmt.f32 nbv (r, Flags.none)).1

/-- Is the magnitude a power of two? -/
def isPow2 (m : Nat) : Bool := m == 2 ^ m.log2

/-- The canonical NaN, with invalid when asked. -/
def nanResult (bad : Bool) : Nat × Flags := (Fmt.f32.nanBits, if bad then Flags.nv else Flags.none)

/-! ### frcp -/

/-- Is |y·a − 1| < ulp·|a| for y = ±p·2^q, a = ±m·2^e and the ulp of 1/a? Exact: 1/a lies in [2^E, 2^(E+1)). -/
def rcpOk (n : Bool) (m : Nat) (e : Int) (cand : Nat) : Bool :=
  match Fmt.f32.val cand with
  | .fin k p q =>
    -- E of 1/(m·2^e): 2^E·m·2^e ≤ 1
    let ex : Int := -e - (if isPow2 m then (m.log2 : Int) else (m.log2 : Int) + 1)
    let u : Int := (if ex < -126 then -126 else ex) - 23
    -- |p·2^q·m·2^e − 1| < 2^u·m·2^e, in units of 2^w
    let w : Int := -700
    let t := fun (x : Nat) (y : Int) => x * 2 ^ (y - w).toNat
    (k == n || p == 0) &&
      decide ((((t (p * m) (q + e) : Nat) : Int) - ((t 1 0 : Nat) : Int)).natAbs < t m (u + e))
  | _ => false

/-- 1/a rounded to nearest. -/
def rcpNearest (n : Bool) (m : Nat) (e : Int) : Nat × Flags :=
  let num := 2 ^ 400
  Fmt.f32.round .rne false n (2 * (num / m) + (if num % m == 0 then 0 else 1)) (-e - 401)

def frcp1 (nbv a : Nat) : Nat × Flags :=
  match Fmt.f32.read nbv a with
  | .nan g => nanResult g
  | .inf n => (Fmt.f32.zero n, Flags.none)
  | .fin n m e =>
    if m == 0 then (Fmt.f32.inf n, Flags.dz)
    else
      let r := rcpNearest n m e
      if r.2 &&& Flags.ovf != 0 then (Fmt.f32.inf n, Flags.ovf)
      else if isPow2 m then (flushQuiet nbv r.1, Flags.none)
      else
        let c := (Config.approx 0 nbv (BitVec.ofNat 32 a)).toNat
        (flushQuiet nbv (if rcpOk n m e c then c else r.1), Flags.none)

/-! ### frsq -/

/-- Is y within one ulp of 1/√a, exactly: (y − u)²·a < 1 < (y + u)²·a? -/
def rsqOk (m : Nat) (e : Int) (cand : Nat) : Bool :=
  match Fmt.f32.val cand with
  | .fin k p q =>
    -- 1/√a lies in [2^E, 2^(E+1)): 2^(2E)·a ≤ 1 < 2^(2E+2)·a
    let top : Int := (m.log2 : Int) + e
    let ex : Int := if isPow2 m && top % 2 == 0 then -top / 2 else Int.fdiv (-top - 1) 2
    let u : Int := ex - 23
    let w : Int := -200
    let y : Int := ((p * 2 ^ (q - w).toNat : Nat) : Int)
    let uu : Int := ((2 ^ (u - w).toNat : Nat) : Int)
    -- units of 2^(2w + e) against 1
    let one : Int := ((2 ^ (-(2 * w + e)).toNat : Nat) : Int)
    !k && decide (0 < p) && (decide (y - uu ≤ 0) || decide ((y - uu) * (y - uu) * m < one)) &&
      decide (one < (y + uu) * (y + uu) * m)
  | _ => false

/-- 1/√a rounded to nearest: the square root of 2^x/m. -/
def rsqNearest (m : Nat) (e : Int) : Nat :=
  let odd := e % 2 != 0
  let e' := if odd then e - 1 else e
  let m' := if odd then 2 * m else m
  let q := 2 ^ 200 / m'
  let r := isqrtFrom q 104 0
  (Fmt.f32.round .rne false false (2 * r + (if r * r * m' == 2 ^ 200 then 0 else 1)) (-100 - 1 - e' / 2)).1

def frsq1 (nbv a : Nat) : Nat × Flags :=
  match Fmt.f32.read nbv a with
  | .nan g => nanResult g
  | .inf n => if n then nanResult true else (0, Flags.none)
  | .fin n m e =>
    if m == 0 then (Fmt.f32.inf n, Flags.dz)
    else if n then nanResult true
    else if isPow2 m && ((m.log2 : Int) + e) % 2 == 0 then (rsqNearest m e, Flags.none)
    else
      let c := (Config.approx 1 nbv (BitVec.ofNat 32 a)).toNat
      (if rsqOk m e c then c else rsqNearest m e, Flags.none)

/-! ### fex2 and flg2 -/

def fex21 (nbv a : Nat) : Nat × Flags :=
  match Fmt.f32.read nbv a with
  | .nan g => nanResult g
  | .inf n => (if n then 0 else Fmt.f32.inf false, Flags.none)
  | .fin n m e =>
    if m == 0 then (0x3F800000, Flags.none)
    else
      let big := decide ((8 : Int) < (m.log2 : Int) + e)
      if big && !n then (Fmt.f32.inf false, Flags.ovf)
      else if big then (if nbv == 1 then 0 else (Config.approx 2 nbv (BitVec.ofNat 32 a)).toNat, Flags.none)
      else
        let x := fixOf n m e
        let one : Int := ((2 ^ fixBits : Nat) : Int)
        if 128 * one ≤ x then (Fmt.f32.inf false, Flags.ovf)
        else if nbv == 1 && decide (x < -126 * one) then (0, Flags.none)
        else if x < -149 * one then ((Config.approx 2 nbv (BitVec.ofNat 32 a)).toNat, Flags.none)
        else
          let v : Int := (fixExp2 x : Nat)
          if x % one = 0 then (nearest v, Flags.none)
          else (flushQuiet nbv (approximate 2 nbv a (fun c => within c v (ulpUnits v 2)) v), Flags.none)

def flg21 (nbv a : Nat) : Nat × Flags :=
  match Fmt.f32.read nbv a with
  | .nan g => nanResult g
  | .inf n => if n then nanResult true else (Fmt.f32.inf false, Flags.none)
  | .fin n m e =>
    if m == 0 then (Fmt.f32.inf true, Flags.dz)
    else if n then nanResult true
    else
      let v := fixLog2 m e
      if isPow2 m then (nearest (((m.log2 : Int) + e) * ((2 ^ fixBits : Nat) : Int)), Flags.none)
      else
        let x := fixOf false m e
        let one : Int := ((2 ^ fixBits : Nat) : Int)
        let bound := if one ≤ 2 * x ∧ x ≤ 2 * one then 2 ^ (fixBits - 22) else ulpUnits v 2
        (flushQuiet nbv (approximate 3 nbv a (fun c => within c v bound) v), Flags.none)

/-! ### fsin and fcos -/

/-- The bound of Table 8 for an angle in units and its exact sine or cosine: it holds for the result as written, flushed under
version 1. -/
def trigOk (x v : Int) (cand : Nat) : Bool :=
  if 2 * x.natAbs ≤ fixTwoPi then within cand v (ulpUnits v 2)
  else if x.natAbs ≤ 2 ^ (15 + fixBits) then within cand v (2 ^ (fixBits - 22))
  else within cand v (2 ^ (fixBits - 20)) && inUnit cand

def ftrig1 (cos : Bool) (nbv a : Nat) : Nat × Flags :=
  match Fmt.f32.read nbv a with
  | .nan g => nanResult g
  | .inf _ => nanResult true
  | .fin n m e =>
    if m == 0 then (if cos then 0x3F800000 else Fmt.f32.zero n, Flags.none)
    else
      let x := fixOf n m e
      let v := fixTrig cos x
      (flushQuiet nbv (approximate (if cos then 5 else 4) nbv a (fun c => trigOk x v (flushQuiet nbv c)) v), Flags.none)

end Sys2Proof.Machine
end

