-- ==== Sys2Proof/Machine/FloatOps.lean ====
section
/-! DEFINITION. The meanings of group 1 (R150 to R160). -/

namespace Sys2Proof.Machine

open Sys2Proof

/-- Every operand is one register. -/
def ones1 : Spans := ⟨1, 1, 1, 1⟩

/-- The rounding mode in MOD[1:0] (Table 6). -/
def ROps.rm (o : ROps) : RMode := rmode (o.mod.extractLsb' 0 2)

def execFadd (g : Guard) (o : ROps) (s : State) : Result :=
  fluR g o ones1 (fun nbv a b _ => lift2 o.ty (fadd1 (fmtOf o.ty) (ROps.rm o) nbv) a b) s

def execFsub (g : Guard) (o : ROps) (s : State) : Result :=
  fluR g o ones1 (fun nbv a b _ => lift2 o.ty (fsub1 (fmtOf o.ty) (ROps.rm o) nbv) a b) s

def execFmul (g : Guard) (o : ROps) (s : State) : Result :=
  fluR g o ones1 (fun nbv a b _ => lift2 o.ty (fmul1 (fmtOf o.ty) (ROps.rm o) nbv) a b) s

def execFfma (g : Guard) (o : ROps) (s : State) : Result :=
  fluR g o ones1 (fun nbv a b c => lift3 o.ty (ffma1 (fmtOf o.ty) (ROps.rm o) nbv) a b c) s

def execFmin (g : Guard) (o : ROps) (s : State) : Result :=
  fluR g o ones1 (fun nbv a b _ => lift2 o.ty (fminmax1 false (fmtOf o.ty) nbv) a b) s

def execFmax (g : Guard) (o : ROps) (s : State) : Result :=
  fluR g o ones1 (fun nbv a b _ => lift2 o.ty (fminmax1 true (fmtOf o.ty) nbv) a b) s

def execFrcp (g : Guard) (o : ROps) (s : State) : Result := fluR g o ones1 (fun nbv a _ _ => frcp1 nbv (low 32 a)) s

def execFrsq (g : Guard) (o : ROps) (s : State) : Result := fluR g o ones1 (fun nbv a _ _ => frsq1 nbv (low 32 a)) s

def execFsqrt (g : Guard) (o : ROps) (s : State) : Result :=
  fluR g o ones1 (fun nbv a _ _ => fsqrt1 Fmt.f32 (ROps.rm o) nbv (low 32 a)) s

def execFex2 (g : Guard) (o : ROps) (s : State) : Result := fluR g o ones1 (fun nbv a _ _ => fex21 nbv (low 32 a)) s

def execFlg2 (g : Guard) (o : ROps) (s : State) : Result := fluR g o ones1 (fun nbv a _ _ => flg21 nbv (low 32 a)) s

def execFsin (g : Guard) (o : ROps) (s : State) : Result :=
  fluR g o ones1 (fun nbv a _ _ => ftrig1 false nbv (low 32 a)) s

def execFcos (g : Guard) (o : ROps) (s : State) : Result :=
  fluR g o ones1 (fun nbv a _ _ => ftrig1 true nbv (low 32 a)) s

def execFrnd (g : Guard) (o : ROps) (s : State) : Result :=
  fluR g o ones1 (fun nbv a _ _ => lift1 o.ty (frnd1 (fmtOf o.ty) (ROps.rm o) nbv) a) s

def execFscale (g : Guard) (o : ROps) (s : State) : Result :=
  fluR g o ones1
    (fun nbv a b _ => fscale1 (fmtOf o.ty) (ROps.rm o) nbv (low o.ty.bits a) (signedOf 32 b)) s

/-- a₀·b₀ + a₁·b₁ + c, exact, rounded once to f32 (R155). -/
def fdot2Value (ty : Ty) (r : RMode) (nbv a b c : Nat) : Nat × Flags :=
  let f := fmtOf ty
  let a0 := f.val (low 16 a)
  let a1 := f.val (low 16 (a / 2 ^ 16))
  let b0 := f.val (low 16 b)
  let b1 := f.val (low 16 (b / 2 ^ 16))
  let z := Fmt.f32.read nbv (low 32 c)
  let p := a0.mul b0
  let q := a1.mul b1
  let sig := a0.sig ||| a1.sig ||| b0.sig ||| b1.sig ||| z.sig
  let r := Fmt.f32.sum nbv r (p.isNone || q.isNone) [p.getD (.nan false), q.getD (.nan false), z]
  (r.1, r.2 ||| sig)

def execFdot2 (g : Guard) (o : ROps) (s : State) : Result :=
  fluR g o ones1 (fun nbv a b c => fdot2Value o.ty (ROps.rm o) nbv a b c) s

def execFclass (g : Guard) (o : ROps) (s : State) : Result :=
  aluR g o ones1 (fun a _ _ => fclass1 (fmtOf o.ty) (low o.ty.bits a)) s

/-- `fclass.take`: `%fstat` to every executing lane, and cleared in the same issue; unchanged when no lane executes
(R156). -/
def execFclassTake (g : Guard) (o : ROps) (s : State) : Result :=
  issue g s [(o.d, 1)] (fun _ => true) false fun x =>
    let w := x.w.write o.d 1 (x.ex.map fun i => (i, x.w.fstat.toNat))
    x.next x.s (if x.ex.isEmpty then w else { w with fstat := 0 })

/-- The destination of `cvt` (R157). -/
def cvtDst (o : ROps) : Ty := o.cvtDest.getD .s32

def execCvt (g : Guard) (o : ROps) (s : State) : Result :=
  fluR g o ⟨(cvtDst o).regs, o.ty.regs, 1, 1⟩
    (fun nbv a _ _ =>
      cvtValue o.ty (cvtDst o) (rmode (o.mod.extractLsb' 5 2)) (o.mod.getLsbD 7) (o.mod.getLsbD 8) nbv a) s

def execPack2 (g : Guard) (o : ROps) (s : State) : Result :=
  fluR g o ones1 (fun nbv a b _ =>
    let f := fun x => floatToFloat (fmtOf o.ty) nbv (ROps.rm o) (o.mod.getLsbD 2) (Fmt.f32.read nbv (low 32 x))
    ((f a).1 + 2 ^ 16 * (f b).1, (f a).2 ||| (f b).2)) s

/-- The byte that MOD[1:0] names (R159, R160). -/
def dtByte (o : ROps) : Nat := (o.mod.extractLsb' 0 2).toNat

def execDtdec (g : Guard) (o : ROps) (s : State) : Result :=
  fluR g o ones1 (fun _ a b _ => dtdecValue (low 8 (a / 256 ^ dtByte o)) (low 8 b)) s

def execDtenc (g : Guard) (o : ROps) (s : State) : Result :=
  fluR g o ones1 (fun _ a b c =>
    let q := dtencCode (low 32 a) (low 8 b)
    let j := 256 ^ dtByte o
    (low 32 c - low 8 (c / j) * j + q.1 * j, q.2)) s

end Sys2Proof.Machine
end

