-- ==== Sys2Proof/Machine/Predicate.lean ====
section
/-! DEFINITION. The meanings of group 2: compares and predicates (R122 to R126, R149). -/

namespace Sys2Proof.Machine

open Sys2Proof

def execIcmp (g : Guard) (o : POps) (s : State) : Result :=
  cmpP g o o.ty.regs o.ty.regs
    (fun _ a b => (condition o.cc (orderInt (o.ty.int a) (o.ty.int b)), Flags.none)) s

/-- The condition of `fcmp` and the invalid it raises (R149). -/
def fcmpValue (ty : Ty) (cc : BitVec 4) (nbv a b : Nat) : Bool × Flags :=
  let x := (fmtOf ty).read nbv (low ty.bits a)
  let y := (fmtOf ty).read nbv (low ty.bits b)
  let ordered := decide (2 ≤ cc.toNat) && decide (cc.toNat ≤ 5)
  (condition cc (orderF x y),
    if ordered && (x.isNan || y.isNan) then Flags.nv else x.sig ||| y.sig)

def execFcmp (g : Guard) (o : POps) (s : State) : Result := cmpP g o 1 1 (fcmpValue o.ty o.cc) s

def execPset (g : Guard) (o : PsetOps) (s : State) : Result :=
  issue g s [] (fun _ => true) false fun x =>
    x.next x.s (x.w.modLanes x.ex fun _ l => l.foldPair o.pt o.pf o.cmb (l.table o.tq o.q1 o.q2 o.q3))

def execBtst (g : Guard) (o : POps) (s : State) : Result :=
  cmpP g o o.ty.regs 1 (fun _ a b => (decide (low 32 b < o.ty.bits) && a.testBit (low 32 b), Flags.none)) s

/-- The predicate file as bits 7:0, bit 0 reading 1 (R126). -/
def Lane.predBits (l : Lane) : Nat := (l.p ||| 1).toNat

def execPmovToReg (g : Guard) (o : ROps) (s : State) : Result := predR g o ⟨1, 1, 1, 1⟩ (fun l _ _ => l.predBits) s

def execPmovToPred (g : Guard) (o : ROps) (s : State) : Result :=
  issue g s (o.regUses ⟨1, 1, 1, 1⟩) (fun _ => true) false fun x =>
    let m := o.mod.extractLsb' 8 8
    x.next x.s (x.w.modLanes x.ex fun i l =>
      { l with p := (l.p &&& ~~~m) ||| ((x.word i o.a).extractLsb' 0 8 &&& m) })

end Sys2Proof.Machine
end

