-- ==== Sys2Proof/Machine/Control.lean ====
section
/-! DEFINITION. The meanings of group 4 that move lanes within their warp (R93 to R109), `wait` (R197 to R199), `rgn`
(R244), `ppoint` (R402) and `trap` (R410). -/

namespace Sys2Proof.Machine

open Sys2Proof

/-! ### Transfers (R34, R95) -/

/-- PC + sign_extend(DISP32), modulo 2^57. -/
def Iss.relative (x : Iss) (disp : BitVec 32) : VAddr := x.pc + disp.signExtend 57

/-- May a lane be transferred to the 64-bit address (R95)? -/
def targetOk (t : Nat) : Bool := decide (t < 2 ^ 57) && validPc (BitVec.ofNat 57 t)

/-- A checked transfer (R95): `ts` gives each transferred lane its target as a 64-bit address, `fall` the lanes that go
on in sequential flow. The first target that is not a valid PC traps bad-target, in the state `w` left by the
instruction. A lane that arrives at its target has its mark to be checked when the slot issues; a lane that a loop takes
back has not (R101). The turn stays with the path of lane `lead` (R85). -/
def Iss.transfer (x : Iss) (w : Warp) (ts : List (Nat × Nat)) (fall : List Nat) (lead : Nat) : State :=
  match ts.find? fun t => !targetOk t.2 with
  | some t =>
    { (x.s.setWarp w).takeTrap (x.trapRec 0x03 t.2 t.1) with issues := x.s.issues + 1 }
  | none =>
    let w := w.move fall (nextPc x.pc)
    let w := w.modLanes (ts.map fun t => t.1) fun i l =>
      match ts.find? fun t => t.1 == i with
      | some t => l.arrive (BitVec.ofNat 57 t.2)
      | none => l
    let chk := (ts.filter fun t => (w.lane t.1).pc == BitVec.ofNat 57 t.2).map fun t => (t.1, BitVec.ofNat 57 t.2, x.pc.toNat)
    (x.settle x.s w lead).modWarp x.w.core x.w.slot fun w => { w with chk := w.chk ++ chk }

/-- Active lanes whose guard is false (R94). -/
def Iss.idle (x : Iss) : List Nat := x.act.filter fun i => !x.ex.contains i

def execBra (g : Guard) (o : COps) (s : State) : Result :=
  issue g s [] (fun _ => true) false fun x =>
    x.transfer x.w (x.ex.map fun i => (i, (x.relative o.disp).toNat)) x.idle x.lead

/-- Entry `i` of the table of an indexed branch (R97). -/
def Iss.tableEntry (x : Iss) (o : COps) (i : Nat) : VAddr := x.relative o.disp + BitVec.ofNat 57 (64 * i)

def execBrx (g : Guard) (o : COps) (s : State) : Result :=
  issue g s [(o.a, 1)] (fun _ => true) false fun x =>
    let n := (o.mod.extractLsb' 0 13).toNat
    let inside := x.ex.filter fun i => x.read i o.a 1 < n
    x.transfer x.w (inside.map fun i => (i, (x.tableEntry o (x.read i o.a 1)).toNat))
      (x.act.filter fun i => !inside.contains i) x.lead

def execCall (g : Guard) (o : COps) (s : State) : Result :=
  issue g s [(o.a, 2)] (fun _ => true) false fun x =>
    x.transfer (x.w.write o.a 2 (x.ex.map fun i => (i, (nextPc x.pc).toNat)))
      (x.ex.map fun i => (i, (x.relative o.disp).toNat)) x.idle x.lead

def execRet (g : Guard) (o : COps) (s : State) : Result :=
  issue g s [(o.a, 2)] (fun _ => true) false fun x =>
    x.transfer x.w (x.ex.map fun i => (i, x.read i o.a 2)) x.idle x.lead

/-! ### Hardware loops (R99 to R102) -/

/-- A `loop` of count `c` on a lane, with its end `e` (R100). -/
def Lane.pushLoop (l : Lane) (start e : VAddr) (c : Nat) : Lane :=
  if c == 0 || e == start then l.arrive e
  else { l with pc := start, frames := { start := start, fin := e, remaining := BitVec.ofNat 32 c } :: l.frames }

def execLoop (g : Guard) (o : COps) (s : State) : Result :=
  issue g s [(o.a, 1)] (fun x => validPc (x.relative o.disp)) false fun x =>
    let start := nextPc x.pc
    let e := x.relative o.disp
    match x.ex.find? fun i => x.read i o.a 1 != 0 && e != start && (x.lane i).frames.length == 4 with
    | some i => x.trapLane 0x0C i 0
    | none =>
      let w := x.w.move x.idle start
      x.settle x.s (w.modLanes x.ex fun i l => l.pushLoop start e (x.read i o.a 1)) (x.act.headD 0)

def execLoopExit (g : Guard) (o : COps) (s : State) : Result :=
  issue g s [] (fun _ => true) false fun x =>
    x.transfer (x.w.modLanes x.ex fun _ l => { l with frames := l.frames.tail })
      (x.ex.map fun i => (i, (x.relative o.disp).toNat)) x.idle x.lead

/-! ### Convergence barriers (R104) -/

/-- Release a waiting lane to the slot after its instruction (R104, R370, R372), by arrival (R101). -/
def Lane.release (l : Lane) : Lane := { l.arrive (nextPc l.pc) with status := .runnable }

/-- The test of a convergence barrier after a change (R104). -/
def Warp.joinTest (w : Warp) (b : Nat) : Warp :=
  let m := w.cb.getD b (0, 0)
  if m.1 != 0 && m.2 == m.1 then
    { w with cb := setAt w.cb b (0, 0), lanes := w.lanes.mapIdx fun i l => if m.2.getLsbD i then l.release else l }
  else w

/-- Lanes leave a convergence barrier, which is then tested (R104). -/
def Warp.joinDrop (w : Warp) (is : List Nat) (b : Nat) : Warp :=
  let m := w.cb.getD b (0, 0)
  let k := ~~~(maskOf is)
  Warp.joinTest { w with cb := setAt w.cb b (m.1 &&& k, m.2 &&& k) } b

def execJoinEnrol (g : Guard) (o : COps) (s : State) : Result :=
  issue g s [] (fun _ => true) false fun x =>
    let m := x.w.cb.getD o.cb.toNat (0, 0)
    let w := { x.w with cb := setAt x.w.cb o.cb.toNat (m.1 ||| maskOf x.ex, m.2) }
    x.next x.s (w.joinTest o.cb.toNat)

/-- Has a thread a load, an atomic or an `ldc` whose data has not been written? -/
def State.loading (s : State) (uid : Nat) : Bool := s.reqs.any fun r => r.uid == uid && r.writesReg

/-- `join.wait`: an enrolled lane arrives once its loads have returned (R104, R445; assumption 7). -/
def execJoinWait (g : Guard) (o : COps) (s : State) : Result :=
  issue g s [] (fun _ => true) false fun x =>
    let b := o.cb.toNat
    let m := x.w.cb.getD b (0, 0)
    let arr := x.ex.filter fun i => m.1.getLsbD i
    if arr.any fun i => x.s.loading (x.lane i).uid then x.hold
    else
      let stay := x.act.filter fun i => !arr.contains i
      let w := x.w.move stay (nextPc x.pc)
      let w := w.modLanes arr fun _ l => { l with status := .waiting (.join b) }
      let w := Warp.joinTest { w with cb := setAt w.cb b (m.1, m.2 ||| maskOf arr) } b
      match stay with
      | [] => x.checkStray (x.settleEnd x.s w x.lead)
      | i :: _ => x.checkStray (x.settle x.s w i)

def execJoinLeave (g : Guard) (o : COps) (s : State) : Result :=
  issue g s [] (fun _ => true) false fun x =>
    let w := x.w.move x.act (nextPc x.pc)
    x.settle x.s (w.joinDrop x.ex o.cb.toNat) (x.act.headD 0)

/-! ### Turns (R106 to R108) -/

def execYield (g : Guard) (_o : COps) (s : State) : Result :=
  issue g s [] (fun _ => true) false fun x =>
    if x.ex.isEmpty then x.next x.s x.w
    else x.settleEnd x.s (x.w.move x.act (nextPc x.pc)) (x.act.headD 0)

/-- The number of core cycles of a `snooze` (R107). -/
def Iss.snoozeCycles (x : Iss) (a : Sel) : Nat := min ((x.ex.map fun i => x.read i a 1).foldl max 0) 65535

def execSnooze (g : Guard) (o : ROps) (s : State) : Result :=
  issue g s [(o.a, 1)] (fun _ => true) false fun x =>
    if x.ex.isEmpty then x.next x.s x.w
    else
      let d := x.snoozeCycles o.a
      if d == 0 then x.settleEnd x.s (x.w.move x.act (nextPc x.pc)) (x.act.headD 0)
      else
        let w := x.w.move x.idle (nextPc x.pc)
        let w := w.modLanes x.ex fun _ l => { l with status := .waiting (.snooze (x.s.cycle + d)) }
        x.settleEnd x.s w ((x.idle ++ x.act).headD 0)

def execNop (g : Guard) (_o : ROps) (s : State) : Result :=
  issue g s [] (fun _ => true) false fun x => x.next x.s x.w

/-! ### brk (R109) -/

/-- Halt every other warp of the context that is not halted, at its next instruction boundary: an instruction that has begun
still completes (`State.mayIssue`). DESIGN CHOICE (assumption 79): a warp that is formed later, by the sorter, by a launch or for a
handler, is not halted. -/
def State.haltAll (s : State) (ctx : Nat) : State :=
  s.modWarps fun w => if w.ctx == ctx && !w.brk then { w with brk := true, brkAt := s.cycle } else w

/-- The traps of warps that a breakpoint halts while a lane that a held path of theirs awaits has resumed elsewhere (R247). -/
def State.haltStrays (s : State) (ws : List Warp) : State :=
  ws.foldl (fun s w => match w.haltStray with
    | some h => s.strayOf w h
    | none => s) s

/-- The warps that a `brk` of the issuing warp halts: its own, and with HALTALL those of its context that are not halted (R109). -/
def Iss.brkHalts (x : Iss) : List Warp :=
  x.w :: (if x.s.sys.dbgctl.getLsbD 1 then
    x.s.warps.filter fun w => w.ctx == x.w.ctx && !w.brk && !(w.core == x.w.core && w.slot == x.w.slot) else [])

def execBrk (g : Guard) (o : COps) (s : State) : Result :=
  issue g s [] (fun _ => true) false fun x =>
    if x.ex.isEmpty || !x.s.sys.dbgctl.getLsbD 0 then x.next x.s x.w
    else
      let rec_ := x.trapRec 0x0A (o.mod.extractLsb' 0 8).toNat x.lead
      let s' := (x.next x.s x.w).modWarp x.w.core x.w.slot fun w => { w with brk := true, brkAt := x.s.cycle }
      let s' := if x.s.sys.dbgctl.getLsbD 1 then s'.haltAll x.w.ctx else s'
      (s'.postTrap rec_).haltStrays x.brkHalts

/-! ### wait (R198) -/

/-- The value of one of the four counters (R192): the unretired instructions of its class. -/
def Warp.count (w : Warp) (c : OpClass) : Nat := (w.ops.filter fun (o : OutOp) => o.cls == c).length

/-- Does a counter of the warp exceed the limit that a `wait` gives it (R198)? -/
def Warp.waits (w : Warp) (o : WOps) : Bool :=
  !(decide (w.count .ld ≤ o.nld.toNat) && decide (w.count .st ≤ o.nst.toNat) && decide (w.count .cp ≤ o.ncp.toNat) &&
    decide (w.count .mx ≤ o.nmx.toNat))

def execWait (g : Guard) (o : WOps) (s : State) : Result :=
  issue g s [] (fun _ => true) false fun x =>
    if x.ex.isEmpty || !x.w.waits o then x.next x.s x.w else x.hold

/-! ### rgn (R244), ppoint (R402), trap (R410) -/

def execRgn (g : Guard) (_o : COps) (s : State) : Result :=
  issue g s [] (fun _ => true) false fun x =>
    x.next x.s (x.w.modLanes x.ex fun _ l =>
      { l with rpc := nextPc x.pc, rsnap := l.frames, rcnt := l.rcnt + 1 })

/-- Is a soft pre-emption request pending for the context (R402)? -/
def State.softPending (s : State) (ctx : Nat) : Bool :=
  match s.preempt with
  | some p => p.ctx == ctx && !p.hard && !p.saving
  | none => false

def execPpoint (g : Guard) (o : PpointOps) (s : State) : Result :=
  issue g s [] (fun _ => true) false fun x =>
    if x.ex.isEmpty || !x.s.softPending x.w.ctx then x.next x.s x.w
    else
      (x.next x.s (x.w.modLanes x.ex fun _ l => { l with atPpoint := true })).modWarp x.w.core x.w.slot fun w =>
        { w with stopped := some (o.accm, o.prsm, o.plm) }

def execTrap (g : Guard) (o : ROps) (s : State) : Result :=
  issue g s [] (fun _ => true) false fun x =>
    if x.ex.isEmpty then x.next x.s x.w
    else
      State.modLaunch (x.trap 0x0B) x.w.ctx fun (l : Launch) =>
        { l with dtrap := setByte l.dtrap 0 (o.mod.extractLsb' 0 8).toNat }

end Sys2Proof.Machine
end

