-- ==== Sys2Proof/Machine/MemoryAccess.lean ====
section
/-! DEFINITION. Memory access: `ld`, `st`, `atom`, `red`, `ldc`, `pref` (R168 to R191), the counters and their retirement
(R192 to R196), miss-status entries (R200 to R203), the mend log (R248, R249), leases and write completion times (R262 to
R268), `fence` (R269 to R273), and the events that carry a request to its home and back. -/

namespace Sys2Proof.Machine

open Sys2Proof

/-! ### Threads wherever they are -/

/-- Apply a function to the thread `uid`, in a warp or in the sorter. -/
def State.modThread (s : State) (uid : Nat) (f : Lane → Lane) : State :=
  { s with
    warps := s.warps.map fun w =>
      { w with lanes := w.lanes.map fun l => if l.uid == uid && l.status != .departed then f l else l },
    clusters := s.clusters.map fun c => { c with domain := c.domain.map fun d =>
      { d with threads := d.threads.map fun b => if b.lane.uid == uid then { b with lane := f b.lane } else b } } }

/-- Does a warp or the sorter still hold the thread? -/
def State.hasThread (s : State) (uid : Nat) : Bool :=
  (s.warps.any fun w => w.lanes.any fun l => l.uid == uid && l.status != .departed) ||
    s.clusters.any fun c => match c.domain with
      | some d => d.threads.any fun b => b.lane.uid == uid
      | none => false

/-- The thread whose records lie in a spill unit: the table-space offset of its header (R344). -/
def State.spilledAt (s : State) (uid : Nat) : Option Nat :=
  s.clusters.findSome? fun c => c.domain.bind fun d => d.threads.findSome? fun b =>
    match b.place with
    | .spill u r => if b.lane.uid == uid then some (d.spill + 4096 * u + 64 * r) else none
    | .sram => none

/-- What comes back for a thread whose records are spilled is folded into the header there: VIS, MC and PW (R347, R355). -/
def State.foldHeader (s : State) (uid w pw mc : Nat) : State :=
  match s.spilledAt uid with
  | none => s
  | some o =>
    let f := fun (k n : Nat) => bytesToNat (s.tsGet (o + k) n)
    (s.tsPut (o + 0x10) (natToBytes 8 (max (f 0x10 8) w))).tsPut (o + 0x24)
      (natToBytes 2 (f 0x24 2 - mc) ++ natToBytes 2 (f 0x26 2 - pw))

/-- Fold a write completion time into a thread's VIS (R267), or, for a thread whose warp has left its slot, into the
largest VIS of its cluster (R394); PW and MC fall as given. -/
def State.foldW (s : State) (ctx cluster uid w pw mc : Nat) : State :=
  if s.hasThread uid then
    (s.foldHeader uid w pw mc).modThread uid fun l => { l with vis := max l.vis w, pw := l.pw - pw, mc := l.mc - mc }
  else s.modCluster ctx cluster fun c => { c with visMax := max c.visMax w }

/-! ### Retirement of counted instructions (R192, R193) -/

/-- The operations that retire now, in order, and those that stay: one retires when it is complete and every older
operation of its class has retired. -/
def splitRetired : List OpClass → List OutOp → List OutOp × List OutOp
  | _, [] => ([], [])
  | b, o :: os =>
    if o.left == 0 && !b.contains o.cls then
      let r := splitRetired b os
      (o :: r.1, r.2)
    else
      let r := splitRetired (o.cls :: b) os
      (r.1, o :: r.2)

/-- What the retirement of one operation does: `%cpstat` takes its status; its write completion time enters the VIS of
the lanes it names (Table 2 of 11_visibility); with TRAP and an error it raises engine-error (R327), which finds no context to halt
where the launch of the warp is gone (assumption 63). -/
def State.retireOp (s : State) (w : Warp) (o : OutOp) : State :=
  let s := match o.cpstat with
    | some v => s.modWarp w.core w.slot fun w => { w with cpstat := v }
    | none => s
  let s := o.uids.foldl (fun s u => s.foldW w.ctx w.cluster u o.w 0 0) s
  match o.trapAddr with
  | some a =>
    let r := (s.record w.ctx 3 0 0x12 w.core w.slot ((lanesOf o.mask).headD 0) o.pc.toNat a o.mask).stamp w.cluster
    if goneCluster ≤ w.cluster then s.postTrap r else s.takeTrap r
  | none => s

/-- Has every lane of the warp exited or departed, with all its counters zero (R80)? -/
def Warp.finished (w : Warp) : Bool :=
  w.ops.isEmpty && w.lanes.all fun l => l.status == .exited || l.status == .departed

/-- Release the slot of a finished warp (R80); its threads' VIS stay with their cluster. -/
def State.reap (s : State) (core slot : Nat) : State :=
  match s.warp? core slot with
  | none => s
  | some w =>
    if w.finished then
      let v := (w.lanes.filter fun l => l.status == .exited).foldl (fun m l => max m l.vis) 0
      let s := s.modCluster w.ctx w.cluster fun c => { c with visMax := max c.visMax v }
      { s with warps := s.warps.filter fun x => !(x.core == core && x.slot == slot) }
    else s

/-- Retire what can retire in a warp, and release its slot if that leaves it finished. -/
def State.retire (s : State) (core slot : Nat) : State :=
  match s.warp? core slot with
  | none => s
  | some w =>
    let r := splitRetired [] w.ops
    let s := s.modWarp core slot fun w => { w with ops := r.2 }
    State.reap (r.1.foldl (fun s o => s.retireOp w o) s) core slot

/-- `n` parts of an operation are complete. -/
def State.completeParts (s : State) (core slot op n : Nat) : State :=
  State.retire (s.modWarp core slot fun w =>
    { w with ops := w.ops.map fun o => if o.id == op then { o with left := o.left - n } else o }) core slot

/-! ### Resolution (R171, Table 3) -/

inductive Space where
  | sram (off : Nat)
  | global (ea : Nat)
  | bad
  deriving DecidableEq, Repr

/-- The exact address of a lane (R171). -/
def Iss.ea (x : Iss) (i : Nat) (o : MOps) : Int :=
  (x.read i o.a (if o.sp == 1 then 1 else 2) : Nat) + signedOf 32 (x.read i o.x 1) * (2 ^ o.xs.toNat : Nat) + o.off.toInt

/-- `%bid` of a lane's thread (R378). -/
def Iss.bidOf (x : Iss) (i : Nat) : Nat := if x.w.kind == .handler then 0xFFFFFFFF else (x.lane i).bid

/-- Bytes of block SRAM that a lane can address; none in a handler thread (R378; assumption 8). -/
def Iss.sramSize (x : Iss) (i : Nat) : Nat :=
  match x.block? i with
  | some b => b.size
  | none => 0

/-- The lane's own block SRAM at a signed offset, if it covers the access. -/
def Iss.ownSram (x : Iss) (i : Nat) (off : Int) (size : Nat) : Space :=
  if 0 ≤ off ∧ off + size ≤ (x.sramSize i : Int) then .sram off.toNat else .bad

/-- Resolution of an address under Table 3. -/
def Iss.resolve (x : Iss) (i : Nat) (sp : Nat) (ea : Int) (size : Nat) : Space :=
  let bs : Int := (fieldAt (x.s.bank x.w.ctx).bsbase 56 19 : Nat)
  if sp == 1 then x.ownSram i ea size
  else if ea < 0 ∨ (2 ^ 57 : Int) ≤ ea then .bad
  else if bs ≤ ea ∧ ea < bs + 0x80000 then (if sp == 0 then x.ownSram i (ea - bs) size else .bad)
  else .global ea.toNat

/-- One part of a lane's access: its address (in its space), its offset in the access, its bytes, and its outcome. -/
structure Part where
  va : Nat
  at_ : Nat
  size : Nat
  out : Xlat
  deriving DecidableEq, Repr

/-- The parts of an access, one per 128-byte line (R172). -/
def splitLine (a size : Nat) : List (Nat × Nat × Nat) :=
  if a % 128 + size ≤ 128 then [(a, 0, size)]
  else [(a, 0, 128 - a % 128), (a + (128 - a % 128), 128 - a % 128, size - (128 - a % 128))]

/-- A lane's access as judged at issue: its parts, or the trap it raises (R466). -/
structure LanePlan where
  lane : Nat
  ea : Nat
  trap : Option Nat
  parts : List Part
  deriving DecidableEq, Repr

/-- Judge one lane's access (R466): resolution, alignment where asked, then the trapping outcomes of translation.
The address alone is resolved: later bytes past the space's end or in the block window are judged as global (assumption 75); the
address a trap records is the sum modulo 2^57 (assumption 76). -/
def Iss.plan (x : Iss) (i : Nat) (o : MOps) (size : Nat) (aligned write : Bool) : LanePlan :=
  let ea := x.ea i o
  let a := (ea % (2 ^ 57 : Nat)).toNat
  match x.resolve i o.sp.toNat ea size with
  | .bad => { lane := i, ea := a, trap := some 0x07, parts := [] }
  | .sram off =>
    if aligned && ea % (size : Int) != 0 then { lane := i, ea := a, trap := some 0x06, parts := [] }
    else
      { lane := i, ea := a, trap := none, parts := (splitLine off size).map fun p =>
          { va := p.1, at_ := p.2.1, size := p.2.2,
            out := .ok { tgt := .sram x.w.ctx x.w.cluster (x.lane i).bid p.1, hc := 3, tag := 0, sealed := false,
                         tlb := none } } }
  | .global g =>
    if aligned && g % size != 0 then { lane := i, ea := a, trap := some 0x06, parts := [] }
    else
      let parts := (splitLine g size).map fun p =>
        ({ va := p.1, at_ := p.2.1, size := p.2.2,
           out := if p.1 < 2 ^ 57 then x.s.translate x.who p.1 write else .violation } : Part)
      { lane := i, ea := a, trap := if parts.any fun p => p.out == .violation then some 0x07 else none, parts := parts }

/-- Does the part meet a translation fault? -/
def Part.faults (p : Part) : Bool :=
  match p.out with
  | .fault _ => true
  | _ => false

/-! ### Miss-status entries (R200 to R203) -/

/-- The 128-byte line a part lies in, as a key. -/
def Target.key : Target → Target
  | .sram c k b o => .sram c k b (o / 128)
  | .frame c k o => .frame c k (o / 128)
  | .line d => .line (d / 128)
  | .mx c k b o => .mx c k b (o / 128)

/-- Does the target lie in block SRAM? -/
def Target.isSram : Target → Bool
  | .sram _ _ _ _ => true
  | _ => false

/-- The core that holds a core-pinned frame or a block's SRAM; none for a line of a slice. -/
def State.targetCore (s : State) (t : Target) : Option Nat :=
  match t with
  | .sram ctx k bid _ => (s.block? ctx k bid).map fun b => b.home
  | .frame ctx k key =>
    match s.cluster? ctx k, s.launch? ctx with
    | some c, some l => some ((c.cores l).getD (key / 65536 / 6) 0)
    | _, _ => none
  | .line _ => none
  | .mx ctx k bid _ => (s.block? ctx k bid).map fun b => b.home

/-- Entries of a core in use: its fills, and the line requests of its instructions whose data or write completion time has not
come back (R200). DESIGN CHOICE (assumption 80): an atomic keeps its entry until both are back. -/
def State.entriesUsed (s : State) (core : Nat) : Nat :=
  (s.fills.filter fun f => f.core == core).length +
    ((s.reqs.filter fun r => r.core == core && r.mse && !(r.kind == .load && r.got.isSome)).map fun r =>
      (r.op, r.tgt.key)).dedup.length

/-- Entries of a core that a warp may take: while entries are reserved for another warp, only those left free when the
reservation began (R203). -/
def State.entriesFor (s : State) (core slot : Nat) : Nat :=
  let free := 4096 - s.entriesUsed core
  match s.reserved.find? fun r => r.1 == core with
  | some r => if r.2.1 == slot then free else min free r.2.2
  | none => free

/-- Account for `n` entries about to be taken by an issue: a reservation for the warp ends with the issue of an instruction whose
age is 64 (`aged`); what else the warp takes comes of the entries reserved for it while they last, then of the spare ones; another
warp takes spare ones. -/
def State.takeEntries (s : State) (core slot n : Nat) (aged : Bool) : State :=
  { s with reserved := s.reserved.filterMap fun r =>
      if r.1 != core then some r
      else if r.2.1 == slot then (if aged then none else some (r.1, r.2.1, min r.2.2 (4096 - s.entriesUsed core - n)))
      else some (r.1, r.2.1, r.2.2 - n) }

/-- Rejections of the next instruction of a path (R202). -/
def Warp.ageOf (w : Warp) (pc : VAddr) : Nat :=
  match w.ages.find? fun a => a.1 == pc with
  | some a => a.2
  | none => 0

/-- An issue rejected for want of entries (R202): its age rises by one, to 64 at most. -/
def Iss.reject (x : Iss) : State :=
  x.s.modWarp x.w.core x.w.slot fun w =>
    { w with ages := (w.ages.filter fun a => a.1 != x.pc) ++ [(x.pc, min 64 (w.ageOf x.pc + 1))] }

/-! ### The L1 (R168, R169, R262, R264) -/

/-- The valid copy of a line in a core's L1. -/
def State.copy? (s : State) (core line : Nat) : Option Copy :=
  s.copies.find? fun c => c.core == core && c.line == line && decide (s.coreGt core < c.expiry)

/-- Drop a line from a core's L1; a fill of it still outstanding is not installed (R169). -/
def State.dropCopy (s : State) (core line : Nat) : State :=
  { s with copies := s.copies.filter fun c => !(c.core == core && c.line == line),
           fills := s.fills.map fun f => if f.core == core && f.line == line then { f with drop := true } else f }

/-- A store updates a copy of its core in place (R169). -/
def State.storeCopy (s : State) (core dev : Nat) (bs : List Byte) : State :=
  { s with
    copies := s.copies.map fun c =>
      if c.core == core && c.line == dev / 128 then { c with data := overlayAt c.data (dev % 128) bs } else c }

/-- The outstanding fill that a load of the line joins (R201). -/
def State.fillFor (s : State) (core line : Nat) : Option Fill :=
  s.fills.find? fun f => f.core == core && f.line == line && !f.drop && f.toL1

/-- Does a thread that came from another core still settle its loads (R268)? -/
def settling (s : State) (core : Nat) (l : Lane) : Bool := l.dgt != 0 && decide (s.coreGt core ≤ l.dgt + 4098)

/-! ### Requests on their way (R261 to R263) -/

/-- Is a write still to be performed? -/
def Req.unperformed (r : Req) : Bool := (r.kind == ReqKind.store || r.kind == ReqKind.atom || r.kind == ReqKind.red) && r.w.isNone

/-- Has a request still to read or write its home? -/
def Req.pending (r : Req) : Bool := r.unperformed || (r.kind == .load && r.got.isNone)

/-- Where a request's home is now (R227). -/
def State.reqTarget (s : State) (r : Req) : Target :=
  match r.tgt with
  | .line d => .line (s.forward r.ctx r.va d)
  | t => t

/-- Do two byte ranges at targets overlap? -/
def Target.overlap (a : Target) (na : Nat) (b : Target) (nb : Nat) : Bool :=
  match a, b with
  | .sram c k bl o, .sram c' k' bl' o' => c == c' && k == k' && bl == bl' && decide (o < o' + nb) && decide (o' < o + na)
  | .frame c k o, .frame c' k' o' => c == c' && k == k' && decide (o < o' + nb) && decide (o' < o + na)
  | .line d, .line d' => decide (d < d' + nb) && decide (d' < d + na)
  | .mx c k bl o, .mx c' k' bl' o' => c == c' && k == k' && bl == bl' && decide (o < o' + nb) && decide (o' < o + na)
  | _, _ => false

/-- Do two requests touch a byte in common, where their homes are now? -/
def State.meet (s : State) (q r : Req) : Bool := (s.reqTarget q).overlap q.size (s.reqTarget r) r.size

/-- A load of the thread has read bytes of a target from an L1 copy of the core: from now on its accesses stand behind the
stores that the copy shows and that are still to be performed, their numbers above `lo` and below `upto` (R262). -/
def State.see (s : State) (core uid : Nat) (t : Target) (n lo upto : Nat) : State :=
  { s with reqs := s.reqs.map fun q =>
      if q.core == core && q.kind == .store && q.unperformed && q.uid != uid && decide (lo < q.id) && decide (q.id < upto) &&
          (s.reqTarget q).overlap q.size t n && !q.seen.contains uid then { q with seen := q.seen ++ [uid] } else q }

/-- The bytes of a thread's L1 hits older than `upto` that touch a range are settled: a later access of the thread has gone
by (R262, R263). -/
def State.settleHits (s : State) (uid : Nat) (t : Target) (n upto : Nat) : State :=
  { s with reqs := s.reqs.map fun q =>
      if q.uid == uid && q.live && decide (q.id < upto) && (s.reqTarget q).overlap q.size t n then { q with live := false } else q }

/-- Must a load of the thread in lane `i` pass by the L1 although its LC is 0: it settles after a move (R268), an access to the
line that it issued from another core is under way, or an older load of it that bypasses the L1 still reads the line (R262)? -/
def Iss.passes (x : Iss) (i : Nat) (t : Target) : Bool :=
  settling x.s x.w.core (x.lane i) || x.s.reqs.any fun q =>
    q.uid == (x.lane i).uid && q.pending && q.tgt.key == t.key &&
      (q.core != x.w.core || (q.kind == .load && q.fill.isNone))

/-! ### Ordering conditions (R249, R270 to R273) -/

/-- Has a thread an acquire whose value is still to come (R272, R273)? -/
def State.acquiring (s : State) (uid : Nat) : Bool :=
  s.reqs.any fun r => r.uid == uid && r.writesReg && (r.lc == 2 || (r.kind == ReqKind.atom && r.lc == 3))

/-- Does a mend-log entry of the thread hold a write to a core-pinned frame that the scope orders (R270)? -/
def Iss.mendFrame (x : Iss) (uid scope : Nat) (home : Nat) : Bool :=
  x.s.mends.any fun m => m.uid == uid &&
    (match x.s.translate x.who m.va true with
     | .ok q => (match q.tgt with
       | .frame _ _ _ => scope == 1 || x.s.targetCore q.tgt == some home
       | _ => false)
     | _ => false)

/-- The conditions of `fence` at a scope, for a lane (R270): 0 core, 1 cluster, 2 device, 3 system. -/
def Iss.fenceOk (x : Iss) (scope i : Nat) : Bool :=
  let l := x.lane i
  let home := x.homeOf i
  let loadsDone := !(x.w.ops.any fun (o : OutOp) => o.cls == .ld && o.left != 0 && o.mask.getLsbD i)
  if scope ≤ 1 then
    loadsDone && !(x.s.reqs.any fun r => r.uid == l.uid && r.unperformed &&
      (match r.tgt with
       | .sram _ _ _ _ => true
       | .frame _ _ _ => scope == 1 || x.s.targetCore r.tgt == some home
       | _ => false)) && !x.mendFrame l.uid scope home
  else
    loadsDone && l.pw == 0 && l.mc == 0 && decide (l.vis < x.s.coreGt x.w.core) &&
      (scope == 2 || !(x.s.outside.unacked.any fun u => u.1 == l.uid && decide (x.s.gt < u.2)))

/-- The executing lanes all meet the conditions of a scope. -/
def Iss.fenced (x : Iss) (scope : Nat) : Bool := x.ex.all fun i => x.fenceOk scope i

/-- The path is held until the conditions hold; the hold is marked for the event that ends it (R270). -/
def Iss.holdFence (x : Iss) (scope : Nat) (moves : Bool) : State :=
  x.s.modWarp x.w.core x.w.slot fun w => w.setHold x.pc (.fence scope (maskOf x.act) (maskOf x.ex) moves)

def execFence (g : Guard) (o : ROps) (s : State) : Result :=
  issue g s [] (fun _ => true) false fun x =>
    if x.ex.isEmpty || x.fenced (o.mod.extractLsb' 0 2).toNat then x.next x.s x.w
    else x.holdFence (o.mod.extractLsb' 0 2).toNat true

/-- The hold of a release at its issue (R273), and of a scope's release event (R274). -/
def Iss.released (x : Iss) (scope : Nat) (k : State) : State :=
  if x.ex.isEmpty || x.fenced scope then k else x.holdFence scope false

/-- The hold of a memory access behind an acquire of an executing lane (R272). -/
def Iss.afterAcquire (x : Iss) (k : State) : State :=
  if x.ex.any fun i => x.s.acquiring (x.lane i).uid then x.hold else k

/-! ### Issuing an access -/

/-- Does the core's mend log hold an entry for the 64 KiB unit (R249)? -/
def State.logged (s : State) (core ctx va : Nat) : Bool :=
  s.mends.any fun m => m.core == core && m.ctx == ctx && m.va / 65536 == va / 65536

/-- Has the thread an entry for the 64 KiB unit? -/
def State.ownLogged (s : State) (uid ctx va : Nat) : Bool :=
  s.mends.any fun m => m.uid == uid && m.ctx == ctx && m.va / 65536 == va / 65536

/-- Has a thread that has moved an entry for the 64 KiB unit in the log of another core than `core`? A store of it to the unit waits at
issue, so that its stores to one location stay in program order (R249, R263; assumption 82). -/
def State.movedLogged (s : State) (uid core ctx va : Nat) : Bool :=
  s.mends.any fun m => m.uid == uid && m.core != core && m.ctx == ctx && m.va / 65536 == va / 65536

/-- Must an access of a thread wait for an entry of its own (R249)? -/
def State.waitsForLog (s : State) (kind : ReqKind) (uid core ctx va : Nat) : Bool :=
  if kind == .load || kind == .atom then s.ownLogged uid ctx va else s.movedLogged uid core ctx va

/-- How a load uses the L1 (Table 2 of 07_core_memory). -/
inductive L1Use where
  | hit (c : Copy)
  | join (f : Fill)
  | fill
  | bypass
  | none
  deriving DecidableEq, Repr

/-- The L1 use of one part of a load. -/
def State.l1Use (s : State) (core : Nat) (lc : BitVec 2) (settle : Bool) (m : Mapped) : L1Use :=
  match m.tgt with
  | .line d =>
    if m.hc == 1 then .none
    else if lc != 0 || settle then .bypass
    else
      match s.copy? core (d / 128) with
      | some c => .hit c
      | Option.none =>
        match s.fillFor core (d / 128) with
        | some f => .join f
        | Option.none => .fill
  | _ => .none

/-- What is gathered while the lanes of an access issue in ascending order. -/
structure MemAcc where
  s : State
  recs : List FaultRec
  parked : List Nat
  n : Nat
  deriving DecidableEq, Repr

/-- A request of a lane's part, before its kind fills it in. -/
def Iss.newReq (x : Iss) (s : State) (op i : Nat) (o : MOps) (kind : ReqKind) (p : Part) (m : Mapped) (data : List Byte)
    (dest : Sel) : Req :=
  { id := s.nextId, op := op, core := x.w.core, slot := x.w.slot, form := x.w.form, ctx := x.w.ctx,
    cluster := x.w.cluster, bid := x.bidOf i,
    uid := (x.lane i).uid, lane := i, kind := kind, ty := o.ty, lc := o.lc, aop := o.aop, tgt := m.tgt, va := p.va,
    size := p.size, at_ := p.at_, data := data, dest := dest, mse := false, fill := none, got := none, w := none,
    hc := m.hc, tag := m.tag, sealed := m.sealed, nbv := x.s.nbv, meas := x.l.slotNo, poison := false, backD := false,
    backW := false, live := false, shown := false, seen := [] }

/-- Does a part that is no L1 hit take an entry of its own (R200)? -/
def Iss.remote (x : Iss) (t : Target) : Bool :=
  match t with
  | .line _ => true
  | _ => x.s.targetCore t != some x.w.core

def State.addReq (s : State) (r : Req) : State := { s with reqs := s.reqs ++ [r], nextId := s.nextId + 1 }

/-- The lines on which an instruction's loads pass by the L1: all its bytes of a line are one request (R201), so one lane that
must decides for the line. -/
def Iss.passing (x : Iss) (qs : List LanePlan) : List Target :=
  qs.flatMap fun q => q.parts.filterMap fun p => match p.out with
    | .ok m => if x.passes q.lane m.tgt then some m.tgt.key else none
    | _ => none

/-- Send one part of a load. -/
def Iss.sendLoad (x : Iss) (o : MOps) (op i : Nat) (dest : Sel) (by_ : List Target) (a : MemAcc) (p : Part) : MemAcc :=
  match p.out with
  | .ok m =>
    let s := a.s.learn p.out
    let r := x.newReq s op i o .load p m [] dest
    let settle := by_.contains m.tgt.key
    let d := match m.tgt with
      | .line d => d
      | _ => 0
    let s := match s.l1Use x.w.core o.lc settle m with
      | .hit c =>
        (s.see x.w.core r.uid m.tgt p.size 0 s.nextId).addReq
          { r with got := some ((c.data.drop (d % 128)).take p.size), live := true }
      | .join f => s.addReq { r with fill := some f.id }
      | .fill =>
        let f : Fill := { id := s.nextId, core := x.w.core, line := d / 128, ctx := x.w.ctx, va := p.va / 128 * 128,
                          drop := false, tag := m.tag, hc := m.hc, toL1 := true }
        State.addReq { s with fills := s.fills ++ [f], nextId := s.nextId + 1 }
          { r with id := s.nextId + 1, fill := some s.nextId }
      | .bypass => State.addReq (s.dropCopy x.w.core (d / 128)) { r with mse := true }
      | .none =>
        State.addReq (if m.hc == 1 && (o.lc != 0 || settle) then s.dropCopy x.w.core (d / 128) else s)
          { r with mse := x.remote m.tgt }
    { a with s := s, n := a.n + 1 }
  | _ => a

/-- Send one part of a store, or of an atomic or reduction. -/
def Iss.sendWrite (x : Iss) (o : MOps) (kind : ReqKind) (op i : Nat) (dest : Sel) (data : List Byte) (a : MemAcc)
    (p : Part) (m : Mapped) : MemAcc :=
  let s := a.s.learn p.out
  let shown := kind == ReqKind.store && (match m.tgt with
    | .line d => s.copies.any fun c => c.core == x.w.core && c.line == d / 128
    | _ => false)
  let r := { x.newReq s op i o kind p m data dest with mse := x.remote m.tgt, shown := shown }
  let s := s.modThread (x.lane i).uid fun l => { l with pw := l.pw + 1 }
  let s := s.settleHits r.uid m.tgt p.size s.nextId
  let s := match m.tgt with
    | .line d => if kind == ReqKind.store then s.storeCopy x.w.core d data else s.dropCopy x.w.core (d / 128)
    | _ => s
  { a with s := s.addReq r, n := a.n + 1 }

/-- A part that goes to the mend log, or parks its lane when the log is full (R248, R249). -/
def Iss.logPart (x : Iss) (o : MOps) (kind : ReqKind) (i : Nat) (data : List Byte) (a : MemAcc) (p : Part) : MemAcc :=
  let recs := match p.out with
    | .fault k => [x.faultRec k (if kind == ReqKind.store then 2 else 3) i p.va]
    | _ => []
  if (a.s.mends.filter fun m => m.core == x.w.core).length < 256 then
    let l := x.lane i
    let m : Mend := { core := x.w.core, ctx := x.w.ctx, cluster := x.w.cluster, meas := x.l.slotNo, bid := x.bidOf i, tid := l.tid, uid := l.uid,
                      va := p.va, data := data, aop := if kind == ReqKind.store then 0xFF else o.aop.toNat, ty := o.ty,
                      lc := o.lc, nbv := x.s.nbv }
    let s := { a.s with mends := a.s.mends ++ [m] }
    { a with s := s.modThread l.uid fun l => { l with mc := l.mc + 1 }, recs := a.recs ++ recs }
  else
    let s := a.s.modThread (x.lane i).uid fun l =>
      { l with status := .parked (if kind == ReqKind.store then 2 else 3) (match l.status with
          | .parked _ vs => vs ++ [p.va]
          | _ => [p.va]) }
    { a with s := s, recs := a.recs ++ recs, parked := if a.parked.contains i then a.parked else a.parked ++ [i] }

/-- Park a lane at its faulting parts and post their records (R242, R251). -/
def Iss.park (x : Iss) (typ : Nat) (a : MemAcc) (i : Nat) (ps : List Part) : MemAcc :=
  let recs := ps.filterMap fun p => match p.out with
    | .fault k => some (x.faultRec k typ i p.va)
    | _ => none
  let vas := ps.filterMap fun p => if p.faults then some p.va else none
  { a with s := a.s.modThread (x.lane i).uid fun l => { l with status := .parked typ vas }, recs := a.recs ++ recs,
           parked := a.parked ++ [i] }

/-- Bytes of a lane's store data or atomic operand; a compare-and-swap carries two values. -/
def Iss.operandBytes (x : Iss) (o : MOps) (kind : ReqKind) (i : Nat) : List Byte :=
  let n := o.ty.bits / 8
  if kind == ReqKind.atom && o.aop == 8 then
    natToBytes (2 * n) (x.read i o.d (2 * o.ty.regs))
  else natToBytes n (x.read i o.d o.ty.regs)

/-- The destination of a lane's returned value: a uniform register takes the lowest executing lane's (R115). -/
def Iss.destOf (x : Iss) (d : Sel) (i : Nat) : Sel :=
  match d with
  | .k n => if i == x.ex.headD 0 then .k n else .z
  | d => d

/-- Issue one lane of an access. -/
def Iss.sendLane (x : Iss) (o : MOps) (kind : ReqKind) (op : Nat) (by_ : List Target) (a : MemAcc) (q : LanePlan) : MemAcc :=
  let i := q.lane
  match kind with
  | .load =>
    if q.parts.any Part.faults then x.park 0 a i q.parts
    else q.parts.foldl (x.sendLoad o op i (x.destOf o.d i) by_) a
  | .atom =>
    if q.parts.any Part.faults then x.park 1 a i q.parts
    else q.parts.foldl (fun a p => match p.out with
      | .ok m => x.sendWrite o .atom op i o.d (x.operandBytes o .atom i) a p m
      | _ => a) a
  | k =>
    let bs := x.operandBytes o k i
    q.parts.foldl (fun a p =>
      let data := (bs.drop p.at_).take p.size
      match p.out with
      | .ok m =>
        if !m.tgt.isSram && x.s.logged x.w.core x.w.ctx p.va then x.logPart o k i data a p
        else x.sendWrite o k op i .z data a p m
      | _ => x.logPart o k i data a p) a

/-- The entries an access needs (R200, R201): distinct lines of requests that are no L1 hit and join no fill. -/
def Iss.needs (x : Iss) (o : MOps) (kind : ReqKind) (by_ : List Target) (qs : List LanePlan) : Nat :=
  let parts := qs.flatMap fun q => if (kind == ReqKind.load || kind == ReqKind.atom) && q.parts.any Part.faults then [] else
    q.parts.filterMap fun p => match p.out with
      | .ok m =>
        if kind == ReqKind.load then
          match x.s.l1Use x.w.core o.lc (by_.contains m.tgt.key) m with
          | .hit _ => none
          | .join _ => none
          | .fill => some m.tgt.key
          | .bypass => some m.tgt.key
          | .none => if x.remote m.tgt then some m.tgt.key else none
        else if (kind == ReqKind.store || kind == ReqKind.red) && !m.tgt.isSram && x.s.logged x.w.core x.w.ctx p.va then none
        else if x.remote m.tgt then some m.tgt.key else none
      | _ => none
  parts.dedup.length

/-- The class an access counts in. -/
def ReqKind.cls : ReqKind → OpClass
  | .load | .atom | .ldc => .ld
  | .store | .red => .st

/-- A new counted operation of the warp. -/
def Iss.newOp (x : Iss) (id left : Nat) (cls : OpClass) : OutOp :=
  { id := id, cls := cls, left := left, cpstat := none, w := 0, uids := [], trapAddr := none, pc := x.pc,
    mask := maskOf x.ex }

/-- Complete the issue of an access: the operation is counted, the parked lanes stay, the others go on. -/
def Iss.finishMem (x : Iss) (a : MemAcc) (op : Nat) (cls : OpClass) : State :=
  let w := (a.s.warp? x.w.core x.w.slot).getD x.w
  let go := x.act.filter fun i => !a.parked.contains i
  let w := { w.move go (nextPc x.pc) with ops := w.ops ++ [x.newOp op a.n cls] }
  let s := x.settle a.s w ((go ++ x.act).headD 0)
  State.retire (s.post a.recs) x.w.core x.w.slot

/-- The body of `ld`, `st`, `atom` and `red`: holds, traps (R466), rejection (R202), then the lanes in ascending order. -/
def Iss.access (x : Iss) (o : MOps) (kind : ReqKind) : State :=
  if x.ex.isEmpty then x.next x.s x.w
  else
    x.afterAcquire
      (let aligned := kind == ReqKind.atom || kind == ReqKind.red
       let go :=
         let qs := x.ex.map fun i => x.plan i o (o.ty.bits / 8) aligned (kind != ReqKind.load)
         match qs.find? fun q => q.trap.isSome with
         | some q => x.trapLane (q.trap.getD 0) q.lane q.ea
         | none =>
           let own := qs.any fun q => q.parts.any fun p =>
             (match p.out with
              | .ok m => !m.tgt.isSram
              | _ => true) && x.s.waitsForLog kind (x.lane q.lane).uid x.w.core x.w.ctx p.va
           if own || x.w.count kind.cls == 127 then x.hold
           else
             let by_ := if kind == ReqKind.load then x.passing qs else []
             let n := x.needs o kind by_ qs
             if x.s.entriesFor x.w.core x.w.slot < n then x.reject
             else
               let s0 := x.s.takeEntries x.w.core x.w.slot n (x.w.ageOf x.pc == 64)
               let a := qs.foldl (x.sendLane o kind x.s.nextId by_)
                 { s := { s0 with nextId := s0.nextId + 1 }, recs := [], parked := [], n := 0 }
               x.finishMem a x.s.nextId kind.cls
       if (kind != ReqKind.load) && o.lc == 3 then x.released 2 go else go)

/-- Registers of a format M instruction. -/
def addrUses (o : MOps) : List RegUse := [(o.a, if o.sp == 1 then 1 else 2), (o.x, 1)]

def execLd (g : Guard) (o : MOps) (s : State) : Result :=
  issue g s ((o.d, o.ty.regs) :: addrUses o) (fun x => nbvOk x.s o.ty) false fun x => x.access o .load

def execSt (g : Guard) (o : MOps) (s : State) : Result :=
  issue g s ((o.d, o.ty.regs) :: addrUses o) (fun x => nbvOk x.s o.ty) false fun x => x.access o .store

def execAtom (g : Guard) (o : MOps) (s : State) : Result :=
  issue g s ((o.d, if o.aop == 8 then 2 * o.ty.regs else o.ty.regs) :: addrUses o) (fun _ => true) false fun x =>
    x.access o .atom

def execRed (g : Guard) (o : MOps) (s : State) : Result :=
  issue g s ((o.d, o.ty.regs) :: addrUses o) (fun _ => true) false fun x => x.access o .red

/-! ### pref (R184, R185) -/

/-- The `pref` of one lane: a fill of its line, unless it is dropped. -/
def Iss.prefLane (x : Iss) (o : MOps) (s : State) (i : Nat) : State :=
  match x.resolve i o.sp.toNat (x.ea i o) 1 with
  | .global g =>
    let hit := (s.tsOffset g).isSome || (coveringWindow g (s.bank x.w.ctx).heap).isSome ||
      (s.tlbFind x.w.core x.w.ctx g).isSome || (s.tlbFind (192 + groupOf x.w.core) x.w.ctx g).isSome
    match (if hit then s.translate x.who g false else .violation) with
    | .ok m =>
      match m.tgt with
      | .line d =>
        let core := x.w.core
        if m.hc == 1 || s.entriesFor core x.w.slot == 0 || settling s core (x.lane i) then s
        else if o.lc == 0 && ((s.copy? core (d / 128)).isSome || (s.fillFor core (d / 128)).isSome) then s
        else if s.fills.any fun f => f.core == core && f.line == d / 128 && decide (x.s.nextId ≤ f.id) then s
        else
          let f : Fill := { id := s.nextId, core := core, line := d / 128, ctx := x.w.ctx, va := g / 128 * 128, drop := false,
                            tag := m.tag, hc := m.hc, toL1 := o.lc == 0 }
          { s.takeEntries core x.w.slot 1 false with fills := s.fills ++ [f], nextId := s.nextId + 1 }
      | _ => s
    | _ => s
  | _ => s

def execPref (g : Guard) (o : MOps) (s : State) : Result :=
  issue g s (addrUses o) (fun _ => true) false fun x =>
    x.afterAcquire (x.next (x.ex.foldl (x.prefLane o) x.s) x.w)

/-! ### ldc (R190) -/

/-- The byte offset of a lane (R190). -/
def Iss.ldcOffset (x : Iss) (i : Nat) (o : MOps) : Int :=
  signedOf 32 (x.read i o.a 1) + signedOf 32 (x.read i o.x 1) * (2 ^ o.xs.toNat : Nat) + o.off.toInt

/-- The words of a lane's read: offset in the access, and the address it reads or none for a word that is 0 (R188). -/
def Iss.ldcWords (x : Iss) (i : Nat) (o : MOps) : List (Nat × Option Nat) :=
  (List.range o.ty.regs).map fun j => (4 * j, x.windowVa o.aop.toNat (x.ldcOffset i o + (4 * j : Nat)))

/-- The translation of a constant-cache fill of the line at an address: a core-pinned page is a violation (R188). -/
def Iss.fillXlat (x : Iss) (va : Nat) : Xlat :=
  if x.windowBad va then .violation else x.s.translate x.who (va / 64 * 64) false

/-- Words of a lane that the constant cache lacks. -/
def Iss.ldcMisses (x : Iss) (i : Nat) (o : MOps) : List Nat :=
  (x.ldcWords i o).filterMap fun w => match w.2 with
    | some va => if (x.s.ccWord x.w.core x.w.ctx va).isNone then some va else none
    | none => none

/-- One word of a lane that misses: its part of the request, and the fill if none is awaited yet. -/
def Iss.ldcPart (x : Iss) (o : MOps) (op i : Nat) (s : State) (w : Nat × Option Nat) : State :=
  let m : Mapped := { tgt := .frame 0 0 0, hc := 3, tag := 0, sealed := false, tlb := none }
  let p : Part := { va := w.2.getD 0, at_ := w.1, size := 4, out := .ok m }
  let r := x.newReq s op i o .ldc p m [] (x.destOf o.d i)
  match w.2 with
  | none => s.addReq { r with got := some [0, 0, 0, 0] }
  | some va =>
    match x.s.ccWord x.w.core x.w.ctx va with
    | some v => s.addReq { r with got := some (natToBytes 4 v.toNat) }
    | none =>
      let s := if s.awaited x.w.core x.w.ctx (va / 64) false then s
        else match x.fillXlat va with
          | .ok m => (match m.tgt with
            | .line _ => (s.addWait x va false [] (some m)).learn (.ok m)
            | _ => s)
          | _ => s
      s.addReq r

/-- One lane of an `ldc` with a miss somewhere: a hitting lane's value is written at issue by the caller. A lane that parks posts one
record for each 64-byte line that faults (DESIGN CHOICE, assumption 83). -/
def Iss.ldcLane (x : Iss) (o : MOps) (op : Nat) (a : MemAcc) (i : Nat) : MemAcc :=
  let miss := x.ldcMisses i o
  if miss.isEmpty then a
  else
    let faulting := (miss.filter fun va => match x.fillXlat va with
      | .fault _ => true
      | _ => false)
    if faulting.isEmpty then
      { a with s := (x.ldcWords i o).foldl (x.ldcPart o op i) a.s, n := a.n + o.ty.regs }
    else
      let firsts := faulting.foldl (fun vs va => if vs.any fun v => v / 64 == va / 64 then vs else vs ++ [va]) ([] : List Nat)
      x.park 5 a i (firsts.map fun va => { va := va, at_ := 0, size := 4, out := x.fillXlat va })

/-- The value of a hitting lane. -/
def Iss.ldcValue (x : Iss) (i : Nat) (o : MOps) : Nat :=
  joinWords (fun j => match (x.ldcWords i o)[j]? with
    | some (_, some va) => (x.s.ccWord x.w.core x.w.ctx va).getD 0
    | _ => 0) 0 o.ty.regs

/-- `ldc`. A core-pinned page traps with the lane's first missing word as second address (assumption 77). -/
def execLdc (g : Guard) (o : MOps) (s : State) : Result :=
  issue g s [(o.d, o.ty.regs), (o.a, 1), (o.x, 1)] (fun _ => true) false fun x =>
    if x.ex.isEmpty then x.next x.s x.w
    else
      x.afterAcquire
        (match x.ex.find? fun i => x.ldcOffset i o % 4 != 0 || (x.ldcMisses i o).any x.windowBad with
         | some i =>
           x.trapLane 0x07 i (if x.ldcOffset i o % 4 != 0 then (((x.l.window o.aop.toNat).1 + x.ldcOffset i o) % (2 ^ 57 : Nat)).toNat
             else (x.ldcMisses i o).headD 0)
         | none =>
           let hits := x.ex.filter fun i => (x.ldcMisses i o).isEmpty
           let vals := (hits.filter fun i => x.destOf o.d i == o.d).map fun i => (i, x.ldcValue i o)
           let poison := hits.any fun i => (x.ldcWords i o).any fun w => match w.2 with
             | some va => x.s.ccache.any fun c => c.core == x.w.core && c.ctx == x.w.ctx && c.line == va / 64 &&
                 c.bad.contains (va % 64 / 32)
             | none => false
           if poison then x.trap 0x09
           else if hits == x.ex then x.next x.s (x.w.write o.d o.ty.regs vals)
           else if x.w.count .ld == 127 then x.hold
           else
             let s := x.s.setWarp (x.w.write o.d o.ty.regs vals)
             let a := x.ex.foldl (x.ldcLane o s.nextId)
               { s := { s with nextId := s.nextId + 1 }, recs := [], parked := [], n := 0 }
             x.finishMem a s.nextId .ld)

end Sys2Proof.Machine
end

