-- ==== Sys2Proof/Machine/MemoryEvents.lean ====
section
/-! DEFINITION. The events of the memory system: a request performed at its home and its returns (R177, R180, R182, R266,
R267), L1 fills and leases (R264), eviction (R216), walks (R238), rejection age (R203), the end of a fence's hold (R270). -/

namespace Sys2Proof.Machine

open Sys2Proof

/-! ### Atomic operations (Table 6 of 07_core_memory, R181) -/

/-- The new memory value: `v` is the operand, for cas `v` is compared and `new` stored. -/
def aopValue (aop : Nat) (ty : Ty) (nbv old v new : Nat) : Nat :=
  let n := ty.bits
  match aop with
  | 0x00 => wrapN n (ty.int old + ty.int v)
  | 0x01 => wrapN n (ty.int old - ty.int v)
  | 0x02 => if ty.int v < ty.int old then v else old
  | 0x03 => if ty.int old < ty.int v then v else old
  | 0x04 => old.land v
  | 0x05 => old.lor v
  | 0x06 => old.xor v
  | 0x07 => v
  | 0x08 => if old == v then new else old
  | 0x09 => if old < v then old + 1 else old
  | 0x0A => if v < old then old - 1 else old
  | 0x0B => (lift2 ty (fadd1 (fmtOf ty) .rne nbv) old v).1
  | 0x0C => (fminmax1 false .f32 nbv old v).1
  | _ => (fminmax1 true .f32 nbv old v).1

/-- The bytes an atomic or reduction stores, from the old bytes and the operand bytes. -/
def aopBytes (aop : Nat) (ty : Ty) (nbv : Nat) (old data : List Byte) : List Byte :=
  let n := ty.bits / 8
  natToBytes n (aopValue aop ty nbv (bytesToNat old) (bytesToNat (data.take n)) (bytesToNat (data.drop n)))

/-! ### Homes (R261) -/

/-- The bytes at a target. -/
def State.homeRead (s : State) (t : Target) (n : Nat) : List Byte :=
  match t with
  | .sram ctx k b o => match s.block? ctx k b with
    | some bl => bl.sram.getN o n
    | none => List.replicate n 0
  | .frame ctx k key => match s.cluster? ctx k with
    | some c => c.pinned.getN key n
    | none => List.replicate n 0
  | .line d => s.devRead d n
  | .mx _ _ _ _ => List.replicate n 0

/-- Global time at a target's home. -/
def State.homeGt (s : State) (t : Target) : Nat :=
  match t with
  | .line d => s.sliceGt (sliceOf d)
  | t => s.coreGt ((s.targetCore t).getD 0)

/-- The lease period in force (R265). -/
def SysRegs.period (r : SysRegs) : Nat := 2 ^ min 12 (max 5 (r.lease.toNat % 16))

/-- The write completion time of a write performed now (R266). -/
def State.completion (s : State) (t : Target) : Nat :=
  match t with
  | .line d =>
    let gt := s.sliceGt (sliceOf d)
    let lx := match s.leases.find? fun e => e.1 == d / 128 with
      | some e => e.2
      | none => s.ev.getD (sliceOf d) 0
    max gt (if gt < lx then lx else 0) + 2
  | t => s.homeGt t + 2

/-- Mark the latest writer's measurement slot on the sealed line, of a slice or of a frame, that a byte lies in (R339). -/
def State.markLine (s : State) (t : Target) (slot : Nat) : State :=
  { s with lineSlots := (s.lineSlots.filter fun e => e.1 != t.key) ++ [(t.key, slot)] }

/-- Does a range of a target lie whole within another? -/
def Target.within (a : Target) (na : Nat) (b : Target) (nb : Nat) : Bool :=
  match a, b with
  | .sram c k bl o, .sram c' k' bl' o' => c == c' && k == k' && bl == bl' && decide (o' ≤ o) && decide (o + na ≤ o' + nb)
  | .frame c k o, .frame c' k' o' => c == c' && k == k' && decide (o' ≤ o) && decide (o + na ≤ o' + nb)
  | .line d, .line d' => decide (d' ≤ d) && decide (d + na ≤ d' + nb)
  | .mx c k bl o, .mx c' k' bl' o' => c == c' && k == k' && bl == bl' && decide (o' ≤ o) && decide (o + na ≤ o' + nb)
  | _, _ => false

/-- The target `n` bytes on. -/
def Target.plus (t : Target) (n : Nat) : Target :=
  match t with
  | .sram c k b o => .sram c k b (o + n)
  | .frame c k o => .frame c k (o + n)
  | .line d => .line (d + n)
  | .mx c k b o => .mx c k b (o + n)

/-- The 32-byte sector that a byte lies in, by its first byte. -/
def Target.sector (t : Target) : Target :=
  match t with
  | .sram c k b o => .sram c k b (o / 32 * 32)
  | .frame c k o => .frame c k (o / 32 * 32)
  | .line d => .line (d / 32 * 32)
  | .mx c k b o => .mx c k b (o / 32 * 32)

/-- Clear the poison of SRAM sectors that a write of `n` bytes covers whole (R431). -/
def State.unpoisonSram (s : State) (t : Target) (n : Nat) : State :=
  { s with badSram := s.badSram.filter fun b => !b.within 32 t n }

/-- Mark the sector of a byte poison (R431). -/
def State.markBad (s : State) (t : Target) : State :=
  match t with
  | .line d => if s.poison.contains (d / 32) then s else { s with poison := s.poison ++ [d / 32] }
  | t => if s.badSram.contains t.sector then s else { s with badSram := s.badSram ++ [t.sector] }

/-- Write bytes at a target, under a line's attributes. -/
def State.homeWrite (s : State) (t : Target) (ctx tag hc : Nat) (sealed : Bool) (meas : Nat) (bs : List Byte) : State :=
  match t with
  | .sram c k b o => (s.unpoisonSram t bs.length).modBlock c k b fun bl => { bl with sram := bl.sram.setN o bs }
  | .frame c k key =>
    let s := (s.unpoisonSram t bs.length).modCluster c k fun cl => { cl with pinned := cl.pinned.setN key bs }
    if sealed then s.markLine t meas else s
  | .line d =>
    let s := (s.touchLine d ctx tag hc true).devWrite d bs
    if sealed then s.markLine t meas else s
  | .mx _ _ _ _ => s

/-! ### Order of requests (R176, R182, R262, R263; assumption 9) -/

/-- Does an older request come first at the home for a thread's sake: of the thread itself, or a store whose value the thread
has read from an L1 copy (R262)? -/
def Req.before (q r : Req) : Bool := decide (q.id < r.id) && q.pending && (q.uid == r.uid || q.seen.contains r.uid)

/-- Must a request wait for an older one: on overlapping bytes for one that comes before it, for a write of a lower lane of its
own instruction (R176, R182), and for a store shown by the copy that shows its own value; and for an access of its thread
to block SRAM, when it is one (R263)? -/
def State.blockedBy (s : State) (q r : Req) : Bool :=
  (s.meet q r && (q.before r ||
    (decide (q.id < r.id) && q.unperformed && r.unperformed && (q.op == r.op || (q.core == r.core && q.shown && r.shown))))) ||
    (decide (q.id < r.id) && q.pending && q.uid == r.uid && q.tgt.isSram && r.tgt.isSram)

/-- Must it wait for some request? -/
def State.blocked (s : State) (r : Req) : Bool := s.reqs.any fun q => s.blockedBy q r

def State.modReq (s : State) (id : Nat) (f : Req → Req) : State :=
  { s with reqs := s.reqs.map fun r => if r.id == id then f r else r }

/-- Does a target's range overlap a poisoned sector (R431)? -/
def State.poisonedAt (s : State) (t : Target) (n : Nat) : Bool :=
  match t with
  | .line d => s.poisoned d n
  | t => s.badSram.any fun b => b.overlap 32 t n

/-! ### Returns -/

/-- Data of the parts of one lane's access, all here, in order of their offsets. -/
def partBytes (ps : List Req) : List Byte :=
  (List.range 16).flatMap fun k => match ps.find? fun p => p.at_ == k with
    | some p => p.got.getD []
    | none => []

/-- Is the lane that a request belongs to still there to take a value (R103)? -/
def State.takes (s : State) (r : Req) : Bool :=
  match s.warp? r.core r.slot with
  | some w => w.form == r.form && (w.lane r.lane).uid == r.uid &&
      (w.lane r.lane).status != .exited && (w.lane r.lane).status != .departed
  | none => false

/-- Deliver a lane's data once every part of it is here: D is written, or the value discarded (R103, R176, R177);
poison traps (R431). The parts are complete. -/
def State.deliver (s : State) (r : Req) : State :=
  let ps := s.reqs.filter fun q => q.op == r.op && q.uid == r.uid && q.kind == r.kind && !q.backD
  if ps.all fun q => q.got.isSome then
    let ids := ps.map fun q => q.id
    let v := r.ty.put (r.ty.int (bytesToNat (partBytes ps)))
    let marked := s.reqs.map fun q => if ids.contains q.id then { q with backD := true } else q
    let done := { s with reqs := marked.filter fun (q : Req) => !(ids.contains q.id && (q.kind != ReqKind.atom || q.backW)) }
    let done := done.completeParts r.core r.slot r.op ps.length
    if s.takes r then
      match ps.find? fun q => q.poison with
      | some _ =>
        let w := s.warp? r.core r.slot
        let op := w.bind fun w => w.ops.find? fun (o : OutOp) => o.id == r.op
        done.takeTrap (s.record r.ctx 3 0 0x09 r.core r.slot r.lane
          (match op with | some o => o.pc.toNat | none => 0) 0 (match op with | some o => o.mask | none => 0#32))
      | none =>
        done.modWarp r.core r.slot fun w => if w.form == r.form then w.write r.dest r.ty.regs [(r.lane, v)] else w
    else done
  else s

/-- The hits of a thread whose bytes are not settled take them from the copies as these now stand. -/
def State.rereadHits (s : State) (core uid : Nat) : State :=
  let now := fun (r : Req) => if r.core == core && r.uid == uid && r.live then
      (match r.tgt with
       | .line d => (s.copy? core (d / 128)).map fun c => (c.data.drop (d % 128)).take r.size
       | _ => none)
    else none
  let t := { s with reqs := s.reqs.map fun r => match now r with
    | some bs => { r with got := some bs }
    | none => r }
  (s.reqs.filter fun r => (now r).isSome).foldl (fun (t : State) r => t.see core uid (s.reqTarget r) r.size 0 s.nextId) t

/-- A load that no L1 fill serves reads its home. -/
def State.performRead (s : State) (r : Req) : State :=
  let t := s.reqTarget r
  let s' := match t with
    | .line d => s.touchLine d r.ctx r.tag r.hc false
    | _ => s
  (s'.settleHits r.uid t r.size r.id).modReq r.id fun q =>
    { q with got := some (s.homeRead t r.size), poison := s.poisonedAt t r.size }

/-- LOAD_DATA_RETURN (R177): the data of a load, an atomic or an `ldc` comes back. An L1 hit reads its copy as it stands, where
the copy is still valid; a load that no L1 fill serves reads its home now. -/
def execLoadDataReturn (id : Nat) (s : State) : Result :=
  .next (match s.reqs.find? fun r => r.id == id && r.writesReg with
    | none => s
    | some r =>
      if r.live then State.deliver (s.rereadHits r.core r.uid) r
      else if r.got.isSome then s.deliver r
      else if r.kind != .load || r.fill.isSome || s.blocked r then s
      else (s.performRead r).deliver r)

/-- A write of a thread that has moved to another core since is performed: the copy of its line there goes, so that the thread's loads
do not miss the write (R262; assumption 82). -/
def State.dropMoved (s : State) (uid core : Nat) (t : Target) : State :=
  match t, s.warps.find? fun w => w.core != core && w.lanes.any fun l => l.uid == uid && l.status != .departed with
  | .line d, some w => s.dropCopy w.core (d / 128)
  | _, _ => s

/-- A store, reduction or atomic takes effect at its home. -/
def State.performWrite (s : State) (r : Req) : State :=
  let t := s.reqTarget r
  let old := s.homeRead t r.size
  let new := if r.kind == .store then r.data else aopBytes r.aop.toNat r.ty r.nbv old r.data
  State.modReq ((s.homeWrite t r.ctx r.tag r.hc r.sealed r.meas new).dropMoved r.uid r.core r.tgt) r.id fun q =>
    { q with w := some (s.completion t), got := if q.kind == .atom then some old else none,
             poison := q.kind == .atom && s.poisonedAt t r.size }

/-- A request takes effect at its home, if it is still to. -/
def State.perform (s : State) (r : Req) : State :=
  if r.unperformed then s.performWrite r else if r.kind == .load && r.got.isNone then s.performRead r else s

/-- Where the thread has older requests for the bytes that are still to be performed, those for the line are, in the order of their
issue (R263; assumption 94). -/
def State.settleLine (s : State) (uid : Nat) (t : Target) (n : Nat) : State :=
  if s.reqs.any fun r => r.uid == uid && r.pending && (s.reqTarget r).overlap r.size t n then
    (s.reqs.filter fun r => r.pending && (s.reqTarget r).key == t.key).foldl State.perform s
  else s

/-- The parts of the instruction's lanes that a store to a poisoned sector is performed with: all that it has in the line are one
request, which clears the sectors that it covers whole (R201, R431). Any other write is performed alone. -/
def State.together (s : State) (r : Req) : List Req :=
  if r.kind == .store && s.poisonedAt ((s.reqTarget r).sector) 32 then
    s.reqs.filter fun q => q.op == r.op && q.kind == .store && q.unperformed && (s.reqTarget q).key == (s.reqTarget r).key
  else [r]

/-- The bytes of parts, each where it lies. -/
def State.reqBytes (s : State) (rs : List Req) : List Target :=
  rs.flatMap fun r => (List.range r.size).map fun j => (s.reqTarget r).plus j

/-- Clear the poison of the sectors whose every byte is among those written (R431). -/
def State.cleanse (s : State) (ts : List Target) : State :=
  let whole := fun (t : Target) => (List.range 32).all fun j => ts.contains (t.plus j)
  { s with poison := s.poison.filter fun p => !whole (.line (p * 32)), badSram := s.badSram.filter fun b => !whole b }

/-- HOME_WRITE_PERFORM (R261, R266): a store, reduction or atomic takes effect at its home. -/
def execHomeWritePerform (id : Nat) (s : State) : Result :=
  .next (match s.reqs.find? fun r => r.id == id && r.unperformed with
    | none => s
    | some r =>
      match s.together r with
      | [_] => if s.blocked r then s else s.performWrite r
      | rs =>
        if rs.any fun q => s.reqs.any fun p => !(p.op == q.op && p.kind == .store) && s.blockedBy p q then s
        else (rs.foldl State.performWrite s).cleanse (s.reqBytes rs))

/-- WRITE_COMPLETION_RETURN (R267): W is folded into the thread's VIS and PW falls. -/
def execWriteCompletionReturn (id : Nat) (s : State) : Result :=
  .next (match s.reqs.find? fun r => r.id == id && !r.backW with
    | none => s
    | some r =>
      match r.w with
      | none => s
      | some w =>
        let s := s.foldW r.ctx r.cluster r.uid w 1 0
        if r.kind == .atom then
          let marked := s.reqs.map fun q => if q.id == id then { q with backW := true } else q
          { s with reqs := marked.filter fun (q : Req) => !(q.id == id && q.backD) }
        else
          State.completeParts { s with reqs := s.reqs.filter fun q => q.id != id } r.core r.slot r.op 1)

/-! ### Fills, leases, eviction -/

/-- The stores to the line of a fill that its core issued while the fill was outstanding and that are still to be performed, older
than `upto`, in issue order: they are applied to what the fill brings (R262). -/
def State.storesTo (s : State) (f : Fill) (line upto : Nat) : List Req :=
  s.reqs.filter fun q => q.core == f.core && q.kind == .store && q.unperformed && decide (f.id < q.id) && decide (q.id < upto) &&
    (s.reqTarget q).key == .line line

/-- A line with the bytes of stores laid over it. -/
def State.overlayStores (s : State) (data : List Byte) (qs : List Req) : List Byte :=
  qs.foldl (fun d q => match s.reqTarget q with
    | .line a => overlayAt d (a % 128) q.data
    | _ => d) data

/-- Record an expiry granted on a line (R264). -/
def State.grant (s : State) (line e : Nat) : State :=
  let old := match s.leases.find? fun l => l.1 == line with
    | some l => l.2
    | none => s.ev.getD (sliceOf (line * 128)) 0
  { s with leases := (s.leases.filter fun l => l.1 != line) ++ [(line, max old e)] }

/-- A load that waits for a fill takes its bytes from the line served, with those of the older stores applied to it. -/
def State.serve (s : State) (f : Fill) (d : Nat) (data : List Byte) (r : Req) : Req :=
  let o := r.va % 128
  let got := ((s.overlayStores data (s.storesTo f (d / 128) r.id)).drop o).take r.size
  if r.fill = some f.id ∧ r.got = none then { r with got := some got, poison := s.poisoned (d + o) r.size } else r

/-- Must a fill wait, for the sake of a load that it serves, for an older request of the load's thread, or one whose value the thread
has read, that the stores applied to the line do not show (R262)? -/
def State.fillWaits (s : State) (f : Fill) : Bool :=
  s.reqs.any fun r => r.fill == some f.id && r.got.isNone && s.reqs.any fun q =>
    q.before r && s.meet q r && !(q.kind == .store && q.core == f.core && decide (f.id < q.id)) && q.fill != some f.id

/-- May the line of a fill be installed (R169, R262, R431)? Not once its copy was dropped, nor while a request of the core on it is
still to be performed that the copy would not show: an atomic or a reduction, a store older than the fill, a load that passes by the
L1. -/
def State.installs (s : State) (f : Fill) (d : Nat) : Bool :=
  f.toL1 && !f.drop && !s.poisoned (d / 128 * 128) 128 &&
    !(s.reqs.any fun q => q.core == f.core && q.pending && (s.reqTarget q).key == .line (d / 128) &&
      (if q.kind == .store then decide (q.id < f.id) else q.kind != .load || q.fill.isNone))

/-- The bytes of block SRAM and core-pinned frames that a core reserves (R162). -/
def State.reservedSram (s : State) (core : Nat) : Nat :=
  ((s.blocks.filter fun b => b.home == core).map fun b => b.size).sum +
    ((s.clusters.filter fun c => !c.retired).map fun c => match s.launch? c.ctx with
      | some l => if (c.cores l).contains core then 65536 * l.pinf else 0
      | none => 0).sum

/-- Lines of a core's L1: the SRAM that nothing reserves, of 512 KiB (R162). -/
def State.l1Lines (s : State) (core : Nat) : Nat := (524288 - s.reservedSram core) / 128

/-- Copies of a core beyond `cap` lines go (R164, R264). -/
def State.shrinkL1 (s : State) (core cap : Nat) : State :=
  let mine := fun (c : Copy) => c.core == core
  let n := s.copies.countP mine - cap
  { s with copies := dropVictims mine n s.drops s.copies, drops := s.drops + n }

/-- Install a copy: the stores it shows are performed in the order in which it shows them. -/
def State.install (s : State) (f : Fill) (line d e : Nat) (data : List Byte) : State :=
  let qs := s.storesTo f (d / 128) s.nextId
  let c : Copy := { core := f.core, line := line, data := s.overlayStores data qs, expiry := e }
  let s := { s with copies := s.copies.filter fun c => !(c.core == f.core && c.line == line),
                    reqs := s.reqs.map fun (q : Req) => if qs.any fun (k : Req) => k.id == q.id then { q with shown := true } else q }
  let s := s.shrinkL1 f.core (s.l1Lines f.core - 1)
  { s with copies := s.copies ++ [c] }

/-- What the loads served leave behind them: each has read the stores laid over its bytes, and its thread's older hits are
settled. -/
def State.served (s : State) (f : Fill) : State :=
  (s.reqs.filter fun r => r.fill == some f.id && r.got.isNone).foldl (fun (s : State) r =>
    (s.see f.core r.uid (s.reqTarget r) r.size f.id r.id).settleHits r.uid (s.reqTarget r) r.size r.id) s

/-- L1_FILL_SERVE (R264): the slice serves the oldest outstanding fill of the line, and the copy arrives. -/
def execL1FillServe (core line : Nat) (s : State) : Result :=
  .next (match s.fills.find? fun f => f.core == core && f.line == line with
    | none => s
    | some f =>
      if s.fillWaits f then s
      else
        let d := s.forward f.ctx f.va (line * 128)
        let data := s.devRead d 128
        let e := s.sliceGt (sliceOf d) + s.sys.period
        let s' := { s.touchLine d f.ctx f.tag f.hc false with fills := s.fills.filter fun g => g.id != f.id }
        if !f.toL1 then s'
        else
          let s' := (s'.served f).grant (d / 128) e
          let s' := { s' with reqs := s'.reqs.map fun r => s.serve f d data r }
          if s.installs f d then s'.install f line d e data else s')

/-- Replacement: a cache or TLB lets something go (R187, R238, R264). A fill still outstanding is untouched. -/
def State.letGo (s : State) : Replaced → State
  | .copy core line => { s with copies := s.copies.filter fun c => !(c.core == core && c.line == line) }
  | .constLine core ctx line =>
    { s with ccache := s.ccache.filter fun c => !(c.core == core && c.ctx == ctx && c.line == line) }
  | .instrLine core ctx line =>
    { s with icache := s.icache.filter fun c => !(c.core == core && c.ctx == ctx && c.line == line) }
  | .tlb owner ctx va => { s with tlbs := s.tlbs.filter fun t => !(t.owner == owner && t.ctx == ctx && t.va == va) }

/-- LEASE_EXPIRY (R264): a copy is invalid once the core's GT reaches its expiry. -/
def execLeaseExpiry (core line : Nat) (s : State) : Result :=
  .next { s with copies := s.copies.filter fun c =>
    !(c.core == core && c.line == line && decide (c.expiry ≤ s.coreGt core)) }

/-- Drop a line's lease record, folding an expiry still in the future into EV (R264). -/
def State.dropRecord (s : State) (line : Nat) : State :=
  match s.leases.find? fun l => l.1 == line with
  | none => s
  | some l =>
    let sl := sliceOf (line * 128)
    { s with leases := s.leases.filter fun l => l.1 != line,
             ev := if s.sliceGt sl < l.2 then modAt s.ev sl (max l.2) else s.ev }

/-- SLICE_EVICTION (R216): a slice writes back or evicts an unlocked line. -/
def execSliceEviction (line : Nat) (s : State) : Result :=
  .next (match s.l2.find? fun l => l.line == line with
    | some k => if k.locked.isSome then s else (s.evict k).dropRecord line
    | none => s.dropRecord line)

/-- A cluster of the context on the core, with its launch. -/
def State.clusterOn (s : State) (ctx core : Nat) : Option (Cluster × Launch) :=
  match s.launch? ctx with
  | none => none
  | some l => (s.clusters.find? fun c => c.ctx == ctx && !c.retired && (c.cores l).contains core).map fun c => (c, l)

/-- TLB_WALK (R237, R238): a walk reads the page table and a successful result is cached; a failed one is never. -/
def execTlbWalk (core ctx va : Nat) (s : State) : Result :=
  .next (match s.clusterOn ctx core with
    | none => s
    | some (c, l) =>
      s.learn (s.pageTranslate { core := core, ctx := ctx, super := l.super, cl := some (c, l) } va false))

/-! ### Rejection age, the end of a hold -/

/-- The warp of least formation number. -/
def oldestWarp : List Warp → Option Warp
  | [] => none
  | w :: ws => match oldestWarp ws with
    | none => some w
    | some v => if v.form < w.form then some v else some w

/-- REJECTION_AGE_LIMIT (R203): with an age of 64 on the core, entries freed from now on are reserved for the oldest such
warp. -/
def execRejectionAgeLimit (core : Nat) (s : State) : Result :=
  .next (if s.reserved.any (fun r => r.1 == core) then s
    else
      match oldestWarp (s.warps.filter fun w => w.core == core && w.ages.any fun a => a.2 == 64) with
      | none => s
      | some w => { s with reserved := s.reserved ++ [(core, w.slot, 4096 - s.entriesUsed core)] })

/-- FENCE_PASS (R270, R273): the hold of a `fence` or a release ends; a `fence` then passes. -/
def execFencePass (core slot : Nat) (s : State) : Result :=
  .next (match ({ s with issuing := some (core, slot) } : State).iss ⟨0xFF, 0, 0, 0⟩ with
    | none => s
    | some x =>
      match x.w.holdAt x.pc with
      | some (.fence scope act ex moves) =>
        let y := { x with ex := lanesOf ex }
        if act == maskOf x.act && y.fenced scope then
          (if moves then { y.next s x.w with issuing := s.issuing }
           else s.modWarp core slot fun w => { w with hold := w.otherHolds x.pc })
        else s
      | _ => s)

end Sys2Proof.Machine
end

