-- ==== Sys2Proof/Machine/Sync.lean ====
section
/-! DEFINITION. Ends of threads, barriers, stage rings and active messages (R103, R364 to R382): `exit`, `mdone`, `bar`,
`cbar`, `sring`, `msend`, and the events WRINGER_ARRIVAL, MESSAGE_ARRIVAL, HANDLER_WARP_FORM, SNOOZE_EXPIRY. -/

namespace Sys2Proof.Machine

open Sys2Proof

/-! ### Releasing waiting lanes -/

/-- Release the waiting lanes that a condition picks, in every warp: each arrives at the slot after its instruction (R84,
R101, R104), a warp halted at a breakpoint not excepted (assumption 73). -/
def State.releaseWhere (s : State) (p : Warp → Lane → Bool) : State :=
  { s with warps := s.warps.map fun w =>
      if w.lanes.any (p w) then
        Warp.refresh { w with lanes := w.lanes.map fun l => if p w l then l.release else l } s.cycle
      else w }

/-! ### Barriers (R366, R367, R370) -/

/-- PEND = 1 and APH = PH for a thread, by block and linear index. -/
def Bar.pending (b : Bar) (bid tid : Nat) : Bool := b.pend.any fun p => p.1 == bid && p.2.1 == tid && p.2.2 == b.ph

/-- PEND := 0 for a thread. -/
def Bar.clear (b : Bar) (bid tid : Nat) : Bar := { b with pend := b.pend.filter fun p => !(p.1 == bid && p.2.1 == tid) }

/-- One thread arrives: PEND := 1, APH := PH, CNT := CNT + 1. -/
def Bar.arriveOne (b : Bar) (bid tid : Nat) : Bar :=
  { b.clear bid tid with pend := (b.clear bid tid).pend ++ [(bid, tid, b.ph)], cnt := b.cnt + 1 }

/-- The phase completes. -/
def Bar.advance (b : Bar) : Bar := { b with ph := b.ph + 1, cnt := 0, ec := .unset }

/-- A barrier before anything arrived. -/
def Bar.zero : Bar := { ph := 0, cnt := 0, ec := .unset, pend := [] }

/-- The expected count that a count operand asks for; 0 means all. -/
def expectOf (c : Nat) : Expect := if c == 0 then .all else .count c

/-- Barrier `b` of a block. -/
def Block.bar (bl : Block) (b : Nat) : Bar := bl.bars.getD b Bar.zero

/-- The number E of a barrier's phase (R367). -/
def Block.needed (bl : Block) (b : Nat) : Nat :=
  match (bl.bar b).ec with
  | .count c => c
  | _ => bl.threads - bl.exited.length

/-- Does the warp hold threads of the block? -/
def Warp.ofCluster (w : Warp) (ctx cl : Nat) : Bool := w.ctx == ctx && w.cluster == cl && w.kind != .handler

/-- Is the thread's request to wait at the barrier still on its way to the home core? -/
def State.barAsking (s : State) (ctx cl bid b tid : Nat) : Bool :=
  s.packets.any fun p => p.ctx == ctx && p.cluster == cl && (match p.what with
    | .waitBar d e ts => d == bid && e == b && ts.any fun t => t.2 == tid
    | _ => false)

/-- The same for the cluster barrier. -/
def State.cbarAsking (s : State) (ctx cl bid tid : Nat) : Bool :=
  s.packets.any fun p => p.ctx == ctx && p.cluster == cl && (match p.what with
    | .waitCbar ts => ts.any fun t => t.2.1 == bid && t.2.2 == tid
    | _ => false)

/-- The same for a slot of a stage ring. -/
def State.ringAsking (s : State) (ctx cl bid r slot tid : Nat) : Bool :=
  s.packets.any fun p => p.ctx == ctx && p.cluster == cl && (match p.what with
    | .waitRing d q k _ ts => d == bid && q == r && k == slot && ts.contains tid
    | _ => false)

/-- test(b) (R367): a phase with arrivals enough completes, and every thread that waits on it, its request having reached the home
core, is released, its PEND cleared. -/
def State.barTest (s : State) (ctx cl bid b : Nat) : State :=
  match s.block? ctx cl bid with
  | none => s
  | some bl =>
    let k := bl.bar b
    if decide (0 < k.cnt) && decide (bl.needed b ≤ k.cnt) then
      let here := fun (w : Warp) (l : Lane) =>
        w.ofCluster ctx cl && l.bid == bid && l.status == .waiting (.bar b) && k.pending bid l.tid && !s.barAsking ctx cl bid b l.tid
      let gone := s.warps.flatMap fun w => (w.lanes.filter (here w)).map fun l => l.tid
      let k' := gone.foldl (fun (k : Bar) t => k.clear bid t) k.advance
      (s.modBlock ctx cl bid fun bl => { bl with bars := setAt bl.bars b k' }).releaseWhere here
    else s

/-- Would the arrivals trap illegal-convergence (R367)? The first thread already pending is named; a count that does not
fit names none. -/
def Block.barBad (bl : Block) (b c : Nat) (threads : List (Nat × Nat)) : Option (Option Nat) :=
  let k := bl.bar b
  if bl.threads < c then some none
  else if k.ec != .unset && k.ec != expectOf c then some none
  else (threads.find? fun t => k.pending bl.bid t.2).map fun t => some t.1

/-- Arrivals reach the home core: threads by lane and linear index (R367). -/
def State.barArrive (s : State) (ctx cl bid b c : Nat) (threads : List (Nat × Nat)) : State :=
  let s := s.modBlock ctx cl bid fun bl =>
    let k := bl.bar b
    let k := { k with ec := if k.ec == .unset then expectOf c else k.ec }
    { bl with bars := setAt bl.bars b (threads.foldl (fun (k : Bar) t => k.arriveOne bid t.2) k) }
  s.barTest ctx cl bid b

/-- The number of threads of a cluster whose ends its origin core has not learnt of (R370). -/
def State.clusterLive (s : State) (ctx cl : Nat) : Nat :=
  match s.cluster? ctx cl, s.launch? ctx with
  | some c, some l => l.nbid * l.threads - c.cexits
  | _, _ => 0

/-- The test of the cluster barrier (R370). -/
def State.cbarTest (s : State) (ctx cl : Nat) : State :=
  match s.cluster? ctx cl with
  | none => s
  | some c =>
    let k := c.cbar
    if decide (0 < k.cnt) && decide (s.clusterLive ctx cl ≤ k.cnt) then
      let here := fun (w : Warp) (l : Lane) =>
        w.ofCluster ctx cl && l.status == .waiting .cbar && k.pending l.bid l.tid && !s.cbarAsking ctx cl l.bid l.tid
      let gone := s.warps.flatMap fun w => (w.lanes.filter (here w)).map fun l => (l.bid, l.tid)
      let k' := gone.foldl (fun (k : Bar) t => k.clear t.1 t.2) k.advance
      (s.modCluster ctx cl fun c => { c with cbar := k' }).releaseWhere here
    else s

/-- Arrivals reach the origin core: threads by lane, block and linear index (R370). -/
def State.cbarArrive (s : State) (ctx cl : Nat) (threads : List (Nat × Nat × Nat)) : State :=
  (s.modCluster ctx cl fun c =>
    { c with cbar := threads.foldl (fun (k : Bar) t => k.arriveOne t.2.1 t.2.2) c.cbar }).cbarTest ctx cl

/-! ### Stage rings (R371, R372) -/

/-- The phase bit of a slot. -/
def Block.ringBit (bl : Block) (r slot : Nat) : Bool := (bl.rings.getD r 0).getLsbD slot

/-- A post reaches the home core: the slot bit inverts, and the lanes of the block that wait there for the value it now has are
released. -/
def State.postRing (s : State) (ctx cl bid r slot : Nat) : State :=
  let s := s.modBlock ctx cl bid fun bl =>
    { bl with rings := setAt bl.rings r ((bl.rings.getD r 0) ^^^ (1#16 <<< slot)) }
  match s.block? ctx cl bid with
  | none => s
  | some bl =>
    s.releaseWhere fun w l => w.ofCluster ctx cl && l.bid == bid && l.status == .waiting (.ring r slot (bl.ringBit r slot)) &&
      !s.ringAsking ctx cl bid r slot l.tid

/-! ### The end of a thread (R103, R379) -/

/-- The home core learns that threads of a block have ended: each of its barriers is tested (R103, R367). -/
def State.blockExits (s : State) (ctx cl bid : Nat) (ts : List Nat) : State :=
  (List.range 16).foldl (fun s b => State.barTest s ctx cl bid b)
    (s.modBlock ctx cl bid fun bl => { bl with exited := bl.exited ++ ts })

/-- The origin core learns that `n` threads of the cluster have ended (R103, R370). -/
def State.clusterExits (s : State) (ctx cl n : Nat) : State :=
  (s.modCluster ctx cl fun c => { c with cexits := c.cexits + n }).cbarTest ctx cl

/-- The origin core of a cluster. -/
def Cluster.origin (c : Cluster) : Nat := coreAt c.die c.oy c.ox

/-- Send a packet from the issuing warp to a core. -/
def Iss.send (x : Iss) (s : State) (dst : Nat) (what : Carried) : State :=
  { s with packets := s.packets ++ [{ id := s.nextId, core := x.w.core, dst := dst, slot := x.w.slot, ctx := x.w.ctx,
                                      cluster := x.w.cluster, pc := x.pc, mask := maskOf x.ex, what := what }],
           nextId := s.nextId + 1 }

/-- What is to happen at a core: at once where the warp runs there, else when a packet arrives, behind what the core sent there
before (R369). -/
def Iss.atCore (x : Iss) (dst : Nat) (what : Carried) (now : State → State) (s : State) : State :=
  if dst == x.w.core then now s else x.send s dst what

/-- Lanes of the issuing warp end their threads: they leave every convergence barrier, and, as threads of a block, lower
the counts of its barriers and of the cluster's, at the home core and the origin core. -/
def Iss.endThreads (x : Iss) (is : List Nat) : State :=
  let w := x.w.move (x.act.filter fun i => !is.contains i) (nextPc x.pc)
  let w := w.modLanes is fun _ l => { l with status := .exited, frames := [], rsnap := [] }
  let w := (List.range 16).foldl (fun (w : Warp) b => w.joinDrop is b) w
  let stay := x.act.filter fun i => !is.contains i
  let s := match stay with
    | [] => x.settleEnd x.s w x.lead
    | i :: _ => x.settle x.s w i
  let ctx := x.w.ctx
  let cl := x.w.cluster
  let s :=
    if x.w.kind == .handler then s
    else
      let bids := (is.map fun i => (x.lane i).bid).dedup
      let s := bids.foldl (fun s bid =>
        let ts := (is.filter fun i => (x.lane i).bid == bid).map fun i => (x.lane i).tid
        x.atCore (x.c.home x.l bid) (.exits bid ts) (fun s => s.blockExits ctx cl bid ts) s) s
      x.atCore x.c.origin (.cexits is.length) (fun s => s.clusterExits ctx cl is.length) s
  State.reap s x.w.core x.w.slot

def execExit (g : Guard) (_o : COps) (s : State) : Result :=
  issue g s [] (fun _ => true) false fun x => if x.ex.isEmpty then x.next x.s x.w else x.endThreads x.ex

def execMdone (g : Guard) (_o : ROps) (s : State) : Result :=
  issue g s [] (fun _ => true) false fun x =>
    x.afterAcquire
      (if x.ex.isEmpty then x.next x.s x.w
       else if x.w.kind != .handler then x.trap 0x01
       else x.endThreads x.ex)

/-! ### Issuing a synchronisation -/

/-- The shape of an instruction of block threads (R364): with no executing lane it does nothing; in a handler thread it
traps illegal-instruction. -/
def Iss.blockOnly (x : Iss) (k : State) : State :=
  if x.ex.isEmpty then x.next x.s x.w else if x.w.kind == .handler then x.trap 0x01 else k

/-- The blocks whose threads execute, in order of their lowest lane, with their executing lanes. -/
def Iss.groups (x : Iss) : List (Nat × List Nat) :=
  ((x.ex.map fun i => (x.lane i).bid).foldl (fun bs b => if bs.contains b then bs else bs ++ [b]) ([] : List Nat)).map
    fun b => (b, x.ex.filter fun i => (x.lane i).bid == b)

/-- The issuing warp as the state now has it. -/
def Iss.again (x : Iss) (s : State) : Warp := (s.warp? x.w.core x.w.slot).getD x.w

/-- Finish a synchronisation: the lanes `waits` wait as given, the other active lanes move on; the turn goes on with
those, if any (R85). -/
def Iss.finishWait (x : Iss) (s : State) (waits : List (Nat × WaitOn)) : State :=
  let w := x.again s
  let ws := waits.map fun p => p.1
  let stay := x.act.filter fun i => !ws.contains i
  let w := w.move stay (nextPc x.pc)
  let w := w.modLanes ws fun i l =>
    match waits.find? fun p => p.1 == i with
    | some p => { l with status := .waiting p.2 }
    | none => l
  match stay with
  | [] => x.checkStray (x.settleEnd s w x.lead)
  | i :: _ => x.checkStray (x.settle s w i)

/-! ### bar (R367) -/

/-- Is an arrival of the thread at the barrier still on its way? -/
def State.barInFlight (s : State) (ctx cl bid b tid : Nat) : Bool :=
  s.packets.any fun p => p.ctx == ctx && p.cluster == cl && (match p.what with
    | .arrive d e _ ts => d == bid && e == b && ts.any fun t => t.2 == tid
    | _ => false)

/-- Lanes with their thread index. -/
def Iss.tids (x : Iss) (is : List Nat) : List (Nat × Nat) := is.map fun i => (i, (x.lane i).tid)

/-- The arrivals of the issuing lanes: at the home core at once, from elsewhere by the wringer (R369). -/
def Iss.barArrivals (x : Iss) (b c : Nat) : State :=
  x.groups.foldl (fun s g =>
    x.atCore (x.c.home x.l g.1) (.arrive g.1 b c (x.tids g.2)) (fun s => s.barArrive x.w.ctx x.w.cluster g.1 b c (x.tids g.2)) s) x.s

/-- Does the lane run on the home core of its block? -/
def Iss.atHome (x : Iss) (i : Nat) : Bool := x.homeOf i == x.w.core

/-- The waiting half of `bar` (R367): at home, lanes whose arrival is of the phase in progress wait and the others pass, PEND
cleared; from elsewhere the request goes to the home core, and the lanes wait for its answer. -/
def Iss.barWaits (x : Iss) (s : State) (b : Nat) : State :=
  let ctx := x.w.ctx
  let cl := x.w.cluster
  let waits := x.ex.filter fun i =>
    let l := x.lane i
    !x.atHome i || (match s.block? ctx cl l.bid with
      | some bl => (bl.bar b).pending l.bid l.tid
      | none => false)
  let s := (x.ex.filter fun i => !waits.contains i).foldl (fun s i =>
    s.modBlock ctx cl (x.lane i).bid fun bl =>
      { bl with bars := setAt bl.bars b ((bl.bar b).clear bl.bid (x.lane i).tid) }) s
  let s := x.groups.foldl (fun s g => x.atCore (x.c.home x.l g.1) (.waitBar g.1 b (x.tids g.2)) (fun s => s) s) s
  x.finishWait s (waits.map fun i => (i, .bar b))

/-- The arriving half of `bar` (R367): the checks of the blocks whose home core this is, the hold of R369, then the arrivals;
arrivals from elsewhere are checked as they reach their home core. -/
def Iss.barArrival (x : Iss) (o : ROps) (k : State → State) : State :=
  let b := (o.mod.extractLsb' 2 4).toNat
  let c := x.read x.lead o.a 1
  let bad := x.groups.findSome? fun g =>
    if x.c.home x.l g.1 != x.w.core then none
    else match x.s.block? x.w.ctx x.w.cluster g.1 with
      | some bl => bl.barBad b c (x.tids g.2)
      | none => none
  match bad with
  | some (some i) => x.trapLane 0x05 i 0
  | some none => x.trap 0x05
  | none => x.released (if o.mod.getLsbD 6 then 2 else 0) (k (x.barArrivals b c))

def execBarArrive (g : Guard) (o : ROps) (s : State) : Result :=
  issue g s [(o.a, 1)] (fun _ => true) false fun x =>
    x.blockOnly (x.barArrival o fun s => x.finishWait s [])

def execBarWait (g : Guard) (o : ROps) (s : State) : Result :=
  issue g s [] (fun _ => true) false fun x => x.blockOnly (x.barWaits x.s (o.mod.extractLsb' 2 4).toNat)

def execBarSync (g : Guard) (o : ROps) (s : State) : Result :=
  issue g s [(o.a, 1)] (fun _ => true) false fun x =>
    x.blockOnly (x.barArrival o fun s => x.barWaits s (o.mod.extractLsb' 2 4).toNat)

/-! ### cbar (R370) -/

/-- Is an arrival of the thread at the cluster barrier still on its way? -/
def State.cbarInFlight (s : State) (ctx cl bid tid : Nat) : Bool :=
  s.packets.any fun p => p.ctx == ctx && p.cluster == cl && (match p.what with
    | .carrive ts => ts.any fun t => t.2.1 == bid && t.2.2 == tid
    | _ => false)

/-- Executing lanes with block and thread index. -/
def Iss.members (x : Iss) : List (Nat × Nat × Nat) := x.ex.map fun i => (i, (x.lane i).bid, (x.lane i).tid)

/-- The waiting half of `cbar`: at the origin core as `bar` at home; from elsewhere by a request. -/
def Iss.cbarWaits (x : Iss) (s : State) : State :=
  let ctx := x.w.ctx
  let cl := x.w.cluster
  let waits := x.ex.filter fun i =>
    let l := x.lane i
    x.w.core != x.c.origin || (match s.cluster? ctx cl with
      | some c => c.cbar.pending l.bid l.tid
      | none => false)
  let s := (x.ex.filter fun i => !waits.contains i).foldl (fun s i =>
    s.modCluster ctx cl fun c => { c with cbar := c.cbar.clear (x.lane i).bid (x.lane i).tid }) s
  x.finishWait (x.atCore x.c.origin (.waitCbar x.members) (fun s => s) s) (waits.map fun i => (i, .cbar))

/-- The arriving half of `cbar`; arrivals from elsewhere are checked as they reach the origin core. -/
def Iss.cbarArrival (x : Iss) (o : ROps) (k : State → State) : State :=
  match (if x.w.core == x.c.origin then x.ex.find? fun i => x.c.cbar.pending (x.lane i).bid (x.lane i).tid else none) with
  | some i => x.trapLane 0x05 i 0
  | none =>
    x.released (if o.mod.getLsbD 6 then 2 else 1)
      (k (x.atCore x.c.origin (.carrive x.members) (fun s => s.cbarArrive x.w.ctx x.w.cluster x.members) x.s))

def execCbarArrive (g : Guard) (o : ROps) (s : State) : Result :=
  issue g s [] (fun _ => true) false fun x => x.blockOnly (x.cbarArrival o fun s => x.finishWait s [])

def execCbarWait (g : Guard) (_o : ROps) (s : State) : Result :=
  issue g s [] (fun _ => true) false fun x => x.blockOnly (x.cbarWaits x.s)

def execCbarSync (g : Guard) (o : ROps) (s : State) : Result :=
  issue g s [] (fun _ => true) false fun x => x.blockOnly (x.cbarArrival o fun s => x.cbarWaits s)

/-! ### sring (R372) -/

/-- The slot of a block's group of lanes: (A + offset) mod 16, A from its lowest executing lane. -/
def Iss.ringSlot (x : Iss) (o : ROps) (is : List Nat) : Nat :=
  (x.read (is.headD 0) o.a 1 + (o.mod.extractLsb' 4 4).toNat) % 16

/-- `sring.wait` has its slot offset in the same place, with INV at bit 8 (Table 2). -/
def execSringPost (g : Guard) (o : ROps) (s : State) : Result :=
  issue g s [(o.a, 1)] (fun _ => true) false fun x =>
    x.blockOnly
      (x.released (if o.mod.getLsbD 9 then 2 else 0)
        (let r := (o.mod.extractLsb' 1 3).toNat
         let s := x.groups.foldl (fun s g =>
           x.atCore (x.c.home x.l g.1) (.ringPost g.1 r (x.ringSlot o g.2))
             (fun s => s.postRing x.w.ctx x.w.cluster g.1 r (x.ringSlot o g.2)) s) x.s
         x.finishWait s []))

/-- The phase that a block's group of lanes waits for: B<0> xor INV, B from its lowest executing lane. -/
def Iss.ringPhase (x : Iss) (o : ROps) (is : List Nat) : Bool := (x.readB (is.headD 0) o.b 1).testBit 0 != o.mod.getLsbD 8

/-- At home the lanes of a block whose slot bit has the phase pass; from elsewhere a request goes to the home core, which compares
when it arrives (R373). -/
def execSringWait (g : Guard) (o : ROps) (s : State) : Result :=
  issue g s ((o.a, 1) :: o.b.use 1) (fun _ => true) false fun x =>
    x.blockOnly
      (let r := (o.mod.extractLsb' 1 3).toNat
       let waits := x.groups.flatMap fun g =>
         let slot := x.ringSlot o g.2
         let p := x.ringPhase o g.2
         match x.s.block? x.w.ctx x.w.cluster g.1 with
         | some bl =>
           if bl.ringBit r slot == p && x.c.home x.l g.1 == x.w.core then []
           else g.2.map fun i => (i, WaitOn.ring r slot p)
         | none => []
       let s := x.groups.foldl (fun s g =>
         x.atCore (x.c.home x.l g.1) (.waitRing g.1 r (x.ringSlot o g.2) (x.ringPhase o g.2) ((x.tids g.2).map fun t => t.2))
           (fun s => s) s) x.s
       x.finishWait s waits)

/-! ### Packets that arrive (WRINGER_ARRIVAL) -/

/-- The illegal-convergence trap of an arrival that finds the barrier changed since it was sent. -/
def State.arrivalTrap (s : State) (p : Packet) (lane : Nat) : State :=
  s.takeTrap (s.record p.ctx 3 0 0x05 p.core p.slot lane p.pc.toNat 0 p.mask)

/-- A request to wait at a barrier reaches the home core: threads whose arrival is of the phase in progress go on waiting, the
others pass, PEND cleared (R367). -/
def State.waitAsked (s : State) (ctx cl bid b : Nat) (ts : List Nat) : State :=
  match s.block? ctx cl bid with
  | none => s
  | some bl =>
    let pass := ts.filter fun t => !(bl.bar b).pending bid t
    let k := pass.foldl (fun (k : Bar) t => k.clear bid t) (bl.bar b)
    (s.modBlock ctx cl bid fun bl => { bl with bars := setAt bl.bars b k }).releaseWhere fun w l =>
      w.ofCluster ctx cl && l.bid == bid && l.status == .waiting (.bar b) && pass.contains l.tid

/-- The same at the cluster barrier, threads by block and index (R370). -/
def State.cwaitAsked (s : State) (ctx cl : Nat) (ts : List (Nat × Nat)) : State :=
  match s.cluster? ctx cl with
  | none => s
  | some c =>
    let pass := ts.filter fun t => !c.cbar.pending t.1 t.2
    let k := pass.foldl (fun (k : Bar) t => k.clear t.1 t.2) c.cbar
    (s.modCluster ctx cl fun c => { c with cbar := k }).releaseWhere fun w l =>
      w.ofCluster ctx cl && l.status == .waiting .cbar && pass.contains (l.bid, l.tid)

/-- A request to wait for a phase of a ring slot reaches the home core: where the bit has it, the threads pass (R372, R373). -/
def State.ringAsked (s : State) (ctx cl bid r slot : Nat) (phase : Bool) (ts : List Nat) : State :=
  match s.block? ctx cl bid with
  | none => s
  | some bl =>
    if bl.ringBit r slot == phase then
      s.releaseWhere fun w l => w.ofCluster ctx cl && l.bid == bid && l.status == .waiting (.ring r slot phase) && ts.contains l.tid
    else s

/-- What a packet does at the core it reaches; an engine-queue entry joins the queue of its core in arrival order
(R288). -/
def State.arrived (s : State) (p : Packet) : State :=
  match p.what with
  | .arrive bid b c ts =>
    match s.block? p.ctx p.cluster bid with
    | none => s
    | some bl =>
      match bl.barBad b c ts with
      | some i => s.arrivalTrap p (i.getD ((lanesOf p.mask).headD 0))
      | none => s.barArrive p.ctx p.cluster bid b c ts
  | .carrive ts =>
    match s.cluster? p.ctx p.cluster with
    | none => s
    | some c =>
      match ts.find? fun t => c.cbar.pending t.2.1 t.2.2 with
      | some t => s.arrivalTrap p t.1
      | none => s.cbarArrive p.ctx p.cluster ts
  | .waitBar bid b ts => s.waitAsked p.ctx p.cluster bid b (ts.map fun t => t.2)
  | .exits bid ts => s.blockExits p.ctx p.cluster bid ts
  | .waitCbar ts => s.cwaitAsked p.ctx p.cluster (ts.map fun t => t.2)
  | .cexits n => s.clusterExits p.ctx p.cluster n
  | .ringPost bid r slot => s.postRing p.ctx p.cluster bid r slot
  | .waitRing bid r slot phase ts => s.ringAsked p.ctx p.cluster bid r slot phase ts
  | .group5 e => { s with g5 := s.g5 ++ [e] }

/-- WRINGER_ARRIVAL (R288, R369, R370, R372): the oldest packet from one core to another arrives. -/
def execWringerArrival (msg : Nat) (s : State) : Result :=
  .next (match s.packets.find? fun p => p.id == msg with
    | none => s
    | some p =>
      if s.packets.any fun (q : Packet) => decide (q.id < msg) && q.core == p.core && q.dst == p.dst then s
      else State.arrived { s with packets := s.packets.filter fun q => q.id != msg } p)

/-! ### msend (R375, R376) -/

/-- A signed byte. -/
def signedByte (x i : Nat) : Int := signedOf 8 (x / 256 ^ i)

/-- The destination column and row of a lane's message, relative to the cluster. -/
def Iss.msgDest (x : Iss) (o : ROps) (i : Nat) : Int × Int :=
  let t := x.readB i o.b 1
  (((coreCol x.w.core - x.c.ox : Nat) : Int) + signedByte t 0, ((coreRow x.w.core - x.c.oy : Nat) : Int) + signedByte t 1)

/-- Does the message of the lane fault (R375)? -/
def Iss.msgFault (x : Iss) (o : ROps) (i : Nat) : Bool :=
  let d := x.msgDest o i
  !(decide (0 ≤ d.1) && decide (d.1 < x.l.cw) && decide (0 ≤ d.2) && decide (d.2 < x.l.ch)) || x.l.nh == 0 ||
    x.l.htab.getD (o.mod.extractLsb' 0 6).toNat 0 == 0

/-- The ordinal of the destination core. -/
def Iss.msgOrd (x : Iss) (o : ROps) (i : Nat) : Nat :=
  let d := x.msgDest o i
  d.2.toNat * x.l.cw + d.1.toNat

/-- Allowances a core has taken towards another (R376). -/
def Cluster.taken (c : Cluster) (src dst : Nat) : Nat :=
  match c.allow.find? fun a => a.1 == src && a.2.1 == dst with
  | some a => a.2.2
  | none => 0

/-- Change the number of allowances taken. -/
def Cluster.setTaken (c : Cluster) (src dst n : Nat) : Cluster :=
  let rest := c.allow.filter fun a => !(a.1 == src && a.2.1 == dst)
  { c with allow := if n == 0 then rest else rest ++ [(src, dst, n)] }

/-- `%msrc` of a message (Table 5). -/
def Iss.msrcOf (x : Iss) (i : Nat) : Word :=
  BitVec.ofNat 32 ((coreRow x.w.core - x.c.oy) * 2 ^ 26 + (coreCol x.w.core - x.c.ox) * 2 ^ 22 +
    (x.lane i).bid % 4096 * 2 ^ 10 + (x.lane i).tid % 1024)

/-- The message of one lane. -/
def Iss.message (x : Iss) (o : ROps) (s : State) (i : Nat) : State :=
  let n := (o.mod.extractLsb' 6 4).toNat
  let m : Msg :=
    { id := s.nextId, ctx := x.w.ctx, cluster := x.w.cluster, src := x.c.ordinal x.l x.w.core, dst := x.msgOrd o i,
      h := (o.mod.extractLsb' 0 6).toNat, payload := splitWords (x.read i o.a n) n, msrc := x.msrcOf i,
      dev := o.mod.getLsbD 10, pc := x.pc, lane := i, slot := x.w.slot, core := x.w.core, arrived := false }
  { s with msgs := s.msgs ++ [m], nextId := s.nextId + 1 }

/-- The executing lanes of `msend` that have still to take an allowance (R376). -/
def Iss.unsent (x : Iss) : List Nat :=
  let took := match x.w.holdAt x.pc with
    | some (.msend m) => lanesOf m
    | _ => []
  x.ex.filter fun i => !took.contains i

/-- Do the allowances that an `msend` needs exceed the 32 of a destination (R376)? -/
def Iss.msendShort (x : Iss) (o : ROps) : Bool :=
  let dsts := x.unsent.map fun i => x.msgOrd o i
  dsts.any fun d => decide (32 < x.c.taken (x.c.ordinal x.l x.w.core) d + (dsts.filter (· == d)).length)

def execMsend (g : Guard) (o : ROps) (s : State) : Result :=
  let n := (o.mod.extractLsb' 6 4).toNat
  issue g s ((o.a, n) :: o.b.use 1)
    (fun x => match o.a with
      | .v q => n == 0 || decide (q.toNat + n ≤ x.l.nreg)
      | _ => true) false fun x =>
    x.afterAcquire
      (x.blockOnly
        (match x.ex.find? fun i => x.msgFault o i with
         | some i => x.trapLane 0x11 i (x.readB i o.b 1)
         | none =>
           let src := x.c.ordinal x.l x.w.core
           if x.msendShort o then x.hold
           else
             let dsts := x.unsent.map fun i => x.msgOrd o i
             let s := x.s.modCluster x.w.ctx x.w.cluster fun c =>
               dsts.foldl (fun (c : Cluster) d => c.setTaken src d (c.taken src d + 1)) c
             if x.fenced (if o.mod.getLsbD 10 then 2 else 1) then
               x.finishWait (x.ex.foldl (fun s i => x.message o s i) s) []
             else s.modWarp x.w.core x.w.slot fun w => w.setHold x.pc (.msend (maskOf x.ex))))

/-- MESSAGE_ARRIVAL (R377): a message joins the pending list of its destination, behind those its source core sent
there before. -/
def execMessageArrival (msg : Nat) (s : State) : Result :=
  .next (match s.msgs.find? fun m => m.id == msg && !m.arrived with
    | none => s
    | some m =>
      if s.msgs.any fun (q : Msg) => decide (q.id < msg) && !q.arrived && q.ctx == m.ctx && q.cluster == m.cluster &&
          q.src == m.src && q.dst == m.dst then s
      else { s with msgs := (s.msgs.filter fun q => q.id != msg) ++ [{ m with arrived := true }] })

/-! ### Handler warps (R374, R377, R378) -/

/-- The lowest slot of a core that no warp holds. -/
def State.freeSlot (s : State) (core : Nat) : Option Nat :=
  (List.range 64).find? fun i => (s.warp? core i).isNone

/-- Registers of a core that its warps hold (R112). -/
def State.regsUsed (s : State) (core : Nat) : Nat :=
  ((s.warps.filter fun w => w.core == core).map fun w => 32 * w.nreg).foldl (· + ·) 0

/-- A thread at its start: registers zero but for those given, at the entry `pc` (R113, R243, R267). -/
def Lane.start (nreg : Nat) (pc : VAddr) (v : List Word) (uid bid tid : Nat) (msrc : Word) (now : Nat) : Lane :=
  { status := .runnable, pc := pc, v := v ++ List.replicate (nreg - v.length) 0, p := 0, frames := [], rpc := pc,
    rsnap := [], rcnt := 0, uid := uid, bid := bid, tid := tid, key := 0, withdrawn := false, msrc := msrc, vis := 0,
    pw := 0, mc := 0, dgt := 0, seenGt := 0, lastIssue := now, atPpoint := false }

/-- A warp at its formation (R113, R81, R111): no current path until it is refreshed, nothing counted, nothing enrolled.
Each live lane reached its PC at the entry given, which is still to be checked (R35). -/
def Warp.formed (s : State) (core slot ctx cluster wid stage : Nat) (kind : WarpKind) (lanes : List Lane)
    (entry : Option VAddr) : Warp :=
  let n := s.forms.getD core 0
  let live := (List.range 32).filter fun i => (lanes.getD i Lane.dead).status == .runnable
  Warp.refresh
    { core := core, slot := slot, ctx := ctx, cluster := cluster, kind := kind, wid := wid, stage := stage, form := n,
      nreg := (match s.launch? ctx with
        | some l => l.nreg
        | none => 0),
      lanes := lanes ++ List.replicate (32 - lanes.length) Lane.dead, k := List.replicate 32 0,
      cb := List.replicate 16 (0, 0), fstat := 0, cpstat := 0, cur := none, since := [], turnStart := s.cycle, ops := [],
      hold := [], holds := [], ages := [],
      chk := match entry with
        | some e => live.map fun i => (i, e, e.toNat)
        | none => [],
      stopped := none, brk := false, brkAt := 0, stallMask := 0, fresh := true } s.cycle

/-- Add a warp to a core, which stamps it (R81). -/
def State.addWarp (s : State) (w : Warp) : State :=
  { s with warps := s.warps ++ [w], forms := modAt s.forms w.core (· + 1) }

/-- The pending messages of a cluster at a core. -/
def State.pendingMsgs (s : State) (c : Cluster) (l : Launch) (core : Nat) : List Msg :=
  s.msgs.filter fun m => m.ctx == c.ctx && m.cluster == c.idx && m.arrived && m.dst == c.ordinal l core

/-- May the core form a handler warp of the cluster: it has pending messages there, and a free one of the NH handler warps that the
cluster reserved there, with its registers (R112, R374, R377)? -/
def State.formsHandler (s : State) (core : Nat) (c : Cluster) : Bool :=
  match s.launch? c.ctx with
  | some l =>
    l.run == .live && !s.vectorStopped c.ctx && !c.retired && (c.cores l).contains core && !(s.pendingMsgs c l core).isEmpty &&
      decide ((s.warps.filter fun w => w.core == core && w.ctx == c.ctx && w.cluster == c.idx && w.kind == .handler).length < l.nh) &&
      decide (s.regsUsed core + 32 * l.nreg ≤ 65536)
  | none => false

/-- HANDLER_WARP_FORM (R377): the core takes up to 32 pending messages of the oldest one's handler. -/
def execHandlerWarpForm (core : Nat) (s : State) : Result :=
  .next (match s.clusters.find? (s.formsHandler core) with
    | none => s
    | some c =>
      match s.launch? c.ctx, s.freeSlot core with
      | some l, some slot =>
        match s.pendingMsgs c l core with
        | [] => s
        | m0 :: ms =>
          let take := ((m0 :: ms).filter fun m => m.h == m0.h).take 32
          let e : VAddr := BitVec.ofNat 57 (l.htab.getD m0.h 0)
          let lanes := take.mapIdx fun i m => Lane.start l.nreg e m.payload (s.nextId + i) i i m.msrc s.cycle
          let w := Warp.formed s core slot c.ctx c.idx 0xFFFFFFFF 0 .handler lanes (some e)
          let s := { s with msgs := s.msgs.filter fun m => !(take.contains m), nextId := s.nextId + take.length }
          let s := s.modCluster c.ctx c.idx fun c =>
            take.foldl (fun (c : Cluster) m => c.setTaken m.src m.dst (c.taken m.src m.dst - 1)) c
          s.addWarp w
      | _, _ => s)

/-! ### snooze (R107) -/

/-- SNOOZE_EXPIRY: the lanes whose count has run out become runnable at the next slot. -/
def execSnoozeExpiry (core slot : Nat) (s : State) : Result :=
  .next (s.releaseWhere fun w l => w.core == core && w.slot == slot && (match l.status with
    | .waiting (.snooze t) => decide (t ≤ s.cycle)
    | _ => false))

end Sys2Proof.Machine
end

