-- ==== Sys2Proof/Machine/Engine.lean ====
section
/-! DEFINITION. What the matrix engine and the copy engine share: addresses resolved and translated range by range (R302,
R328), reads and writes at the homes (R276), and when an engine runs (R288, R400, R411). -/

namespace Sys2Proof.Machine

open Sys2Proof

/-- May the engines work for the context: it is not halted, and no stop has been told to its engines (R400, R411)? An
operation that outlives its launch goes on (R80). -/
def State.engineRuns (s : State) (ctx : Nat) : Bool :=
  match s.launch? ctx with
  | some l => l.run != .halted && !s.vectorStopped ctx && !s.stopped
  | none => !s.stopped

/-- Has the operation outlived its launch? -/
def CopyOp.orphan (c : CopyOp) : Bool := decide (goneCluster ≤ c.cluster)

/-- The translator of an engine operation: the core, the context and the cluster. -/
def State.engineWho (s : State) (core ctx cluster : Nat) : Who :=
  { core := core, ctx := ctx,
    super := (match s.launch? ctx with
      | some l => l.super
      | none => false),
    cl := (match s.cluster? ctx cluster, s.launch? ctx with
      | some c, some l => some (c, l)
      | _, _ => none) }

/-- The block whose SRAM an engine operation reaches: the context, cluster, `%bid` and reserved bytes. -/
structure OwnBlock where
  ctx : Nat
  cluster : Nat
  bid : Nat
  size : Nat
  deriving DecidableEq, Repr

/-- Resolution and translation of one piece: block SRAM by offset (`direct`), else under Table 3 as for SP = 0. -/
def State.engPlace (s : State) (w : Who) (b : OwnBlock) (direct : Bool) (a n : Nat) (write : Bool) : Xlat :=
  let bs := fieldAt (s.bank w.ctx).bsbase 56 19
  let own := fun (o : Nat) =>
    if o + n ≤ b.size then
      Xlat.ok { tgt := .sram b.ctx b.cluster b.bid o, hc := 3, tag := 0, sealed := false, tlb := none }
    else .violation
  if direct then own a
  else if 2 ^ 57 ≤ a then .violation
  else if bs ≤ a ∧ a < bs + 0x80000 then own (a - bs)
  else s.translate w a write

/-- The pieces of a byte range, none crossing a 128-byte line. -/
def linePieces (a n : Nat) : Nat → List (Nat × Nat)
  | 0 => []
  | fuel + 1 =>
    if n == 0 then []
    else
      let k := min n (128 - a % 128)
      (a, k) :: linePieces (a + k) (n - k) fuel

/-- The pieces of a range. -/
def rangePieces (a n : Nat) : List (Nat × Nat) := linePieces a n (n / 128 + 2)

/-- The translation of a range: what is mapped, the faults (address and kind, the first of each page), and the first
address that fails. -/
structure RangeMap where
  s : State
  ok : List Piece
  faults : List (Nat × Nat)
  bad : Option Nat
  deriving DecidableEq, Repr

/-- How an engine places `n` bytes at an address. -/
abbrev Placer := State → Nat → Nat → Xlat

/-- The base of the page that a faulting address lies in, or of its 64 KiB unit where the table maps none: one record is
posted for each (R328). -/
def State.faultPage (s : State) (ctx va : Nat) : Nat :=
  match s.walk ctx va with
  | .leaf _ size => va / size * size
  | _ => va / 65536 * 65536

/-- One fault for each page, the first. -/
def State.onePerPage (s : State) (ctx : Nat) (fs : List (Nat × Nat)) : List (Nat × Nat) :=
  fs.foldl (fun out f => if out.any fun g => s.faultPage ctx g.1 == s.faultPage ctx f.1 then out else out ++ [f]) []

/-- Translate one more piece. -/
def mapPiece (ctx : Nat) (f : Placer) (r : RangeMap) (p : Nat × Nat) : RangeMap :=
  if r.bad.isSome then r
  else
    match f r.s p.1 p.2 with
    | .ok m => { r with s := r.s.learn (.ok m), ok := r.ok ++ [{ va := p.1, n := p.2, m := m }] }
    | .fault k => { r with faults := r.s.onePerPage ctx (r.faults ++ [(p.1, k)]) }
    | .violation => { r with bad := some p.1 }

/-- Translate pieces in order. -/
def State.mapPieces (s : State) (ctx : Nat) (f : Placer) (ps : List (Nat × Nat)) : RangeMap :=
  ps.foldl (mapPiece ctx f) { s := s, ok := [], faults := [], bad := none }

/-- The same for the matrix engine and tile loader. -/
def State.engMap (s : State) (w : Who) (b : OwnBlock) (direct write : Bool) (ps : List (Nat × Nat)) : RangeMap :=
  s.mapPieces w.ctx (fun s a n => s.engPlace w b direct a n write) ps

/-- Where a translated piece lies now (R227). -/
def State.pieceTarget (s : State) (ctx : Nat) (p : Piece) : Target :=
  match p.m.tgt with
  | .line d => .line (s.forward ctx p.va d)
  | t => t

/-- The bytes of translated pieces, read at their homes. -/
def State.engRead (s : State) (ctx : Nat) (ps : List Piece) : List Byte :=
  ps.flatMap fun p => s.homeRead (s.pieceTarget ctx p) p.n

/-- Does a piece hold a poisoned sector (R431)? -/
def State.engPoison (s : State) (ctx : Nat) (ps : List Piece) : Bool :=
  ps.any fun p => s.poisonedAt (s.pieceTarget ctx p) p.n

/-- Reads fill their lines at the slices (R217). -/
def State.engTouch (s : State) (ctx : Nat) (ps : List Piece) : State :=
  ps.foldl (fun s p => match s.pieceTarget ctx p with
    | .line d => s.touchLine d ctx p.m.tag p.m.hc false
    | _ => s) s

/-- Write bytes over translated pieces at their homes; the latest W (R266). -/
def State.engWrite (s : State) (ctx meas : Nat) : List Piece → List Byte → Nat → State × Nat
  | [], _, w => (s, w)
  | p :: ps, bs, w =>
    let t := s.pieceTarget ctx p
    let c := s.completion t
    State.engWrite (s.homeWrite t ctx p.m.tag p.m.hc p.m.sealed meas (bs.take p.n)) ctx meas ps (bs.drop p.n) (max w c)

/-- The part of translated pieces from byte `lo` to byte `hi - 1` of them all. -/
def slicePieces : List Piece → Nat → Nat → List Piece
  | [], _, _ => []
  | p :: ps, lo, hi =>
    if hi ≤ lo then []
    else if p.n ≤ lo then slicePieces ps (lo - p.n) (hi - p.n)
    else
      { va := p.va + lo, n := min p.n hi - lo, m := { p.m with tgt := p.m.tgt.plus lo } } :: slicePieces ps 0 (hi - p.n)

/-- The bytes of translated pieces, each with whether its sector is poisoned. -/
def State.engMarked (s : State) (ctx : Nat) (ps : List Piece) : List (Byte × Bool) :=
  ps.flatMap fun p =>
    let t := s.pieceTarget ctx p
    (s.homeRead t p.n).mapIdx fun j b => (b, s.poisonedAt (t.plus j) 1)

/-- Write marked bytes over translated pieces, in order: a poisoned byte makes the sector that it is written to poison (R226, R331),
and a later piece that covers the sector whole clears it again. The latest W. -/
def State.engPut (s : State) (ctx meas : Nat) : List Piece → List (Byte × Bool) → Nat → State × Nat
  | [], _, w => (s, w)
  | p :: ps, bs, w =>
    let now := bs.take p.n
    let r := s.engWrite ctx meas [p] (now.map fun b => b.1) w
    let bad := ((now.mapIdx fun j b => (j, b.2)).filter fun b => b.2).map fun b => ((s.pieceTarget ctx p).plus b.1).sector
    State.engPut (bad.dedup.foldl State.markBad r.1) ctx meas ps (bs.drop p.n) r.2

/-- The accesses to pages that operations have translated and still make: context and piece (R227, R241, R278). -/
def State.openPieces (s : State) : List (Nat × Piece) :=
  s.copyOps.flatMap fun (c : CopyOp) => ((c.mapA ++ c.mapB).filter fun p => !p.m.tgt.isSram).map fun p => (c.ctx, p)

/-- Does an operation take one of the 32 places of its engine's queue, until it retires? `rstrp` and `discard` are no operations
of the copy engine's queue (R325; assumption 10). -/
def CopyOp.inQueue (c : CopyOp) : Bool := c.opk != 6 && c.opk != 7

/-- Operations in a core's queue (14 Table 1). -/
def State.copyQueue (s : State) (core : Nat) : List CopyOp :=
  s.copyOps.filter fun (c : CopyOp) => c.core == core && c.inQueue

/-- Has it ended? -/
def CopyOp.ended (c : CopyOp) : Bool :=
  match c.st with
  | .finished _ _ => true
  | _ => false

/-- Has a thread of the list a write whose W has not returned (R276)? -/
def State.writesOut (s : State) (uids : List Nat) : Bool :=
  (s.warps.any fun w => w.lanes.any fun l => uids.contains l.uid && l.status != .departed && l.pw != 0)

/-- Has the warp an older operation of the class that is not complete? Operations of a class retire in issue order (R193). -/
def State.olderOpen (s : State) (core slot id : Nat) (cls : OpClass) : Bool :=
  match s.warp? core slot with
  | some w => w.ops.any fun (o : OutOp) => o.cls == cls && decide (o.id < id) && o.left != 0
  | none => false

/-- The oldest operation of a warp's CP class that is not complete. -/
def State.oldestCp (s : State) (core slot : Nat) : Option Nat :=
  (s.warp? core slot).bind fun w => (w.ops.find? fun (o : OutOp) => o.cls == .cp && o.left != 0).map fun o => o.id

/-- Mark an operation of a warp complete, with its status and W, and retire what can retire. -/
def State.completeOp (s : State) (core slot op : Nat) (cpstat : Option Word) (w : Nat) (trapAddr : Option Nat) : State :=
  State.retire (s.modWarp core slot fun wp =>
    { wp with ops := wp.ops.map fun o =>
        if o.id == op then { o with left := 0, cpstat := cpstat, w := w, trapAddr := trapAddr } else o }) core slot

end Sys2Proof.Machine
end

