-- ==== Sys2Proof/Machine/Array.lean ====
section
/-! DEFINITION. The arithmetic of the matrix array: one cell's k-step under every Masala entry and numerics version
(R293 to R295, R312 to R316), the element types of operands (R283, R285), and the conversions of `tld` and `tst` (R301). -/

namespace Sys2Proof

/-- Is the type a float? -/
def Ty.isFloat (t : Ty) : Bool := t == .f32 || t == .f16 || t == .bf16

end Sys2Proof

namespace Sys2Proof.Machine

open Sys2Proof

/-! ### Layout -/

/-- k consecutive elements per k-step, by A type (R284, R310). -/
def kstepOf (ty : Ty) : Nat :=
  match ty with
  | .s8 | .n8 | .dt8 => 32
  | .b1 => 128
  | _ => 16

/-- Bytes of a panel (R285). -/
def panelBytes (ty : Ty) : Nat :=
  match ty with
  | .f32 => 4096
  | .b1 => 1024
  | _ => 2048

/-- Bytes of an element of a type, 0 for b1. -/
def elemBytes (ty : Ty) : Nat :=
  match ty with
  | .f32 => 4
  | .f16 | .bf16 => 2
  | .b1 => 0
  | _ => 1

/-- Element m of a row of elements. -/
def rowElem (ty : Ty) (bs : List Byte) (m : Nat) : Nat :=
  if ty == .b1 then (if (bs.getD (m / 8) 0).getLsbD (m % 8) then 1 else 0)
  else bytesToNat ((bs.drop (m * elemBytes ty)).take (elemBytes ty))

/-- The rows of a panel: 64 lists of ks elements (R285). -/
def panelRows (ty : Ty) (bs : List Byte) : List (List Nat) :=
  let r := panelBytes ty / 64
  (List.range 64).map fun i =>
    let row := (bs.drop (i * r)).take r
    (List.range (kstepOf ty)).map (rowElem ty row)

/-! ### Masala entries (R309 to R313) -/

/-- The identity of an entry in a tile type; none where it has none (Table 3 of 13_semirings_and_sparsity). -/
def identity (opt : Nat) (s32 : Bool) : Option Word :=
  match opt, s32 with
  | 0, _ => some 0
  | 4, true => some 0
  | 1, false => some 0x7F800000
  | 2, false => some 0xFF800000
  | 3, false => some 0
  | 5, false => some 0xFF800000
  | 6, false => some 0x7F800000
  | _, _ => none

/-- Is the combination of entry, A type, B type and tile type in Table 4 or Table 2 (R284, R310)? -/
def comboOk (opt : Nat) (a b : Ty) (s32 : Bool) : Bool :=
  let i8 := fun (t : Ty) => t == .s8 || t == .n8
  if opt == 0 then
    (!s32 && a == b && (a == .f16 || a == .bf16 || a == .f32)) || (s32 && i8 a && i8 b) || (!s32 && i8 a && b == .dt8)
  else if opt == 4 then s32 && a == .b1 && b == .b1
  else decide (opt ≤ 6) && !s32 && a == b && (a == .f16 || a == .bf16 || a == .f32)

/-- A stored element is an annihilator of its entry (R323). -/
def annihilator (opt : Nat) (ty : Ty) (x : Nat) : Bool :=
  match ty with
  | .f16 | .bf16 | .f32 =>
    let f := fmtOf ty
    if opt == 1 || opt == 6 then x == f.inf false
    else if opt == 2 || opt == 5 then x == f.inf true
    else x == 0 || x == f.signBit
  | _ => x == 0

/-- A float element as the array reads it: version 1 reads BF16 subnormals as zeros (R295). -/
def arrayVal (nbv : Nat) (ty : Ty) (x : Nat) : FVal :=
  match (fmtOf ty).val x with
  | .fin n m e => if nbv == 1 && ty == .bf16 && decide (m < 2 ^ 7) then .fin n 0 e else .fin n m e
  | v => v

/-- A pair of operands of one cell; none where the skip map removes it (R319). -/
abbrev Pair := Option (FVal × FVal)

/-- The invalid flag of signalling operands. -/
def sigs (ps : List (FVal × FVal)) : Flags := ps.foldl (fun m p => m ||| p.1.sig ||| p.2.sig) Flags.none

/-- t + S for an exact finite S = u·2^e, a cell of f32 (R293): a NaN t is canonical, a zero S leaves t. -/
def addExact (t : Nat) (u e : Int) : Nat × Flags :=
  let tv := Fmt.f32.val t
  if tv.isNan then (Fmt.f32.nanBits, tv.sig)
  else if u = 0 then (t, Flags.none)
  else Fmt.f32.sum 3 .rne false [tv, .fin (decide (u < 0)) u.natAbs e]

/-- Entry 0 on an f32 cell under V = 3 (R293, R314). -/
def cell3 (t : Nat) (ps : List Pair) : Nat × Flags :=
  let ts := ps.filterMap id
  if ts.isEmpty then (t, Flags.none)
  else
    let tv := Fmt.f32.val t
    let prods := ts.filterMap fun p => p.1.mul p.2
    let infs := prods.filter FVal.isInf
    let bad := decide (prods.length < ts.length) || (infs.any FVal.neg && infs.any fun v => !v.neg)
    let fl := sigs ts ||| tv.sig ||| (if bad then Flags.nv else Flags.none)
    if tv.isNan || bad || prods.any FVal.isNan then (Fmt.f32.nanBits, fl)
    else
      match infs with
      | v :: _ => Fmt.f32.sum 3 .rne false [tv, v]
      | [] =>
        let q := exactSum prods
        let r := addExact t q.1 q.2
        (r.1, r.2 ||| fl)

/-- A DT8 k-step of a cell (R315, R316): Q in units of 2^(e − 133), the scale byte e consulted where there are terms. -/
def cellDt8 (t : Nat) (scale : Nat) (ts : List (Int × Nat)) : Nat × Flags :=
  if ts.isEmpty then (t, Flags.none)
  else if scale == 0xFF then (Fmt.f32.nanBits, Flags.nv)
  else addExact t (ts.foldl (fun q p => q + p.1 * dtUnits p.2) 0) ((scale : Int) - 133)

/-- An integer k-step of a cell (R293): wrap32(t + S). -/
def cellInt (t : Nat) (ts : List (Int × Int)) : Nat :=
  wrapN 32 (signedOf 32 t + ts.foldl (fun q p => q + p.1 * p.2) 0)

/-- A product rounded to f32, flushed (R294). -/
def roundProduct (p : FVal × FVal) : Nat × Flags :=
  match p.1.mul p.2 with
  | none => (Fmt.f32.nanBits, Flags.nv)
  | some v =>
    let r := Fmt.f32.sum 1 .rne false [v]
    (r.1, r.2 ||| p.1.sig ||| p.2.sig)

/-- An addition rounded to f32, flushed (R294); its inputs are read as they are. -/
def addFlush (a b : Nat × Flags) : Nat × Flags :=
  let r := Fmt.f32.sum 1 .rne false [Fmt.f32.val a.1, Fmt.f32.val b.1]
  (r.1, a.2 ||| b.2 ||| r.2)

/-- One level of the pairwise tree. -/
def treeLevel : List (Nat × Flags) → List (Nat × Flags)
  | a :: b :: rest => addFlush a b :: treeLevel rest
  | xs => xs

/-- Entry 0 on an f32 cell under V = 2 (R294): 16 products, a skipped one +0. -/
def cell2 (t : Nat) (ps : List Pair) : Nat × Flags :=
  let q := ps.map fun p => match p with
    | some p => roundProduct p
    | none => (0, Flags.none)
  let r := treeLevel (treeLevel (treeLevel (treeLevel q)))
  addFlush (t, Flags.none) (r.headD (0, Flags.none))

/-- Entry 0 on an f32 cell under V = 1 (R295): the terms in ascending k. -/
def cell1 (t : Nat) (ps : List Pair) : Nat × Flags :=
  (ps.filterMap id).foldl (fun acc p => addFlush acc (roundProduct p)) (t, Flags.none)

/-- The combine of entries 1, 2, 3, 5 and 6 on values that are no NaN (Table 4 of 13_semirings_and_sparsity). -/
def combineOf (opt : Nat) (a b : FVal) : Option FVal :=
  if opt == 1 || opt == 2 then
    match a, b with
    | .inf n, .inf k => some (.inf (if n == k then n else opt == 2))
    | .inf n, _ => some (.inf n)
    | _, .inf k => some (.inf k)
    | x, y =>
      let t := exactSum [x, y]
      some (if t.1 = 0 then .fin (zeroSign .rne [x, y]) 0 0 else .fin (decide (t.1 < 0)) t.1.natAbs t.2)
  else if opt == 3 then a.mul b
  else if opt == 5 then some (if b.before a then b else a)
  else some (if a.before b then b else a)

/-- Entries 1, 2, 3, 5 and 6 on an f32 cell (R312). -/
def cellSemi (opt t : Nat) (ps : List Pair) : Nat × Flags :=
  let ts := ps.filterMap id
  if ts.isEmpty then (t, Flags.none)
  else
    let tv := Fmt.f32.val t
    if tv.isNan || ts.any fun p => p.1.isNan || p.2.isNan then (Fmt.f32.nanBits, sigs ts ||| tv.sig)
    else
      let xs := ts.filterMap fun p => combineOf opt p.1 p.2
      if xs.length < ts.length then (Fmt.f32.nanBits, Flags.nv)
      else
        let least := opt == 1 || opt == 6
        let m := xs.foldl (fun m v => if least then (if v.before m then v else m) else (if m.before v then v else m)) tv
        floatToFloat .f32 3 .rne false m

/-- Entry 4 (R312): and-or on a cell of s32. -/
def cellAndOr (t : Nat) (ts : List (Nat × Nat)) : Nat := if ts.any fun p => p.1 == 1 && p.2 == 1 then t.lor 1 else t

/-! ### One k-step of one cell -/

/-- The step() of R292: entry, numerics version, types, the cell, the scale byte, and the pairs of raw elements with their
skip. -/
def cellStep (opt nbv : Nat) (ta tb : Ty) (s32 : Bool) (t scale : Nat) (ps : List (Nat × Nat × Bool)) : Nat × Flags :=
  let live := ps.filterMap fun p => if p.2.2 then none else some (p.1, p.2.1)
  if opt == 4 then (cellAndOr t live, Flags.none)
  else if s32 then (cellInt t (live.map fun p => (ta.int p.1, tb.int p.2)), Flags.none)
  else if tb == .dt8 then cellDt8 t scale (live.map fun p => (ta.int p.1, p.2))
  else
    let pairs := ps.map fun p => if p.2.2 then none else some (arrayVal nbv ta p.1, arrayVal nbv tb p.2.1)
    if opt == 0 then (if nbv == 3 then cell3 t pairs else if nbv == 2 then cell2 t pairs else cell1 t pairs)
    else cellSemi opt t pairs

/-! ### Conversions of `tld` and `tst` (R301) -/

/-- One element, raw in `src`, times 2^SC, as raw `dst` bits; the flags, and whether it was clamped. -/
def tileConvert (src dst : Ty) (sc : Int) (sat : Bool) (x : Nat) : Nat × Flags × Bool :=
  let v : FVal := if src.isFloat then (fmtOf src).val x else
    let i := src.int x
    .fin (decide (i < 0)) i.natAbs 0
  if dst.isFloat then
    let f := fmtOf dst
    match v with
    | .nan g => (f.nanBits, (if g then Flags.nv else Flags.none), false)
    | .inf n => (f.inf n, Flags.none, false)
    | .fin n m e =>
      let r := f.round .rne sat n m (e + sc)
      (r.1, r.2, sat && r.2 &&& Flags.ovf != 0)
  else
    let w := dst.bits
    match v with
    | .nan _ => (0, Flags.nv, false)
    | .inf n => (wrapN w (if n then dst.lo else dst.hi), Flags.nv, true)
    | .fin n m e =>
      let u := roundUnits .rne n m (e + sc) 0
      let i : Int := if n then -(u.1 : Int) else u.1
      let nx := if u.2 then Flags.nx else Flags.none
      if i < dst.lo ∨ dst.hi < i then
        (if src.isFloat then (wrapN w (clampInt dst.lo dst.hi i), nx ||| Flags.nv, true)
         else if sat then (wrapN w (clampInt dst.lo dst.hi i), nx, true)
         else (wrapN w i, nx, false))
      else (wrapN w i, nx, false)

end Sys2Proof.Machine
end

