-- ==== Sys2Proof/Machine/Matrix.lean ====
section
/-! DEFINITION. The matrix engine (R280 to R308, R317 to R323): issue of group 5 instructions, the engine queue of a core,
the start of an entry, k-steps, completion and `%tstat`. -/

namespace Sys2Proof.Machine

open Sys2Proof

/-! ### Binding descriptors (R282, Table 3) -/

def bindBound (d : DWord) : Bool := d.getLsbD 63
def bindType (d : DWord) : Ty := (Ty.bindTypes.find? fun t => t.code == d.extractLsb' 58 5).getD .f32
def bindK (d : DWord) : Nat := (d.extractLsb' 32 18).toNat
def bindScale (d : DWord) : Nat := (d.extractLsb' 16 14).toNat
def bindBase (d : DWord) : Nat := (d.extractLsb' 0 14).toNat

/-- The descriptor that `pbind` writes. -/
def bindWord (ty : Ty) (k base sbase : Nat) : DWord :=
  1#1 ++ ty.code ++ 0#8 ++ BitVec.ofNat 18 k ++ 0#2 ++ BitVec.ofNat 14 sbase ++ 0#2 ++ BitVec.ofNat 14 base

/-- Bytes of `k` rows in a slice (R283). -/
def dataBytes (ty : Ty) (k : Nat) : Nat := if ty == .b1 then k / 8 else k * elemBytes ty

/-- The operand checks of `pbind` (R304), for a region of `region` bytes a slice. -/
def pbindOk (ty : Ty) (region base k sbase : Nat) : Bool :=
  decide (base < 2 ^ 14) && base % 64 == 0 && decide (1 ≤ k) && decide (k ≤ 131072) && k % kstepOf ty == 0 &&
    decide (base + dataBytes ty k ≤ region) &&
    (ty != .dt8 ||
      (sbase % 64 == 0 && decide (sbase + k / 32 ≤ region) &&
        (decide (sbase + k / 32 ≤ base) || decide (base + dataBytes ty k ≤ sbase))))

/-- Bytes of a block's press region in each slice (R280). -/
def Launch.region (l : Launch) : Nat := l.nprs * 1024

/-- Raw element (k, j) of a binding (R283). -/
def Block.pressElem (b : Block) (region : Nat) (ty : Ty) (base k j : Nat) : Nat :=
  let at_ := j * region + base
  if ty == .b1 then (if (b.press.get (at_ + k / 8)).getLsbD (k % 8) then 1 else 0)
  else bytesToNat (b.press.getN (at_ + k * elemBytes ty) (elemBytes ty))

/-! ### Tiles -/

/-- A tile that the block does not have; no instruction names one. -/
def Tile.zero : Tile :=
  { s32 := false, susp := false, prog := 0, rows := List.replicate 64 (List.replicate 128 0) }

/-- Tile `n` of a block. -/
def Block.tile (b : Block) (n : Nat) : Tile := b.tiles.getD n Tile.zero

/-- Every element of a tile takes a value. -/
def Tile.fill (t : Tile) (v : Word) : Tile := { t with rows := List.replicate 64 (List.replicate 128 v) }

/-- Binding `n` of a block. -/
def Block.bind (b : Block) (n : Nat) : DWord := b.binds.getD n 0

/-! ### Entries -/

/-- An entry's block. -/
def State.g5Block (s : State) (e : G5Entry) : Option Block := s.block? e.ctx e.cluster e.bid

/-- Apply a function to the block of an entry. -/
def State.modG5Block (s : State) (e : G5Entry) (f : Block → Block) : State := s.modBlock e.ctx e.cluster e.bid f

/-- Apply a function to tile ACC of an entry. -/
def State.modTile (s : State) (e : G5Entry) (f : Tile → Tile) : State :=
  s.modG5Block e fun b => { b with tiles := modAt b.tiles e.ops.acc.toNat f }

/-- Apply a function to the entry with a number. -/
def State.modEntry (s : State) (id : Nat) (f : G5Entry → G5Entry) : State :=
  { s with g5 := s.g5.map fun e => if e.id == id then f e else e }

/-- An entry has been performed whole: its flags, its latest W. -/
def G5Entry.finish (e : G5Entry) (fl : BitVec 8) (w : Nat) : G5Entry :=
  { e with st := .finished 0 0, flags := e.flags ||| fl, w := max e.w w }

/-- The class an entry counts in (R291, R298 to R305, R322). -/
def g5Class (opk : Nat) : OpClass :=
  if opk == 0 || opk == 1 || opk == 2 || opk == 5 then .mx else if opk == 3 then .st else if opk == 8 then .cp else .none

/-- Does the entry read memory, so that it waits for the older writes of its warp (R276, R306, R318)? -/
def g5Reads (opk : Nat) : Bool := opk == 0 || opk == 2 || opk == 5 || opk == 8

/-- Does it name a tile, does it name a binding? -/
def g5Tile (opk : Nat) : Bool := opk ≤ 4 || opk == 7
def g5Bind (opk : Nat) : Bool := opk == 0 || opk == 6 || opk == 8

/-- Bytes of the skip map of an entry (R317). -/
def skipBytes (o : XOps) : Nat := o.kst.toNat * kstepOf o.tya / 8

/-- A record of an engine fault, TYPE 7 or 8 (R253): it names the warp that issued the entry, lane 0. -/
def G5Entry.faultRec (e : G5Entry) (s : State) (typ : Nat) (f : Nat × Nat) : FaultRec :=
  let l := match s.warp? e.wcore e.slot with
    | some w => if w.form == e.form then w.lane 0 else Lane.dead
    | none => Lane.dead
  s.record e.ctx f.2 typ 0 e.wcore e.slot 0 f.1 l.rpc.toNat l.rcnt

/-- A trap that an entry raises at the engine (R290): the PC of the instruction and the mask of all 32 lanes. -/
def State.g5Trap (s : State) (e : G5Entry) (code aux : Nat) : State :=
  s.takeTrap (s.record e.ctx 3 0 code e.wcore e.slot 0 e.pc.toNat aux 0xFFFFFFFF)

/-- Hold an entry for its translation faults (R257, R302). -/
def State.g5Suspend (s : State) (e : G5Entry) (typ : Nat) (fs : List (Nat × Nat)) : State :=
  (s.modEntry e.id fun e => { e with st := .faulted (fs.map fun f => f.1) }).post (fs.map (e.faultRec s typ))

/-- The translator of an entry, and its block's SRAM. -/
def State.g5Who (s : State) (e : G5Entry) : Who := s.engineWho e.core e.ctx e.cluster
def State.g5Own (s : State) (e : G5Entry) : OwnBlock :=
  { ctx := e.ctx, cluster := e.cluster, bid := e.bid,
    size := match s.g5Block e with
      | some b => b.size
      | none => 0 }

/-! ### Issue (R286 to R288) -/

/-- Where an issued entry goes: the queue of its block's home core, over the wringer from another core (R288). -/
def Iss.enqueue (x : Iss) (s : State) (e : G5Entry) : State :=
  x.atCore e.core (.group5 e) (fun s => { s with g5 := s.g5 ++ [e] }) s

/-- Every rule of R286 holds. -/
def Iss.wholeWarp (x : Iss) : Bool :=
  x.w.kind != .handler && x.act.length == 32 && x.ex.length == 32 && x.ex.all fun i => (x.lane i).bid == (x.lane 0).bid

/-- The operand checks that a lane-0 register can fail at issue (R285, R300, R318): the second address of the trap. A base is
judged by Table 3's resolution alone; what its translation meets the engine finds (R302). -/
def Iss.g5Bad (x : Iss) (o : XOps) (opk a r : Nat) : Option Nat :=
  let size := x.sramSize 0
  let bs := fieldAt (x.s.bank x.w.ctx).bsbase 56 19
  let baseOk := if o.asrc == 0 then decide (a < size) else !(decide (bs + size ≤ a) && decide (a < bs + 0x80000))
  if opk == 0 || opk == 5 then
    if a % 128 != 0 || (o.asrc == 0 && decide (size < a + o.kst.toNat * panelBytes o.tya)) || !baseOk then some a
    else if o.skp != .z && decide (size < r + skipBytes o) then some r
    else none
  else if opk == 2 || opk == 3 then
    let w := elemBytesOf o.tya
    if a % w != 0 || r % w != 0 || (o.asrc == 0 && decide (size < a + 63 * r + 128 * w)) || !baseOk then some a else none
  else none
where
  /-- Bytes of a memory type of `tld` and `tst`. -/
  elemBytesOf (t : Ty) : Nat := t.bits / 8

/-- Numbers of the registers that a group 5 instruction names, for the wait of R177. -/
def g5Uses (opk : Nat) (o : XOps) : List RegUse :=
  [(o.aop, if opk == 4 then (if o.mod.getLsbD 1 then 2 else 4) else if o.asrc == 1 then 2 else 1), (o.skp, 1)]

/-- Elements that a `tmov.put` carries, in the order of the row or column (R303). -/
def Iss.putWords (x : Iss) (o : XOps) : List Word :=
  let n := if o.mod.getLsbD 1 then 2 else 4
  (List.range 32).flatMap fun i => splitWords (x.read i o.aop n) n

/-- The entry of an instruction of the warp. -/
def Iss.entryOf (x : Iss) (opk : Nat) (o : XOps) : G5Entry :=
  { id := x.s.nextId, core := x.homeOf 0, ctx := x.w.ctx, cluster := x.w.cluster, bid := (x.lane 0).bid,
    wcore := x.w.core, slot := x.w.slot, form := x.w.form, pc := x.pc, opk := opk, ops := o,
    a := BitVec.ofNat 64 (x.read 0 o.aop (if o.asrc == 1 then 2 else 1) % 2 ^ (if o.asrc == 1 then 57 else 32)),
    r := x.word 0 o.skp, vals := if opk == 4 && o.mod.getLsbD 0 then x.putWords o else [], nbv := x.s.nbv,
    uids := x.ex.map fun i => (x.lane i).uid, st := .queued, prog := 0, flags := 0, w := 0 }

/-- Has an entry left its queue: a `pfill` that the copy engine has performed and that only waits to retire? -/
def State.handedBack (s : State) (e : G5Entry) : Bool := e.opk == 8 && s.copyOps.any fun (c : CopyOp) => c.id == e.id && c.ended

/-- The queue of a core is full, entries on their way to it included (R288). -/
def State.g5Full (s : State) (core : Nat) : Bool :=
  32 ≤ (s.entries.filter fun (e : G5Entry) => e.core == core && !s.handedBack e).length

/-- The issue of a group 5 instruction: held for parked lanes (R247), no operation without an executing lane, the rules of
R286, the holds, the operand checks, then the count and the queue. -/
def Iss.group5 (x : Iss) (opk : Nat) (o : XOps) : State :=
  x.held
    (let w := x.w.unheld x.pc
     if x.ex.isEmpty then x.next x.s w
     else if !x.wholeWarp then x.trap 0x05
     else
       x.afterAcquire
         (let e := x.entryOf opk o
          match x.g5Bad o opk e.a.toNat e.r.toNat with
          | some a => x.trapLane 0x07 0 a
          | none =>
            let cls := g5Class opk
            if x.s.g5Full e.core || (cls != .none && x.w.count cls == 127) then x.hold
            else
              let op := { x.newOp e.id 1 cls with uids := if opk == 3 then e.uids else [] }
              let w := if cls == .none then w else { w with ops := w.ops ++ [op] }
              x.next (x.enqueue { x.s with nextId := x.s.nextId + 1 } e) w))

/-- The shape of every group 5 instruction; `legal` is what check 6 leaves to the issue: the ACC field of every one lies below
n_a, its PRS field below n_p where it names a binding (R280, R291, R147). -/
def g5Instr (opk : Nat) (g : Guard) (o : XOps) (legal : Iss → Bool) (s : State) : Result :=
  issue g s (g5Uses opk o)
    (fun x => decide (o.acc.toNat < x.l.nacc) && (!g5Bind opk || decide (o.prs.toNat < x.l.nprs)) &&
      legal x) false fun x => x.group5 opk o

def execMma (g : Guard) (o : XOps) (s : State) : Result :=
  g5Instr 0 g o (fun x => o.opt == 0 || x.s.nbv == 3) s

def execTfill (g : Guard) (o : XOps) (s : State) : Result := g5Instr 1 g o (fun _ => true) s

/-- `tfill.id`, whose MOD[0] is 1. -/
def execTfillId (g : Guard) (o : XOps) (s : State) : Result := g5Instr 1 g { o with mod := o.mod ||| 1 } (fun _ => true) s

def execTld (g : Guard) (o : XOps) (s : State) : Result := g5Instr 2 g o (fun _ => true) s

def execTst (g : Guard) (o : XOps) (s : State) : Result := g5Instr 3 g o (fun _ => true) s

/-- The registers of a `tmov` row or column lie inside the allocation (R303). -/
def tmovRun (o : XOps) (x : Iss) : Bool :=
  match o.aop with
  | .v n => decide (n.toNat + (if o.mod.getLsbD 1 then 2 else 4) ≤ x.l.nreg)
  | _ => false

/-- `tmov.get`, whose MOD[0] is 0. -/
def execTmovGet (g : Guard) (o : XOps) (s : State) : Result :=
  let o := { o with mod := o.mod &&& 0xFFFFE }
  g5Instr 4 g o (tmovRun o) s

/-- `tmov.put`, whose MOD[0] is 1. -/
def execTmovPut (g : Guard) (o : XOps) (s : State) : Result :=
  let o := { o with mod := o.mod ||| 1 }
  g5Instr 4 g o (tmovRun o) s

def execTmask (g : Guard) (o : XOps) (s : State) : Result := g5Instr 5 g o (fun _ => true) s

def execPbind (g : Guard) (o : XOps) (s : State) : Result := g5Instr 6 g o (fun x => o.tya != .dt8 || x.s.nbv == 3) s

def execTbind (g : Guard) (o : XOps) (s : State) : Result := g5Instr 7 g o (fun _ => true) s

def execPfill (g : Guard) (o : XOps) (s : State) : Result := g5Instr 8 g o (fun _ => true) s

/-! ### Poison in the stores of the engine (R431) -/

/-- Where the bytes of tile ACC of an entry lie (the poison marks). -/
def G5Entry.tileAt (e : G5Entry) (o : Nat) : Target := .mx e.ctx e.cluster e.bid (2 ^ 32 + e.ops.acc.toNat * 2 ^ 15 + o)

/-- The tile, or `n` bytes of it from byte `o`, are written whole. -/
def State.cleanTile (s : State) (e : G5Entry) (o n : Nat) : State := s.unpoisonSram (e.tileAt o) n

/-- Is one of `n` bytes of the tile from byte `o` in a poisoned sector? -/
def State.tileBad (s : State) (e : G5Entry) (o n : Nat) : Bool := s.poisonedAt (e.tileAt o) n

/-! ### Whole entries: tfill, tmov, pbind, tbind -/

/-- `tfill` (R299, R311): press-bind where the entry has no identity in the tile's type. -/
def State.runTfill (s : State) (e : G5Entry) (b : Block) : State :=
  let v := if e.ops.mod.getLsbD 0 then identity e.ops.opt.toNat (b.tile e.ops.acc.toNat).s32
    else some (BitVec.ofNat 32 e.a.toNat)
  match v with
  | none => s.g5Trap e 0x10 0
  | some v => ((s.cleanTile e 0 32768).modTile e fun t => t.fill v).modEntry e.id fun e => e.finish 0 0

/-- `tbind` (R298). -/
def State.runTbind (s : State) (e : G5Entry) : State :=
  ((s.cleanTile e 0 32768).modTile e fun t => { t.fill 0 with s32 := e.ops.mod.getLsbD 0 }).modEntry e.id fun e => e.finish 0 0

/-- `pbind` (R304). -/
def State.runPbind (s : State) (e : G5Entry) (region : Nat) : State :=
  let sb := (e.ops.mod.extractLsb' 0 14).toNat
  if pbindOk e.ops.tya region e.a.toNat e.r.toNat sb then
    (s.modG5Block e fun b =>
      { b with binds := setAt b.binds e.ops.prs.toNat (bindWord e.ops.tya e.r.toNat e.a.toNat sb) }).modEntry e.id
        fun e => e.finish 0 0
  else s.g5Trap e 0x10 0

/-- The row or column that a `tmov` names (R303). -/
def G5Entry.index (e : G5Entry) : Nat :=
  ((e.ops.mod.extractLsb' 2 7).toNat + e.r.toNat) % (if e.ops.mod.getLsbD 1 then 128 else 64)

/-- Put a column of 64 elements into rows. -/
def putColumn (rows : List (List Word)) (j : Nat) (vs : List Word) : List (List Word) :=
  rows.mapIdx fun i r => setAt r j (vs.getD i 0)

/-- Does the row or column that a `tmov` names hold a poisoned sector (R431)? -/
def State.tmovBad (s : State) (e : G5Entry) : Bool :=
  if e.ops.mod.getLsbD 1 then (List.range 64).any fun i => s.tileBad e (512 * i + 4 * e.index) 4 else s.tileBad e (512 * e.index) 512

/-- `tmov` (R303): a `get` keeps the elements for its completion; one of a poisoned sector traps (R431). -/
def State.runTmov (s : State) (e : G5Entry) (b : Block) : State :=
  let t := b.tile e.ops.acc.toNat
  let col := e.ops.mod.getLsbD 1
  if e.ops.mod.getLsbD 0 then
    ((if col then s else s.cleanTile e (512 * e.index) 512).modTile e fun t =>
      { t with rows := if col then putColumn t.rows e.index e.vals else setAt t.rows e.index e.vals }).modEntry e.id
        fun e => e.finish 0 0
  else if s.tmovBad e then s.g5Trap e 0x09 0
  else
    s.modEntry e.id fun e =>
      { e.finish 0 0 with vals := if col then t.rows.map fun r => r.getD e.index 0 else t.rows.getD e.index [] }

/-! ### tld and tst (R300 to R302) -/

/-- The pieces of the 64 rows. -/
def G5Entry.rowPieces (e : G5Entry) : List (Nat × Nat) :=
  (List.range 64).flatMap fun i => rangePieces (e.a.toNat + i * e.r.toNat) (16 * e.ops.tya.bits)

/-- SC of a `tld` or `tst`. -/
def G5Entry.scale (e : G5Entry) : Int := signedOf 8 (e.ops.mod.extractLsb' 0 8).toNat

/-- `%tstat` bits 7:0 of conversions. -/
def convFlags (rs : List (Nat × Flags × Bool)) : BitVec 8 :=
  rs.foldl (fun f r => f ||| r.2.1.zeroExtend 8 ||| (if r.2.2 then 0x40 else 0)) 0

/-- Cut a list into rows of `n`. -/
def chop {α : Type} (n : Nat) : Nat → List α → List (List α)
  | 0, _ => []
  | k + 1, l => l.take n :: chop n k (l.drop n)

/-- `tld`: the whole range is translated first; faults hold it where they are met, a violation is judged after them (R302, R334)
and traps; poison traps. -/
def State.runTld (s : State) (e : G5Entry) (b : Block) : State :=
  let m := s.engMap (s.g5Who e) (s.g5Own e) (e.ops.asrc == 0) false e.rowPieces
  match m.faults, m.bad with
  | f :: fs, _ => m.s.g5Suspend e 8 (f :: fs)
  | [], some a => m.s.g5Trap e 0x07 a
  | [], none =>
    if m.s.engPoison e.ctx m.ok then m.s.g5Trap e 0x09 0
    else
      let dst := if (b.tile e.ops.acc.toNat).s32 then Ty.s32 else Ty.f32
      let w := e.ops.tya.bits / 8
      let xs := (chop w 8192 (m.s.engRead e.ctx m.ok)).map fun bs =>
        tileConvert e.ops.tya dst e.scale (e.ops.mod.getLsbD 8) (bytesToNat bs)
      (((m.s.engTouch e.ctx m.ok).cleanTile e 0 32768).modTile e fun t =>
        { t with rows := chop 128 64 (xs.map fun x => BitVec.ofNat 32 x.1) }).modEntry e.id fun e => e.finish (convFlags xs) 0

/-- `tst`: the higher row's bytes stand (R300); an element of a poisoned sector is stored as poison (R431). -/
def State.runTst (s : State) (e : G5Entry) (b : Block) (meas : Nat) : State :=
  let m := s.engMap (s.g5Who e) (s.g5Own e) (e.ops.asrc == 0) true e.rowPieces
  match m.faults, m.bad with
  | f :: fs, _ => m.s.g5Suspend e 8 (f :: fs)
  | [], some a => m.s.g5Trap e 0x07 a
  | [], none =>
    let t := b.tile e.ops.acc.toNat
    let src := if t.s32 then Ty.s32 else Ty.f32
    let w := e.ops.tya.bits / 8
    let xs := (t.rows.flatMap id).map fun v => tileConvert src e.ops.tya e.scale (e.ops.mod.getLsbD 8) v.toNat
    let bad := (List.range 8192).map fun i => m.s.tileBad e (4 * i) 4
    let r := m.s.engPut e.ctx meas m.ok ((xs.zip bad).flatMap fun x => (natToBytes w x.1.1).map fun b => (b, x.2)) 0
    r.1.modEntry e.id fun e => e.finish (convFlags xs) r.2

/-! ### tmask (R323) -/

/-- The bytes of the skip map of one panel. -/
def panelMask (opt : Nat) (ty : Ty) (rows : List (List Nat)) : List Byte :=
  (List.range (kstepOf ty / 8)).map fun b =>
    BitVec.ofNat 8 ((List.range 8).foldl (fun y i =>
      let zero := (List.range 8).all fun r => (((rows.getD (8 * i + r) []).drop (8 * b)).take 8).all (annihilator opt ty)
      y + (if zero then 2 ^ i else 0)) 0)

def State.runTmask (s : State) (e : G5Entry) : State :=
  let p := panelBytes e.ops.tya
  let m := s.engMap (s.g5Who e) (s.g5Own e) (e.ops.asrc == 0) false (rangePieces e.a.toNat (e.ops.kst.toNat * p))
  match m.faults, m.bad with
  | f :: fs, _ => m.s.g5Suspend e 8 (f :: fs)
  | [], some a => m.s.g5Trap e 0x07 a
  | [], none =>
    if m.s.engPoison e.ctx m.ok then m.s.g5Trap e 0x09 0
    else
      let bs := (chop p e.ops.kst.toNat (m.s.engRead e.ctx m.ok)).flatMap fun q =>
        panelMask e.ops.opt.toNat e.ops.tya (panelRows e.ops.tya q)
      ((m.s.engTouch e.ctx m.ok).homeWrite (.sram e.ctx e.cluster e.bid e.r.toNat) e.ctx 0 3 false 0 bs).modEntry e.id
        fun e => e.finish 0 0

/-! ### mma (R290 to R296, R311 to R320) -/

/-- The checks of R290 and R310 at the start of an `mma`. -/
def mmaOk (e : G5Entry) (t : Tile) (d : DWord) : Bool :=
  let tb := bindType d
  bindBound d && (tb != .dt8 || e.nbv == 3) && comboOk e.ops.opt.toNat e.ops.tya tb t.s32 &&
    decide (((e.ops.mod.extractLsb' 1 13).toNat + e.ops.kst.toNat) * kstepOf e.ops.tya ≤ bindK d)

/-- An `mma` starts: with OVW, at progress 0, the tile takes the identity. -/
def State.startMma (s : State) (e : G5Entry) (b : Block) : State :=
  let t := b.tile e.ops.acc.toNat
  if mmaOk e t (b.bind e.ops.prs.toNat) then
    let s := if e.ops.mod.getLsbD 0 && t.prog == 0 then
      (s.cleanTile e 0 32768).modTile e fun t => t.fill ((identity e.ops.opt.toNat t.s32).getD 0) else s
    s.modEntry e.id fun e => { e with st := .running }
  else s.g5Trap e 0x10 0

/-- The skip byte for each k-block of a k-step; 0 without a map. -/
def G5Entry.skips (e : G5Entry) (b : Block) (step : Nat) : List Byte :=
  let n := kstepOf e.ops.tya / 8
  if e.ops.skp == .z then List.replicate n 0 else b.sram.getN (e.r.toNat + step * n) n

/-- One row of a tile through a k-step: `arow` the row of A, `skip` for each of its elements, `cols` the columns of B with
their scale bytes. -/
def rowStep (e : G5Entry) (tb : Ty) (s32 : Bool) (arow : List Nat) (skip : List Bool) (cols : List (List Nat × Nat))
    (row : List Word) : List (Nat × Flags) :=
  (row.zip cols).map fun c =>
    cellStep e.ops.opt.toNat e.nbv e.ops.tya tb s32 c.1.toNat c.2.2
      ((arow.zip (c.2.1.zip skip)).map fun p => (p.1, p.2.1, p.2.2))

/-- The columns of B of a k-step: 128 lists of ks raw elements, each with its scale byte (R283, R292). -/
def G5Entry.columns (e : G5Entry) (b : Block) (region : Nat) (d : DWord) (step : Nat) : List (List Nat × Nat) :=
  let ks := kstepOf e.ops.tya
  let k0 := ((e.ops.mod.extractLsb' 1 13).toNat + step) * ks
  let tb := bindType d
  (List.range 128).map fun j =>
    ((List.range ks).map fun m => b.pressElem region tb (bindBase d) (k0 + m) j,
      if tb == .dt8 then (b.press.get (j * region + bindScale d + k0 / 32)).toNat else 0)

/-- All cells of a k-step together: the rows, and the flags raised. -/
def G5Entry.tileStep (e : G5Entry) (b : Block) (region : Nat) (panel : List Byte) (t : Tile) : List (List Word) × BitVec 8 :=
  let d := b.bind e.ops.prs.toNat
  let cols := e.columns b region d t.prog
  let skips := e.skips b t.prog
  let a := panelRows e.ops.tya panel
  let rs := t.rows.mapIdx fun i row =>
    rowStep e (bindType d) t.s32 (a.getD i [])
      ((List.range (kstepOf e.ops.tya)).map fun m => (skips.getD (m / 8) 0).getLsbD (i / 8)) cols row
  (rs.map fun r => r.map fun c => BitVec.ofNat 32 c.1,
    rs.flatten.foldl (fun f (c : Nat × Flags) => f ||| c.2.zeroExtend 8) (if skips.any (· == 0xFF) then 0x80 else 0))

/-- Does an operand of a k-step, other than its panel, hold a poisoned sector (R431): the tile, the step's bytes of the skip map, the
step's columns of B and their scales? -/
def State.kstepBad (s : State) (e : G5Entry) (b : Block) (region : Nat) (step : Nat) : Bool :=
  let d := b.bind e.ops.prs.toNat
  let ks := kstepOf e.ops.tya
  let k0 := ((e.ops.mod.extractLsb' 1 13).toNat + step) * ks
  let press := fun (o n : Nat) => (List.range 128).any fun j => s.poisonedAt (.mx e.ctx e.cluster e.bid (j * region + o)) n
  s.tileBad e 0 32768 ||
    (e.ops.skp != .z && s.poisonedAt (.sram e.ctx e.cluster e.bid (e.r.toNat + step * (ks / 8))) (ks / 8)) ||
    press (bindBase d + dataBytes (bindType d) k0) (dataBytes (bindType d) ks) ||
    (bindType d == .dt8 && press (bindScale d + k0 / 32) 1)

/-- One k-step of a running `mma`: its panel is fetched whole; a fault suspends it (R257, R296), and each page of the panel that faults
is one faulting fetch, with its own record (DESIGN CHOICE, assumption 87). A poisoned operand traps (R431). -/
def State.stepMma (s : State) (e : G5Entry) (b : Block) (region : Nat) : State :=
  let t := b.tile e.ops.acc.toNat
  let p := panelBytes e.ops.tya
  let m := s.engMap (s.g5Who e) (s.g5Own e) (e.ops.asrc == 0) false (rangePieces (e.a.toNat + t.prog * p) p)
  match m.faults, m.bad with
  | f :: fs, _ => (m.s.modTile e fun t => { t with susp := true }).g5Suspend e 7 (f :: fs)
  | [], some a => m.s.g5Trap e 0x07 a
  | [], none =>
    if m.s.engPoison e.ctx m.ok || m.s.kstepBad e b region t.prog then m.s.g5Trap e 0x09 0
    else
      let r := e.tileStep b region (m.s.engRead e.ctx m.ok) t
      let last := decide (e.ops.kst.toNat ≤ t.prog + 1)
      ((m.s.engTouch e.ctx m.ok).modTile e fun t =>
        { t with rows := r.1, prog := if last then 0 else t.prog + 1, susp := if last then false else t.susp }).modEntry e.id
          fun e => if last then e.finish r.2 0 else { e with flags := e.flags ||| r.2 }

/-! ### pfill (R305) -/

/-- The copy operation of a `pfill`. MOD[0] is SCL, MOD[1] is set where the source is block SRAM; `o1` is its binding, `ty` the
binding's type. -/
def G5Entry.fillOp (e : G5Entry) (ty : Ty) (st : EngState) (prog : Nat) : CopyOp :=
  { id := e.id, core := e.core, ctx := e.ctx, cluster := e.cluster, bid := e.bid, slot := e.slot, form := e.form, pc := e.pc,
    mask := 0xFFFFFFFF, opk := 5, o0 := e.a, o1 := BitVec.ofNat 64 e.ops.prs.toNat, o2 := e.r, q := [],
    mod := (if e.ops.mod.getLsbD 0 then 1 else 0) ||| (if e.ops.asrc == 0 then 2 else 0), ty := ty, uids := e.uids, st := st,
    prog := prog, part := 0, aux0 := 0, aux1 := 0, slices := [], probed := false, mapA := [], mapB := [], buf := [], super := false,
    meas := 0, w := 0 }

/-- A `pfill` starts: its binding is checked, and the operation enters the queue of the home core's copy engine. -/
def State.startPfill (s : State) (e : G5Entry) (b : Block) : State :=
  let d := b.bind e.ops.prs.toNat
  if !bindBound d || (e.ops.mod.getLsbD 0 && bindType d != .dt8) then s.g5Trap e 0x10 0
  else if 32 ≤ (s.copyQueue e.core).length then s
  else
    { s.modEntry e.id fun e => { e with st := .running } with copyOps := s.copyOps ++ [e.fillOp (bindType d) .queued e.prog] }

/-! ### The engine queue (R288 to R290) -/

/-- Does an older entry let a younger one of its queue start: it has been performed, or it belongs to another context and is held
at a fault or stopped with its context (R196)? Within a context entries are performed one at a time, in queue order (assumption
61). -/
def State.lets (s : State) (e f : G5Entry) : Bool :=
  match f.st with
  | .finished _ _ => true
  | .faulted _ => f.ctx != e.ctx
  | _ => f.ctx != e.ctx && !s.engineRuns f.ctx

/-- The first entry of a queue that may start. -/
def State.nextEntry (s : State) : List G5Entry → List G5Entry → Option G5Entry
  | _, [] => none
  | old, e :: es =>
    if e.st == .queued && s.engineRuns e.ctx && old.all (s.lets e) then some e else s.nextEntry (old ++ [e]) es

/-- The first entry of a queue that has been performed, every older one of its context having left. -/
def nextDone : List G5Entry → List G5Entry → Option G5Entry
  | _, [] => none
  | old, e :: es =>
    if (match e.st with
        | .finished _ _ => true
        | _ => false) && old.all (fun f => f.ctx != e.ctx) then some e else nextDone (old ++ [e]) es

/-- The queue of a core, in order. -/
def State.queue (s : State) (core : Nat) : List G5Entry := s.g5.filter fun (e : G5Entry) => e.core == core && !s.handedBack e

/-- May a running `mma` perform its next k-step: its context's engines run, or the k-step is its first, which a stop or a halt
lets it complete (R307)? -/
def State.kstepRuns (s : State) (e : G5Entry) : Bool :=
  s.engineRuns e.ctx || (!s.stopped && (match s.g5Block e with
    | some b => (b.tile e.ops.acc.toNat).prog == 0
    | none => false))

/-- Perform or start an entry, by its operation. -/
def State.g5Start (s : State) (e : G5Entry) : State :=
  match s.g5Block e, s.launch? e.ctx with
  | some b, some l =>
    match e.opk with
    | 0 => s.startMma e b
    | 1 => s.runTfill e b
    | 2 => s.runTld e b
    | 3 => s.runTst e b l.slotNo
    | 4 => s.runTmov e b
    | 5 => s.runTmask e
    | 6 => s.runPbind e l.region
    | 7 => s.runTbind e
    | _ => s.startPfill e b
  | _, _ => s

/-- GROUP5_ENTRY_START (R288, R290): the next entry of a core's queue starts; one that reads memory waits for the older
writes of its warp (R276). -/
def execGroup5EntryStart (core : Nat) (s : State) : Result :=
  .next (match s.nextEntry [] (s.queue core) with
    | none => s
    | some e => if !(g5Reads e.opk && s.writesOut e.uids) then s.g5Start e else s)

/-- MMA_KSTEP (R292): the running `mma` of a core performs its next k-step. -/
def execMmaKstep (core : Nat) (s : State) : Result :=
  .next (match (s.queue core).find? fun e => e.opk == 0 && e.st == .running && s.kstepRuns e with
    | none => s
    | some e =>
      match s.g5Block e, s.launch? e.ctx with
      | some b, some l => s.stepMma e b l.region
      | _, _ => s)

/-- The status word an entry writes (Table 5). -/
def G5Entry.tstat (e : G5Entry) : Word :=
  BitVec.ofNat 32 (e.opk * 2 ^ 28 +
    (if e.opk == 5 then 0 else if e.opk == 6 then e.ops.prs.toNat else e.ops.acc.toNat) * 2 ^ 24 +
    (if e.opk == 0 then e.ops.kst.toNat else 0) * 2 ^ 11) ||| (e.flags.zeroExtend 32)

/-- The registers a `tmov.get` writes, in all 32 lanes (R303). -/
def G5Entry.getVals (e : G5Entry) : List (Nat × Nat) :=
  let n := if e.ops.mod.getLsbD 1 then 2 else 4
  (List.range 32).map fun i => (i, joinWords (fun j => e.vals.getD j 0) (i * n) n)

/-- GROUP5_ENTRY_COMPLETE (R289): the next entry of a core's queue that has been performed whole writes `%tstat` and retires;
a `pfill` writes none and retires as a copy operation. -/
def execGroup5EntryComplete (core : Nat) (s : State) : Result :=
  .next (match nextDone [] (s.queue core) with
    | none => s
    | some e =>
      let s := { s with g5 := s.g5.filter fun f => f.id != e.id }
      let s := s.modG5Block e fun b => { b with tstat := e.tstat }
      let s := if e.opk == 4 && !e.ops.mod.getLsbD 0 then
        s.modWarp e.wcore e.slot fun w =>
          if w.form == e.form then w.write e.ops.aop (if e.ops.mod.getLsbD 1 then 2 else 4) e.getVals else w
        else s
      s.completeOp e.wcore e.slot e.id none e.w none)

end Sys2Proof.Machine
end

