-- ==== Sys2Proof/Machine/Copy.lean ====
section
/-! DEFINITION. The copy and gather engines (R325 to R341) and `pfill` (R305): issue of `cp`, `cp.2d`, `gath`, `scat`, `probe`,
`unpin` and `cpseal`, and the events that start an operation, move its chunks and vectors, and retire it. -/

namespace Sys2Proof.Machine

open Sys2Proof

/-! ### Issue (R325) -/

/-- The operation of an issuing path, its operands from the lowest executing lane. -/
def Iss.copyOp (x : Iss) (opk : Nat) (d a b : Nat) (q : List Word) (mod : BitVec 16) (ty : Ty) : CopyOp :=
  { id := x.s.nextId, core := x.w.core, ctx := x.w.ctx, cluster := x.w.cluster,
    bid := (if x.w.kind == .handler then 0xFFFFFFFF else (x.lane x.lead).bid), slot := x.w.slot, form := x.w.form,
    pc := x.pc, mask := maskOf x.ex, opk := opk, o0 := BitVec.ofNat 64 d, o1 := BitVec.ofNat 64 a, o2 := BitVec.ofNat 32 b,
    q := q, mod := mod, ty := ty, uids := x.ex.map fun i => (x.lane i).uid, st := .queued, prog := 0,
    part := 0, aux0 := x.s.nbv, aux1 := 0, slices := [], probed := false, mapA := [], mapB := [], buf := [], super := false,
    meas := 0, w := 0 }

/-- Start an operation of the issuing warp: no operation without an executing lane; held behind an acquire, by a full queue
or by a count of 127 (R194, R272, R325). -/
def Iss.startCopy (x : Iss) (c : CopyOp) : State :=
  if x.ex.isEmpty then x.next x.s x.w
  else
    x.afterAcquire
      (if x.w.count .cp == 127 || (c.inQueue && decide (32 ≤ (x.s.copyQueue x.w.core).length)) then x.hold
       else
         let op := { x.newOp c.id 1 .cp with uids := c.uids }
         x.next { x.s with copyOps := x.s.copyOps ++ [c], nextId := x.s.nextId + 1 } { x.w with ops := x.w.ops ++ [op] })

/-- The shape of the copy instructions: C spans `nc` registers, or is unused where `nc` is 1. -/
def copyInstr (opk nc : Nat) (g : Guard) (o : ROps) (s : State) : Result :=
  issue g s ([(o.d, 2), (o.a, 2), (o.c, nc)] ++ o.b.use 1) (fun _ => true) false fun x =>
    let i := x.lead
    x.startCopy (x.copyOp opk (x.read i o.d 2) (x.read i o.a 2) (x.readB i o.b 1) (if nc == 1 then [] else splitWords (x.read i o.c nc) nc) o.mod o.ty)

/-- `cp`, whose C is unused and whose MOD[0] is 0. -/
def execCp (g : Guard) (o : ROps) (s : State) : Result := copyInstr 0 1 g { o with mod := o.mod &&& 0xFFFE } s

/-- `cp.2d`, whose MOD[0] is 1. -/
def execCp2d (g : Guard) (o : ROps) (s : State) : Result := copyInstr 0 4 g { o with mod := o.mod ||| 1 } s

def execGath (g : Guard) (o : ROps) (s : State) : Result := copyInstr 1 2 g o s
def execScat (g : Guard) (o : ROps) (s : State) : Result := copyInstr 2 2 g o s
def execProbe (g : Guard) (o : ROps) (s : State) : Result := copyInstr 3 1 g o s
def execUnpin (g : Guard) (o : ROps) (s : State) : Result := copyInstr 4 1 g o s
def execCpseal (g : Guard) (o : ROps) (s : State) : Result := copyInstr 8 1 g o s

/-! ### Operations in progress -/

/-- Apply a function to the operation with a number. -/
def State.modCopy (s : State) (id : Nat) (f : CopyOp → CopyOp) : State :=
  { s with copyOps := s.copyOps.map fun c => if c.id == id then f c else c }

/-- Lower the pin counts of pages of a core, freeing an entry at zero (R337). -/
def State.lowerPins (s : State) (core ctx : Nat) (p : Pin → Bool) : State :=
  let hit := fun (q : Pin) => q.core == core && q.ctx == ctx && p q
  { s with pins := (s.pins.map fun q => if hit q then { q with count := q.count - 1 } else q).filter fun q => q.count != 0 }

/-- The operation ends: the pins its probe pass took are released (R334); COUNT is kept for its status. -/
def State.endCopy (s : State) (c : CopyOp) (code addr count : Nat) : State :=
  (s.lowerPins c.core c.ctx fun q => c.slices.contains q.va).modCopy c.id fun c =>
    { c with st := .finished code addr, prog := count, slices := [] }

/-- It ends with an error: COUNT is a free value, which the spec does not state (assumption 11). -/
def State.failCopy (s : State) (c : CopyOp) (code addr : Nat) : State :=
  State.endCopy { s with nextId := s.nextId + 1 } c code addr ((Config.freeWord s.nextId).toNat % 2 ^ 20)

/-- The same, where no address fails: the second address of a trap record is a free value too. -/
def State.failShape (s : State) (c : CopyOp) (code : Nat) : State :=
  s.failCopy c code ((Config.freeWord (s.nextId + 1)).toNat % 2 ^ 57)

/-- The warp that issued an operation: core and slot. A `pfill` may have come from another core. -/
def State.issuerOf (s : State) (c : CopyOp) : Nat × Nat :=
  match (if c.opk == 5 then s.g5.find? fun (e : G5Entry) => e.id == c.id else none) with
  | some e => (e.wcore, e.slot)
  | none => (c.core, c.slot)

/-- A record of an engine fault, TYPE 8 (R253, R328): it names the issuing warp, lane 0. -/
def CopyOp.faultRec (c : CopyOp) (s : State) (f : Nat × Nat) : FaultRec :=
  let k := s.issuerOf c
  let l := match s.warp? k.1 k.2 with
    | some w => if w.form == c.form then w.lane 0 else Lane.dead
    | none => Lane.dead
  (s.record c.ctx f.2 8 0 k.1 k.2 0 f.1 l.rpc.toNat l.rcnt).stamp c.cluster

/-- Does the address fall on a pin of the core that awaits its answer (R338)? -/
def State.pinAwaits (s : State) (core ctx va : Nat) : Bool :=
  s.pins.any fun p => p.core == core && p.ctx == ctx && decide (p.va ≤ va) && decide (va < p.va + p.size) && p.pte.isNone

/-- Hold an operation for its translation faults: one record for each page, none for a pin that has posted its own; it goes on
where it stands once they are answered. -/
def State.holdCopy (s : State) (c : CopyOp) (fs : List (Nat × Nat)) : State :=
  (s.modCopy c.id fun c => { c with st := .faulted (fs.map fun f => f.1) }).post
    ((fs.filter fun f => !s.pinAwaits c.core c.ctx f.1).map (c.faultRec s))

/-- A trap that an operation raises before it retires (R332). One that has outlived its launch finds no context to halt: its record is
posted, and it waits (assumption 63). -/
def State.copyTrap (s : State) (c : CopyOp) (code aux : Nat) : State :=
  let k := s.issuerOf c
  let r := (s.record c.ctx 3 0 code k.1 k.2 ((lanesOf c.mask).headD 0) c.pc.toNat aux c.mask).stamp c.cluster
  if c.orphan then (s.modCopy c.id fun c => { c with st := .faulted [aux] }).postTrap r else s.takeTrap r

/-! ### Addresses (R326, R328, R338) -/

/-- Translates through the page table: neither table space, nor a heap window, nor the block SRAM window. -/
def State.paged (s : State) (ctx a : Nat) : Bool :=
  let bs := fieldAt (s.bank ctx).bsbase 56 19
  decide (a < 2 ^ 57) && (s.tsOffset a).isNone && (coveringWindow a (s.bank ctx).heap).isNone &&
    !(decide (bs ≤ a) && decide (a < bs + 0x80000))

/-- The block SRAM that an operation's addresses can reach. -/
def State.copyOwn (s : State) (c : CopyOp) : OwnBlock :=
  { ctx := c.ctx, cluster := c.cluster, bid := c.bid,
    size := match s.block? c.ctx c.cluster c.bid with
      | some b => b.size
      | none => 0 }

/-- Resolution and translation by the copy engine: a pinned page through its pin. -/
def CopyOp.place (c : CopyOp) (direct write : Bool) : Placer := fun s a n =>
  let w := s.engineWho c.core c.ctx c.cluster
  let w := if c.orphan then { w with super := c.super, cl := none } else w
  match (if direct || !s.paged c.ctx a then none else
    s.pins.find? fun p => p.core == c.core && p.ctx == c.ctx && decide (p.va ≤ a) && decide (a < p.va + p.size)) with
  | some p =>
    match p.pte with
    | some pte => s.judge w pte p.geo p.size a write none
    | none => .fault 0
  | none => s.engPlace w (s.copyOwn c) direct a n write

/-- The pieces of ranges whose starts are exact integers, as far as they lie in the address space; and the first that
does not. -/
def sidePieces (segs : List (Int × Nat)) : List (Nat × Nat) × Option Nat :=
  match segs.find? fun g => g.1 < 0 with
  | some g => ((segs.takeWhile fun g => 0 ≤ g.1).flatMap fun g => rangePieces g.1.toNat g.2, some (g.1 % (2 ^ 57 : Nat)).toNat)
  | none => (segs.flatMap fun g => rangePieces g.1.toNat g.2, none)

/-- Translate one side of an operation in device memory. -/
def CopyOp.mapSide (c : CopyOp) (s : State) (write : Bool) (segs : List (Int × Nat)) : RangeMap :=
  let p := sidePieces segs
  let m := s.mapPieces c.ctx (c.place false write) p.1
  { m with bad := if m.bad.isSome then m.bad else p.2 }

/-- The page an address translates through, for an engine of a core: its pin, else a TLB entry, else its PTE. -/
def State.pageAt (s : State) (core ctx va : Nat) : Option Tlb :=
  if !s.paged ctx va then none
  else
    match s.pins.find? fun p => p.core == core && p.ctx == ctx && decide (p.va ≤ va) && decide (va < p.va + p.size) with
    | some p => p.pte.map fun pte => { owner := core, ctx := ctx, va := p.va, size := p.size, pte := pte, geo := p.geo }
    | none =>
      match (s.tlbFind core ctx va).or (s.tlbFind (192 + groupOf core) ctx va) with
      | some t => some { t with owner := core }
      | none =>
        match s.walk ctx va with
        | .leaf pte size =>
          some { owner := core, ctx := ctx, va := va / size * size, size := size, pte := pte,
                 geo := s.geoEntry ctx (pteWord pte).geo }
        | _ => none

/-- Insert by address. -/
def insertPage (t : Tlb) : List Tlb → List Tlb
  | [] => [t]
  | u :: us => if t.va ≤ u.va then t :: u :: us else u :: insertPage t us

/-- The distinct pages that pieces touch, in ascending address. -/
def State.pagesOf (s : State) (core ctx : Nat) (ps : List Piece) : List Tlb :=
  (ps.filterMap fun p => s.pageAt core ctx p.va).foldl
    (fun ts t => if ts.any fun (u : Tlb) => u.va == t.va && u.size == t.size then ts else insertPage t ts) []

/-- The first page in ascending address that finds no pin entry, or whose count would pass 65,535 (R334, R337). -/
def State.pinLack (s : State) (core ctx : Nat) (ts : List Tlb) : Option Nat :=
  let held := fun (t : Tlb) => s.pins.find? fun p => p.core == core && p.ctx == ctx && p.va == t.va && p.size == t.size
  let free := 1024 - (s.pins.filter fun p => p.core == core).length
  let fresh := ts.filter fun t => (held t).isNone
  match (fresh.drop free).head?, ts.find? fun t => (held t).any fun p => decide (65535 ≤ p.count) with
  | some t, some u => some (min t.va u.va)
  | some t, none => some t.va
  | none, u => u.map fun u => u.va

/-- Pin pages of an operation's core. -/
def State.pinPages (s : State) (c : CopyOp) (ts : List Tlb) : State :=
  ts.foldl (fun s t =>
    if s.pins.any fun p => p.core == c.core && p.ctx == c.ctx && p.va == t.va && p.size == t.size then
      { s with pins := s.pins.map fun p =>
          if p.core == c.core && p.ctx == c.ctx && p.va == t.va && p.size == t.size then { p with count := p.count + 1 } else p }
    else
      { s with pins := s.pins ++ [{ core := c.core, ctx := c.ctx, cluster := c.cluster, va := t.va, size := t.size, count := 1,
                                    pte := some t.pte, geo := t.geo }] }) s

/-! ### cp (R330 to R332) -/

/-- Rows, bytes of a row, source and destination strides. -/
def CopyOp.shape (c : CopyOp) : Nat × Nat × Int × Int :=
  if c.mod.getLsbD 0 then
    ((c.q.getD 0 0).toNat, c.o2.toNat, (c.q.getD 1 0).toInt, (c.q.getD 2 0).toInt)
  else (1, c.o2.toNat, 0, 0)

/-- The spaces of source and destination (R326); `cpseal` copies from the device to the host. -/
def CopyOp.spaces (c : CopyOp) : Nat × Nat :=
  if c.opk == 8 then (0, 1) else ((c.mod.extractLsb' 1 2).toNat, (c.mod.extractLsb' 3 2).toNat)

/-- The segments of bytes `t0` to `t1 - 1` of a transfer of rows of `n` bytes. -/
def segments (base stride : Int) (n t0 t1 : Nat) : List (Int × Nat) :=
  (List.range ((t1 - 1) / n + 1 - t0 / n)).map fun k =>
    let r := t0 / n + k
    let lo := max t0 (r * n)
    (base + stride * r + ((lo - r * n : Nat) : Int), min t1 ((r + 1) * n) - lo)

/-- Does a host range lie within an aperture (R326, R413)? -/
def State.hostOk (s : State) (a : Int) (n : Nat) : Bool :=
  decide (0 ≤ a) && s.outside.apertures.any fun p => decide ((p.1 : Int) ≤ a) && decide (a + n ≤ (p.2 : Int))

/-- Port and device address of a peer address (R326). -/
def peerPort (a : Int) : Nat := (a / (2 ^ 60 : Nat)).toNat % 8
def peerAddr (a : Int) : Nat := a.toNat % 2 ^ 57

/-- Does a peer range lie within what the peer admits, its reserved bits zero? -/
def State.peerOk (s : State) (a : Int) (n : Nat) : Bool :=
  decide (0 ≤ a) && decide (a < (2 ^ 63 : Nat)) && a.toNat / 2 ^ 57 % 8 == 0 &&
    s.outside.peerWindows.any fun p => p.1 == peerPort a && decide (p.2.1 ≤ peerAddr a) && decide (peerAddr a + n ≤ p.2.2)

/-- One side of a chunk as checked. -/
structure Checked where
  s : State
  ok : List Piece
  faults : List (Nat × Nat)
  /-- code and failing address -/
  bad : Option (Nat × Nat)
  deriving DecidableEq, Repr

/-- Check one side of a chunk in its space. -/
def CopyOp.check (c : CopyOp) (s : State) (space : Nat) (write : Bool) (segs : List (Int × Nat)) : Checked :=
  let out := fun (g : Int × Nat) (code : Nat) => (code, (g.1 % (2 ^ 57 : Nat)).toNat)
  if space == 0 then
    let m := c.mapSide s write segs
    { s := m.s, ok := m.ok, faults := m.faults, bad := m.bad.map fun a => (0x40, a) }
  else if space == 1 then
    { s := s, ok := [], faults := [], bad := (segs.find? fun g => !s.hostOk g.1 g.2).map fun g => out g 0x40 }
  else
    { s := s, ok := [], faults := [],
      bad := match segs.find? fun g => !s.outside.linkUp.getLsbD (peerPort g.1) with
        | some g => some (out g 0x47)
        | none => (segs.find? fun g => !s.peerOk g.1 g.2).map fun g => out g 0x40 }

/-- The bytes of a side, each with whether its sector is poisoned. -/
def CopyOp.fetch (c : CopyOp) (s : State) (space : Nat) (segs : List (Int × Nat)) (ok : List Piece) : List (Byte × Bool) :=
  if space == 0 then s.engMarked c.ctx ok
  else if space == 1 then (segs.flatMap fun g => s.outside.host.getN g.1.toNat g.2).map fun b => (b, false)
  else (segs.flatMap fun g => s.outside.peer.getN (peerPort g.1 * 2 ^ 57 + peerAddr g.1) g.2).map fun b => (b, false)

/-- Write bytes over segments of host or peer memory. -/
def putSegs (m : Memory) (key : Int → Nat) : List (Int × Nat) → List Byte → Memory
  | [], _ => m
  | g :: gs, bs => putSegs (m.setN (key g.1) (bs.take g.2)) key gs (bs.drop g.2)

/-- The measurement slot that the writes of an operation mark (R339). -/
def State.measOf (s : State) (c : CopyOp) : Nat := if c.orphan then c.meas else ((s.launch? c.ctx).map fun l => l.slotNo).getD 0

/-- Write a side; the state and the latest W. -/
def CopyOp.put (c : CopyOp) (s : State) (space : Nat) (segs : List (Int × Nat)) (ok : List Piece) (bs : List (Byte × Bool)) :
    State × Nat :=
  let data := bs.map fun b => b.1
  if space == 0 then s.engPut c.ctx (s.measOf c) ok bs 0
  else if space == 1 then ({ s with outside := { s.outside with host := putSegs s.outside.host Int.toNat segs data } }, 0)
  else
    ({ s with outside := { s.outside with
        peer := putSegs s.outside.peer (fun a => peerPort a * 2 ^ 57 + peerAddr a) segs data } }, 0)

/-- The segments of the source and of the destination for bytes `t0` to `t1 - 1` of a transfer. -/
def CopyOp.source (c : CopyOp) (t0 t1 : Nat) : List (Int × Nat) := segments (c.o1.toNat : Int) c.shape.2.2.1 c.shape.2.1 t0 t1
def CopyOp.target (c : CopyOp) (t0 t1 : Nat) : List (Int × Nat) := segments (c.o0.toNat : Int) c.shape.2.2.2 c.shape.2.1 t0 t1

/-- The first offset from `hi` on at which every address given, counted from offset 0, is a multiple of `unit`; `e`, where there is none
before it. Each aligned 16 bytes are so read, and written, in one turn (R329; assumption 62). -/
def alignEnd (unit : Nat) (as : List Int) (hi e : Nat) : Nat :=
  (((List.range unit).find? fun k => as.all fun a => (a + ((hi + k : Nat) : Int)) % (unit : Int) == 0).map fun k => min (hi + k) e).getD e

/-- The unit in which a destination is written: 16 bytes, or a whole sector where that is poisoned, so that it is clear afterwards
(R431). -/
def State.writeUnit (s : State) (ctx : Nat) (dst : List Piece) : Nat :=
  match dst with
  | p :: _ => if s.poisonedAt (s.pieceTarget ctx p).sector 32 then 32 else 16
  | [] => 16

/-- Bytes as words, the first least significant. -/
def wordsOf (bs : List Byte) : List Word := splitWords (bytesToNat bs) (bs.length / 4)

/-- The chunk from byte `t0` to byte `t1 - 1` is translated and checked, source, then destination, before any of it moves (R331,
R332); the operation as it then goes on, where it does. -/
def State.openChunk (s : State) (c : CopyOp) (t0 t1 : Nat) : State × Option CopyOp :=
  let sp := c.spaces
  let a := c.check s sp.1 false (c.source t0 t1)
  match a.faults, a.bad with
  | f :: fs, _ => (a.s.holdCopy c (f :: fs), none)
  | [], some b => (a.s.failCopy c b.1 b.2, none)
  | [], none =>
    let b := c.check a.s sp.2 true (c.target t0 t1)
    match b.faults, b.bad with
    | f :: fs, _ => (b.s.holdCopy c (f :: fs), none)
    | [], some e => (b.s.failCopy c e.1 e.2, none)
    | [], none =>
      let s := b.s
      if c.opk == 0 && sp.2 != 0 && a.ok.any (fun p => p.m.sealed) then
        (s.copyTrap c 0x07 ((((c.source t0 t1).map fun g => g.1).headD 0) % (2 ^ 57 : Nat)).toNat, none)
      else
        match (if sp.2 == 0 then none else a.ok.find? fun p => s.poisonedAt (s.pieceTarget c.ctx p) p.n) with
        | some p => (s.failCopy c 0x46 p.va, none)
        | none => (s, some { c with mapA := a.ok, mapB := b.ok })

/-- A part of the chunk under way cannot move: the link of a peer is down, or its source has been poisoned since and is bound for host
or peer (R331). Code and failing address. -/
def CopyOp.stopped (c : CopyOp) (s : State) (src : List Piece) (rd wr : List (Int × Nat)) : Option (Nat × Nat) :=
  let down := fun (space : Nat) (segs : List (Int × Nat)) => if space == 2 then segs.find? fun g => !s.outside.linkUp.getLsbD (peerPort g.1) else none
  match (down c.spaces.1 rd).or (down c.spaces.2 wr) with
  | some g => some (0x47, (g.1 % (2 ^ 57 : Nat)).toNat)
  | none => if c.spaces.2 == 0 then none else (src.find? fun p => s.poisonedAt (s.pieceTarget c.ctx p) p.n).map fun p => (0x46, p.va)

/-- The part at byte `t0` of a transfer, in the chunk from `c0` to `t1 - 1`: the byte that its writes end before, and the byte that its
reads do. -/
def CopyOp.partEnds (c : CopyOp) (s : State) (c0 t0 t1 : Nat) (whole : Bool) : Nat × Nat :=
  let e := min t1 ((t0 / c.shape.2.1 + 1) * c.shape.2.1)
  let at_ := fun (segs : List (Int × Nat)) => [((segs.map fun g => g.1).headD 0) - (t0 : Int)]
  let t := if whole then t1 else alignEnd (s.writeUnit c.ctx (slicePieces c.mapB (t0 - c0) (t0 + 1 - c0))) (at_ (c.target t0 t1)) (t0 + 1) e
  (t, if t ≤ t0 + c.buf.length then t0 + c.buf.length else if whole then t1 else alignEnd 16 (at_ (c.source t0 t1)) t e)

/-- What is left of the chunk under way moves, whole or its next part: the bytes read before are written first, poison marks with them
within device memory (R331). -/
def State.movePart (s : State) (c : CopyOp) (c0 t1 : Nat) (whole : Bool) : State :=
  let t0 := c0 + c.part
  let e := c.partEnds s c0 t0 t1 whole
  let r0 := t0 + c.buf.length
  let src := slicePieces c.mapA (r0 - c0) (e.2 - c0)
  let rd := if e.2 ≤ r0 then [] else c.source r0 e.2
  match c.stopped s src rd (c.target t0 e.1) with
  | some b => s.failCopy c b.1 b.2
  | none =>
    let all := c.buf ++ c.fetch s c.spaces.1 rd src
    let now := all.take (e.1 - t0)
    let r := c.put (s.engTouch c.ctx src) c.spaces.2 (c.target t0 e.1) (slicePieces c.mapB (t0 - c0) (e.1 - c0)) now
    let c := { c with w := max c.w r.2, q := if c.opk == 8 then c.q ++ wordsOf (now.map fun (b : Byte × Bool) => b.1) else c.q }
    let c' := if e.1 == t1 then { c with prog := c.prog + 1, part := 0, mapA := [], mapB := [], buf := [] }
      else { c with part := e.1 - c0, buf := all.drop (e.1 - t0) }
    let s := r.1.modCopy c.id fun _ => c'
    if c.opk == 0 && c.shape.1 * c.shape.2.1 ≤ e.1 then s.endCopy c' 0 0 c'.prog else s

/-- The chunk that stands next, or what is left of it, whole or its next part. -/
def State.copyChunk (s : State) (c : CopyOp) (whole : Bool) : State :=
  let c0 := c.prog * 4096
  let t1 := min (c.shape.1 * c.shape.2.1) (c0 + 4096)
  match (if c.part == 0 then s.openChunk c c0 t1 else (s, some c)) with
  | (s, none) => s
  | (s, some c) => s.movePart c c0 t1 whole

/-! ### gath and scat (R333 to R336) -/

/-- Row bytes R, and whether it scatters. -/
def CopyOp.rowBytes (c : CopyOp) : Nat := (c.mod.extractLsb' 0 12).toNat + 1
def CopyOp.opr (c : CopyOp) : Nat := if c.opk == 2 then (c.mod.extractLsb' 12 3).toNat else 0

/-- Table base and contiguous side. -/
def CopyOp.table (c : CopyOp) : Int := if c.opk == 1 then c.o1.toNat else c.o0.toNat
def CopyOp.flat (c : CopyOp) : Int := if c.opk == 1 then c.o0.toNat else c.o1.toNat

/-- Address of the index list: the first two words of `q`; the indices, once read, follow. -/
def CopyOp.listAt (c : CopyOp) : Nat := joinWords (fun j => c.q.getD j 0) 0 2

/-- Index at a position. -/
def CopyOp.index (c : CopyOp) (i : Nat) : Int := (c.q.getD (i + 2) 0).toInt

/-- The table row of an index, as a segment. -/
def CopyOp.row (c : CopyOp) (i : Nat) : Int × Nat := (c.table + c.index i * (c.rowBytes : Int), c.rowBytes)

/-- The probe pass (R334): the index list, the contiguous side, the rows, then the pins, each only when the one before
passed. An index list that is not aligned to 4 ends it as a bad address (assumption 12). An operation that a restore brought
back after its first vector finds its pins in place (R406). -/
def State.probePass (s : State) (c : CopyOp) : State :=
  let n := c.o2.toNat
  if c.listAt % 4 != 0 then s.failCopy c 0x40 (c.listAt % 2 ^ 57)
  else
    let a := c.mapSide s false [((c.listAt : Int), 4 * n)]
    match a.faults, a.bad with
    | f :: fs, _ => a.s.holdCopy c (f :: fs)
    | [], some b => a.s.failCopy c 0x40 b
    | [], none =>
      let c := { c with q := c.q.take 2 ++ splitWords (bytesToNat (a.s.engRead c.ctx a.ok)) n }
      let b := c.mapSide (a.s.engTouch c.ctx a.ok) (c.opk == 1) [(c.flat, n * c.rowBytes)]
      match b.faults, b.bad with
      | f :: fs, _ => b.s.holdCopy c (f :: fs)
      | [], some e => b.s.failCopy c 0x40 e
      | [], none =>
        let r := c.mapSide b.s (c.opk == 2) ((List.range n).map c.row)
        match r.faults, r.bad with
        | f :: fs, _ => r.s.holdCopy c (f :: fs)
        | [], some e => r.s.failCopy c 0x41 e
        | [], none =>
          let ts := r.s.pagesOf c.core c.ctx (a.ok ++ b.ok ++ r.ok)
          match (if c.prog == 0 then r.s.pinLack c.core c.ctx ts else none) with
          | some e => r.s.failCopy c 0x43 e
          | none => (if c.prog == 0 then r.s.pinPages c ts else r.s).modCopy c.id fun _ => { c with probed := true, slices := ts.map fun t => t.va }

/-- The AOP of a scatter operation (Table 5). -/
def scatAop (opr : Nat) : Nat :=
  if opr == 1 then 0x00 else if opr == 2 then 0x02 else if opr == 3 then 0x03
  else if opr == 4 then 0x0B else if opr == 5 then 0x0C else 0x0D

/-- Element by element, values folded onto old ones (R335). -/
def reduceRow (opr : Nat) (ty : Ty) (nbv : Nat) (old new : List Byte) : List Byte :=
  ((chop 4 (old.length / 4) old).zip (chop 4 (new.length / 4) new)).flatMap fun p =>
    aopBytes (scatAop opr) ty nbv p.1 p.2

/-- Positions of the vector that stands next. -/
def CopyOp.vector (c : CopyOp) : List Nat := (List.range (min 32 (c.o2.toNat - 32 * c.prog))).map fun k => 32 * c.prog + k

/-- The rows that a vector moves, in order, each with the positions it takes its bytes from: in `gath` every position, in `scat`
each distinct index, by its first position, with all its positions in ascending order (R336). -/
def CopyOp.rows (c : CopyOp) : List (Nat × List Nat) :=
  if c.opk == 1 then c.vector.map fun i => (i, [i])
  else
    let firsts := c.vector.foldl (fun ps i => if ps.any fun j => c.index j == c.index i then ps else ps ++ [i]) []
    firsts.map fun i => (i, c.vector.filter fun j => c.index j == c.index i)

/-- `n` bytes from byte `lo` of a position's contiguous row, and of the table row it names. -/
def CopyOp.flatSeg (c : CopyOp) (i lo n : Nat) : Int × Nat := (c.flat + ((i * c.rowBytes + lo : Nat) : Int), n)
def CopyOp.rowSeg (c : CopyOp) (i lo n : Nat) : Int × Nat := ((c.row i).1 + (lo : Int), n)

/-- The vector that stands next is translated, its contiguous rows, then its table rows, before any of it moves. A page that a release
of its pin left to fault holds the operation. -/
def State.openVector (s : State) (c : CopyOp) : State × Option CopyOp :=
  let a := c.mapSide s (c.opk == 1) (c.vector.map fun i => c.flatSeg i 0 c.rowBytes)
  match a.faults, a.bad with
  | f :: fs, _ => (a.s.holdCopy c (f :: fs), none)
  | [], some b => (a.s.failCopy c 0x40 b, none)
  | [], none =>
    let b := c.mapSide a.s (c.opk == 2) (c.rows.map fun k => c.rowSeg k.1 0 c.rowBytes)
    match b.faults, b.bad with
    | f :: fs, _ => (b.s.holdCopy c (f :: fs), none)
    | [], some e => (b.s.failCopy c 0x41 e, none)
    | [], none => (b.s, some { c with mapA := a.ok, mapB := b.ok })

/-- The `n`-th row of bytes of translated rows. -/
def CopyOp.piecesOf (c : CopyOp) (ps : List Piece) (n : Nat) : List Piece := slicePieces ps (n * c.rowBytes) ((n + 1) * c.rowBytes)

/-- The sources of row `j` of the vector: in `gath` its table row, in `scat` the contiguous row of its last position, or with a reduction
those of all (R336). -/
def CopyOp.sources (c : CopyOp) (j : Nat) (k : Nat × List Nat) : List (Int × List Piece) :=
  if c.opk == 1 then [((c.rowSeg k.1 0 0).1, c.piecesOf c.mapB j)]
  else (if c.opr == 0 then [k.2.getLastD k.1] else k.2).map fun i => ((c.flatSeg i 0 0).1, c.piecesOf c.mapA (i - 32 * c.prog))

/-- Its destination. -/
def CopyOp.sink (c : CopyOp) (j : Nat) (k : Nat × List Nat) : Int × List Piece :=
  if c.opk == 1 then ((c.flatSeg k.1 0 0).1, c.piecesOf c.mapA (k.1 - 32 * c.prog)) else ((c.rowSeg k.1 0 0).1, c.piecesOf c.mapB j)

/-- Marked bytes of the positions of a reduction, combined element by element in ascending position (R336). -/
def CopyOp.combine (c : CopyOp) (vs : List (List (Byte × Bool))) : List (Byte × Bool) :=
  (vs.drop 1).foldl (fun v x =>
    (reduceRow c.opr c.ty c.aux0 (v.map fun b => b.1) (x.map fun b => b.1)).zip ((v.zip x).map fun p => p.1.2 || p.2.2)) (vs.headD [])

/-- Marked bytes reach their row: written, or reduced into it at the home, element by element, each old value folded once (R335). A
partial write keeps poison, and a poisoned value brings it (R331). -/
def CopyOp.land (c : CopyOp) (s : State) (dst : List Piece) (bs : List (Byte × Bool)) : State × Nat :=
  if c.opr == 0 then s.engPut c.ctx (s.measOf c) dst bs 0
  else (List.range (bs.length / 4)).foldl (fun a e =>
    let d := slicePieces dst (4 * e) (4 * e + 4)
    let b := (bs.drop (4 * e)).take 4
    let r := a.1.engPut c.ctx (s.measOf c) d
      ((reduceRow c.opr c.ty c.aux0 (a.1.engRead c.ctx d) (b.map fun x => x.1)).zip (b.map fun x => x.2)) 0
    (r.1, max a.2 r.2)) (s, 0)

/-- The row of the vector that stands next, what is left of it or its next part: an element of a reduction, else an aligned part of the
destination. -/
def State.moveRow (s : State) (c : CopyOp) (whole : Bool) : State × CopyOp :=
  let n := c.rowBytes
  let j := c.part / n
  let lo := c.part % n
  let k := c.rows.getD j (0, [])
  let srcs := c.sources j k
  let dst := c.sink j k
  let hi := if whole then n else if c.opr != 0 then lo + 4
    else alignEnd (s.writeUnit c.ctx (slicePieces dst.2 lo (lo + 1))) [dst.1] (lo + 1) n
  let r0 := lo + c.buf.length
  let rd := if hi ≤ r0 then r0 else if whole then n else alignEnd 16 (srcs.map fun p => p.1) hi n
  let ps := srcs.map fun p => slicePieces p.2 r0 rd
  let all := c.buf ++ c.combine (ps.map fun p => s.engMarked c.ctx p)
  let r := c.land (ps.foldl (fun s p => s.engTouch c.ctx p) s) (slicePieces dst.2 lo hi) (all.take (hi - lo))
  (r.1, { c with w := max c.w r.2, part := c.part + (hi - lo), buf := all.drop (hi - lo) })

/-- The vector that stands next, or what is left of it, whole or its next part (R336). -/
def State.gatherVector (s : State) (c : CopyOp) (whole : Bool) : State :=
  match (if c.part == 0 then s.openVector c else (s, some c)) with
  | (s, none) => s
  | (s, some c) =>
    let left := c.rows.length - c.part / c.rowBytes
    let r := (List.range (if whole then left else 1)).foldl (fun a _ => a.1.moveRow a.2 whole) (s, c)
    let c' := if c.rows.length * c.rowBytes ≤ r.2.part then
        { r.2 with prog := c.prog + 1, part := 0, mapA := [], mapB := [], buf := [] }
      else r.2
    let s := r.1.modCopy c.id fun _ => c'
    if c.o2.toNat ≤ 32 * c'.prog then s.endCopy c' 0 0 c.o2.toNat else s

/-! ### probe and unpin (R337) -/

/-- One piece on each 64 KiB unit of a range. -/
def unitPieces (a n : Nat) : List (Nat × Nat) :=
  if n == 0 then []
  else (List.range ((a + n - 1) / 65536 + 1 - a / 65536)).map fun k => (if k == 0 then a else (a / 65536 + k) * 65536, 1)

def State.runProbe (s : State) (c : CopyOp) : State :=
  let m := s.mapPieces c.ctx (c.place false (c.mod.getLsbD 0)) (unitPieces c.o1.toNat c.o2.toNat)
  match m.faults, m.bad with
  | f :: fs, _ => m.s.holdCopy c (f :: fs)
  | [], some b => m.s.failCopy c 0x40 b
  | [], none =>
    let ts := m.s.pagesOf c.core c.ctx m.ok
    match m.s.pinLack c.core c.ctx ts with
    | some b => m.s.failCopy c 0x43 b
    | none => (m.s.pinPages c ts).endCopy c 0 0 ts.length

/-- COUNT is the number of pages whose count it lowered (assumption 11); a length of 0 does nothing. -/
def State.runUnpin (s : State) (c : CopyOp) : State :=
  let a := c.o1.toNat
  let n := c.o2.toNat
  let hit := fun (p : Pin) => n != 0 && decide (p.va < a + n) && decide (a < p.va + p.size)
  let k := (s.pins.filter fun p => p.core == c.core && p.ctx == c.ctx && hit p).length
  State.endCopy (s.lowerPins c.core c.ctx hit) c 0 0 k

/-! ### pfill (R305) -/

/-- Put a row of columns into a press region: data row or scale row `k`. -/
def fillRow (ty : Ty) (scl : Bool) (region at_ k : Nat) (m : Memory) (row : List Byte) : Memory :=
  (List.range 128).foldl (fun m j =>
    let base := j * region + at_
    if scl then m.set (base + k) (row.getD j 0)
    else if ty == .b1 then
      let old := m.get (base + k / 8)
      m.set (base + k / 8) (if (row.getD (j / 8) 0).getLsbD (j % 8) then old ||| (1#8 <<< (k % 8)) else old &&& ~~~(1#8 <<< (k % 8)))
    else m.setN (base + k * elemBytes ty) ((row.drop (j * elemBytes ty)).take (elemBytes ty))) m

/-- Rows of the source of a `pfill`, and bytes of each. -/
def CopyOp.fillShape (c : CopyOp) (b : Block) : Nat × Nat :=
  let k := bindK (b.bind c.o1.toNat)
  if c.mod.getLsbD 0 then (k / 32, 128) else (k, if c.ty == .b1 then 16 else 128 * elemBytes c.ty)

/-- Pieces of rows `lo` to `hi - 1` of the source, each row of `n` bytes. -/
def CopyOp.fillPieces (c : CopyOp) (n lo hi : Nat) : List (Nat × Nat) :=
  (List.range (hi - lo)).flatMap fun k => rangePieces (c.o0.toNat + (lo + k) * c.o2.toNat) n

/-- A `pfill` starts: its whole source is translated before any byte moves; a source that breaks R300's rules ends it with
0x40. -/
def State.probeFill (s : State) (c : CopyOp) : State :=
  match s.block? c.ctx c.cluster c.bid with
  | none => s
  | some b =>
    let sh := c.fillShape b
    let w := if c.mod.getLsbD 0 || c.ty == .b1 then 1 else elemBytes c.ty
    if c.o0.toNat % w != 0 || c.o2.toNat % w != 0 then s.failCopy c 0x40 c.o0.toNat
    else
      let m := s.mapPieces c.ctx (c.place (c.mod.getLsbD 1) false) (c.fillPieces sh.2 0 sh.1)
      match m.faults, m.bad with
      | f :: fs, _ => m.s.holdCopy c (f :: fs)
      | [], some e => m.s.failCopy c 0x40 e
      | [], none => m.s.modCopy c.id fun c => { c with probed := true }

/-- The rows `lo` to `end_ - 1` that stand next are translated before any of them moves. -/
def State.openFill (s : State) (c : CopyOp) (n lo end_ : Nat) : State × Option CopyOp :=
  let m := s.mapPieces c.ctx (c.place (c.mod.getLsbD 1) false) (c.fillPieces n lo end_)
  match m.faults, m.bad with
  | f :: fs, _ => (m.s.holdCopy c (f :: fs), none)
  | [], some e => (m.s.failCopy c 0x40 e, none)
  | [], none => (m.s, some { c with mapA := m.ok })

/-- The poison marks of the binding that a `pfill` has written are gone: of its data, or of its scales (R431). -/
def State.cleanFill (s : State) (c : CopyOp) (region at_ bytes : Nat) : State :=
  (List.range 128).foldl (fun s j => s.unpoisonSram (.mx c.ctx c.cluster c.bid (j * region + at_)) bytes) s

/-- The next 4 KiB of the source, or what is left of them, whole or the next row; a poisoned sector of it traps (R431;
assumption 29). -/
def State.fillChunk (s : State) (c : CopyOp) (whole : Bool) : State :=
  match s.block? c.ctx c.cluster c.bid, s.launch? c.ctx with
  | some b, some l =>
    let sh := c.fillShape b
    let n := 4096 / sh.2
    let end_ := min sh.1 (c.prog * n + n)
    match (if c.part == 0 then s.openFill c sh.2 (c.prog * n) end_ else (s, some c)) with
    | (s, none) => s
    | (s, some c) =>
      let lo := c.prog * n + c.part
      let hi := if whole then end_ else min end_ (lo + 1)
      let ps := slicePieces c.mapA (c.part * sh.2) ((hi - c.prog * n) * sh.2)
      if s.engPoison c.ctx ps then s.copyTrap c 0x09 0
      else
        let data := (chop sh.2 (hi - lo) (s.engRead c.ctx ps)).mapIdx fun k row => (lo + k, row)
        let d := b.bind c.o1.toNat
        let at_ := if c.mod.getLsbD 0 then bindScale d else bindBase d
        let c' := if hi == end_ then { c with prog := c.prog + 1, part := 0, mapA := [] } else { c with part := hi - c.prog * n }
        let s := ((s.engTouch c.ctx ps).modBlock c.ctx c.cluster c.bid fun b =>
          { b with press := data.foldl (fun m r => fillRow c.ty (c.mod.getLsbD 0) l.region at_ r.1 m r.2) b.press }).modCopy c.id
            fun _ => c'
        if sh.1 ≤ hi then
          (s.cleanFill c l.region at_ (if c.mod.getLsbD 0 then sh.1 else (sh.1 * (if c.ty == .b1 then 1 else 8 * elemBytes c.ty)) / 8)).endCopy c' 0 0 sh.1
        else s
  | _, _ => s

/-! ### cpseal (R339, R340) -/

/-- The measurement of a slot (R339, R427): zero for slot 0, all ones for slot 15. -/
def Service.measurement (v : Service) (slot : Nat) : BitVec 384 :=
  if slot == 0 then 0
  else if slot == 15 then BitVec.allOnes 384
  else
    match v.slots.find? fun c => c.slot == slot with
    | some c => c.digest
    | none => 0

/-- The measurement slot of the latest writer of the line, of a slice or of a frame, that a byte lies in (R339). -/
def State.lineSlot (s : State) (t : Target) : Nat := ((s.lineSlots.find? fun e => e.1 == t.key).map fun e => e.2).getD 0

/-- The checks before any byte moves. -/
def State.sealPass (s : State) (c : CopyOp) : State :=
  let n := c.o2.toNat
  let m := c.mapSide s false [((c.o1.toNat : Int), n)]
  match m.faults, m.bad with
  | f :: fs, _ => m.s.holdCopy c (f :: fs)
  | [], some b => m.s.failCopy c 0x40 b
  | [], none =>
    if !m.s.hostOk c.o0.toNat (n + 96) then m.s.failCopy c 0x40 (c.o0.toNat % 2 ^ 57)
    else
      match m.ok.find? fun p => !p.m.sealed with
      | some p => m.s.failCopy c 0x44 p.va
      | none =>
        let slot := fun (p : Piece) => m.s.lineSlot (m.s.pieceTarget c.ctx p)
        let first := (m.ok.head?.map slot).getD 0
        match m.ok.find? fun p => slot p != first with
        | some p => m.s.failCopy c 0x45 p.va
        | none => m.s.modCopy c.id fun c => { c with probed := true, aux1 := first }

/-- The record of Table 6 without its TAG: HASH, DEVID, SEQ, MEAS. -/
def provenance (data : List Byte) (seq : Nat) (meas : BitVec 384) : List Byte :=
  sha384 data ++ natToBytes 8 Config.devId.toNat ++ natToBytes 8 seq ++ natToBytes 16 meas.toNat

/-- Write the record: SEQ is taken, TAG chains to the record before (R340). -/
def State.sealRecord (s : State) (c : CopyOp) : State :=
  let data := c.q.flatMap fun w => natToBytes 4 w.toNat
  let seq := s.service.seq
  let head := provenance data seq (s.service.measurement c.aux1)
  let tag := (hmac384 Config.deviceKey (head ++ natToBytes 16 s.service.headTag.toNat)).take 16
  let s := { s with
    outside := { s.outside with host := s.outside.host.setN (c.o0.toNat + c.o2.toNat) (head ++ tag) },
    service := { s.service with seq := (seq + 1) % 2 ^ 64, headTag := BitVec.ofNat 128 (bytesToNat tag) } }
  s.endCopy c 0 0 (seq % 2 ^ 20)

/-! ### Events -/

/-- May the engine of a core work on an operation (R276, R400, R411)? A stop or a halt lets it complete the chunk or vector that
it has begun. -/
def State.copyRuns (s : State) (c : CopyOp) : Bool :=
  if c.orphan then !s.stopped else s.engineRuns c.ctx || (c.part != 0 && !s.stopped)

/-- The first operation of a queue that starts now, at most four of them under way (Table 1); an operation held at its start
and answered starts over. -/
def startable : List CopyOp → Nat → Option CopyOp
  | [], _ => none
  | c :: cs, n =>
    match c.st with
    | .queued => if n < 4 then some c else none
    | .running => if !c.probed && (c.opk == 3 || c.opk == 5 || c.opk == 8) then some c else startable cs (n + 1)
    | .faulted _ => startable cs (n + 1)
    | .finished _ _ => startable cs n

/-- Begin an operation: shape and count limits, then the part that runs whole. -/
def State.beginCopy (s : State) (c : CopyOp) : State :=
  let run := s.modCopy c.id fun c => { c with st := .running, probed := c.opk == 0 }
  let n := c.o2.toNat
  match c.opk with
  | 0 =>
    let sh := c.shape
    if sh.1 == 0 || sh.2.1 == 0 then s.endCopy c 0 0 0
    else if 2 ^ 20 < sh.1 ∨ 2 ^ 32 ≤ sh.1 * sh.2.1 then s.failShape c 0x48
    else run
  | 3 => run.runProbe c
  | 4 => run.runUnpin c
  | 5 => run.probeFill c
  | 8 =>
    if n % 64 != 0 || c.o1.toNat % 64 != 0 || c.o0.toNat % 64 != 0 || n < 64 || 2 ^ 24 < n then s.failShape c 0x48
    else run.sealPass c
  | _ =>
    if n == 0 then s.endCopy c 0 0 0
    else if 2 ^ 20 < n then s.failShape c 0x48
    else if c.opr != 0 && (c.rowBytes % 4 != 0 || c.table % 4 != 0) then s.failCopy c 0x42 (c.table % (2 ^ 57 : Nat)).toNat
    else run

/-- COPY_OP_START (R276, R329): the next operation of a core's queue starts, once the older writes of its lanes have
returned. -/
def execCopyOpStart (core : Nat) (s : State) : Result :=
  .next (match startable (s.copyQueue core) 0 with
    | none => s
    | some c => if s.copyRuns c && !s.writesOut c.uids then s.beginCopy c else s)

/-- A running operation past its start moves its next chunk or vector, or the next part of it. -/
def State.advance (s : State) (c : CopyOp) (whole : Bool) : State :=
  if c.opk == 5 then s.fillChunk c whole
  else if c.opk == 1 || c.opk == 2 then s.gatherVector c whole
  else if decide (c.prog * 4096 < c.shape.1 * c.shape.2.1) then s.copyChunk c whole
  else s

/-- The operation with a number, if it is one of these kinds, runs, and is past its start. -/
def State.runningOp (s : State) (op : Nat) (kinds : List Nat) : Option CopyOp :=
  s.copyOps.find? fun (c : CopyOp) => c.id == op && c.st == .running && c.probed && kinds.contains c.opk

/-- A turn in which an operation performs its next part (R329). -/
def State.doPart (s : State) (op : Nat) : State :=
  match s.runningOp op [0, 1, 2, 5, 8] with
  | none => s
  | some c => if s.copyRuns c then s.advance c false else s

/-- CP_CHUNK (R305, R331, R339): the next 4 KiB chunk of a `cp`, `cpseal` or `pfill`, or what is left of it. -/
def execCpChunk (op : Nat) (s : State) : Result :=
  .next (match s.runningOp op [0, 5, 8] with
    | none => s
    | some c => if s.copyRuns c then s.advance c true else s)

/-- GATHER_PROBE_PASS (R334). -/
def execGatherProbePass (op : Nat) (s : State) : Result :=
  .next (match s.copyOps.find? fun (c : CopyOp) => c.id == op && c.st == .running && !c.probed && (c.opk == 1 || c.opk == 2) with
    | none => s
    | some c => if s.copyRuns c then s.probePass c else s)

/-- GATHER_VECTOR (R336): the next vector, or what is left of it. -/
def execGatherVector (op : Nat) (s : State) : Result :=
  .next (match s.runningOp op [1, 2] with
    | none => s
    | some c => if s.copyRuns c then s.advance c true else s)

/-- CPSEAL_RECORD_WRITE (R339, R340): after every data byte. -/
def execCpsealRecordWrite (op : Nat) (s : State) : Result :=
  .next (match s.copyOps.find? fun (c : CopyOp) => c.id == op && c.st == .running && c.probed && c.opk == 8 with
    | none => s
    | some c => if s.copyRuns c && decide (c.o2.toNat ≤ c.prog * 4096) then s.sealRecord c else s)

/-- The status word an operation writes (R218). -/
def CopyOp.status (c : CopyOp) (code : Nat) : Word :=
  BitVec.ofNat 32 (c.opk * 2 ^ 28 + min c.prog (2 ^ 20 - 1) * 2 ^ 8 + code % 256)

/-- Writes to host and peer memory await their acknowledgement, at a time the destination chooses (R270, sys). -/
def State.awaitAcks (s : State) (c : CopyOp) : State :=
  if c.opk == 8 || (c.opk == 0 && c.spaces.2 != 0) then
    let t := s.gt + (Config.freeWord s.nextId).toNat
    { s with outside := { s.outside with
               unacked := (s.outside.unacked.filter fun u => decide (s.gt < u.2)) ++ c.uids.map fun u => (u, t) },
             nextId := s.nextId + 1 }
  else s

/-- Does its code raise engine-error as it retires (R327)? -/
def CopyOp.traps (c : CopyOp) (code : Nat) : Bool := c.inQueue && c.mod.getLsbD 15 && code != 0

/-- An ended operation leaves its queue, and completes in its warp with its status and W. -/
def State.retireCopy (s : State) (c : CopyOp) (code addr : Nat) : State :=
  let k := s.issuerOf c
  let s := { s with copyOps := s.copyOps.filter fun (d : CopyOp) => d.id != c.id,
                    g5 := if c.opk == 5 then s.g5.filter fun (e : G5Entry) => e.id != c.id else s.g5 }
  (s.awaitAcks c).completeOp k.1 k.2 c.id (some (c.status code)) c.w (if c.traps code then some addr else none)

/-- The operations of a warp that ended behind one that has just retired retire with it, in issue order, up to one that traps
(R193). -/
def State.retireBehind (s : State) (core slot : Nat) : Nat → State
  | 0 => s
  | n + 1 =>
    match (s.oldestCp core slot).bind fun id => s.copyOps.find? fun (c : CopyOp) => c.id == id with
    | none => s
    | some c =>
      match c.st with
      | .finished code addr =>
        let t := s.retireCopy c code addr
        if c.traps code then t else t.retireBehind core slot n
      | _ => s

/-- COPY_OP_RETIRE (R193, R305, R327): an ended operation with no older one open in its warp writes its status and W as its
count retires, and those that ended behind it follow; with TRAP, an error raises engine-error. -/
def execCopyOpRetire (op : Nat) (s : State) : Result :=
  .next (match s.copyOps.find? fun (c : CopyOp) => c.id == op with
    | none => s
    | some c =>
      match c.st with
      | .finished code addr =>
        let k := s.issuerOf c
        if s.olderOpen k.1 k.2 c.id .cp then s
        else
          let t := s.retireCopy c code addr
          if c.traps code then t else t.retireBehind k.1 k.2 s.copyOps.length
      | _ => s)

end Sys2Proof.Machine
end

