-- ==== Sys2Proof/Machine/Placement.lean ====
section
/-! DEFINITION. Placement operations: `discard` (R219 to R222) and `rstrp` (R223 to R229) with the events that carry them
out. -/

namespace Sys2Proof.Machine

open Sys2Proof

/-! ### discard -/

/-- `discard` records T, the global time at issue (R220). -/
def execDiscard (g : Guard) (o : ROps) (s : State) : Result :=
  issue g s [] (fun _ => true) false fun x =>
    let c := x.copyOp 7 0 0 0 [] o.mod o.ty
    x.startCopy { c with st := .running, probed := true, aux0 := x.s.coreGt x.w.core, slices := List.range 192 }

/-- Does the `discard` numbered `id` of tag `t`, issued at `T`, invalidate the line (R220)? A write performed after it issued
counts as later than T, whatever the slice's copy of global time says. -/
def L2Line.discarded (k : L2Line) (t T id : Nat) : Bool :=
  k.tag == t && (match k.wrote with
    | some w => decide (w ≤ T) && decide (k.order ≤ id)
    | none => true)

/-- DISCARD_SLICE_WALK (R220, R222): a slice walks its lines; the last slice ends the operation. -/
def execDiscardSliceWalk (op slice : Nat) (s : State) : Result :=
  .next (match s.copyOps.find? fun (c : CopyOp) => c.id == op && c.opk == 7 && c.st == .running && c.slices.contains slice with
    | none => s
    | some c =>
        let hit := fun (k : L2Line) => sliceOf (k.line * 128) == slice && k.discarded (c.mod.extractLsb' 0 8).toNat c.aux0 c.id
        let n := (s.l2.filter hit).length
        let left := c.slices.filter (· != slice)
        let c' := { c with slices := left, aux1 := c.aux1 + n, w := max c.w (s.sliceGt slice + 2) }
        let s := State.modCopy { s with l2 := s.l2.filter fun k => !hit k } op fun _ => c'
        if left.isEmpty then s.modCopy op fun c => { c with st := .finished 0 0, prog := c.aux1 } else s)

/-! ### The pool (R224, Table 8) -/

structure Pool where
  list : Nat
  cap : Nat
  fsz : Nat
  tail : Word
  head : Word
  rlist : Nat
  rcap : Nat
  rtail : Word
  rhead : Word
  zero : Bool
  deriving DecidableEq, Repr

/-- The fields of a descriptor's 64 bytes. -/
def poolOf (bs : List Byte) : Pool :=
  let f := fun (o n : Nat) => bytesToNat ((bs.drop o).take n)
  { list := f 0x00 8, cap := f 0x08 4, fsz := f 0x0C 4, tail := BitVec.ofNat 32 (f 0x10 4), head := BitVec.ofNat 32 (f 0x14 4),
    rlist := f 0x18 8, rcap := f 0x20 4, rtail := BitVec.ofNat 32 (f 0x24 4), rhead := BitVec.ofNat 32 (f 0x28 4),
    zero := f 0x2C 20 == 0 }

/-- A power of two from 1 to 2^20. -/
def capOk (n : Nat) : Bool := (List.range 21).any fun k => n == 2 ^ k

/-- Is a descriptor valid (R224)? -/
def Pool.valid (p : Pool) : Bool :=
  capOk p.cap && capOk p.rcap && decide (p.fsz ≤ 2) && p.list % 8 == 0 && p.rlist % 16 == 0 && p.zero

/-- The page size that FSZ names. -/
def Pool.frame (p : Pool) : Nat := if p.fsz == 0 then 65536 else if p.fsz == 1 then 2 ^ 21 else 2 ^ 30

/-! ### rstrp (R223, R225) -/

/-- A in `o1`, npages in `o2`, the target geometry index in `q`. -/
def execRstrp (g : Guard) (o : ROps) (s : State) : Result :=
  issue g s ([(o.a, 2), (o.c, 1)] ++ o.b.use 1) (fun _ => true) false fun x =>
    let i := x.lead
    x.startCopy (x.copyOp 6 0 (x.read i o.a 2) (x.readB i o.b 1) [x.word i o.c] 0 o.ty)

/-- Table-space offset of the PTE of an address, for the levels that remain (R235, R237). -/
def State.leafFrom (s : State) (va table : Nat) : List (Nat × Nat × Nat) → Option Nat
  | [] => none
  | (_, sh, bits) :: rest =>
    let o := table + 8 * (va / 2 ^ sh % 2 ^ bits)
    let e : DWord := BitVec.ofNat 64 (bytesToNat (s.tsRead o 8))
    if e.getLsbD 1 then some o else s.leafFrom va (fieldAt e 39 8) rest

/-- Table-space offset of the PTE of a mapped page. -/
def State.leafOffset (s : State) (ctx va : Nat) : Option Nat :=
  s.leafFrom va (fieldAt (s.bank ctx).ptroot 39 21) [(4, 39, 18), (3, 30, 9), (2, 21, 9), (1, 16, 5)]

/-- The size of the page at an address, if it may be moved: valid, device-owned, not core-pinned. -/
def State.movable (s : State) (ctx va : Nat) : Option Nat :=
  if 2 ^ 57 ≤ va || (s.tsOffset va).isSome then none
  else
    match s.walk ctx va with
    | .leaf pte size => if pteOwn pte || (pteWord pte).hc == 3 then none else some size
    | _ => none

/-- Check 2: the page size, where the range is good. -/
def State.rangeSize (s : State) (c : CopyOp) : Option Nat :=
  let va := c.o1.toNat
  let n := c.o2.toNat
  if 2 ^ 20 ≤ n || (coveringWindow va (s.bank c.ctx).heap).isSome then none
  else
    match s.movable c.ctx va with
    | none => none
    | some p =>
      if va % p == 0 && (List.range n).all fun k => s.movable c.ctx (va + k * p) == some p then some p else none

/-- The operation ends at its checks: COUNT 0. -/
def State.failRstrp (s : State) (c : CopyOp) (code : Nat) : State :=
  s.modCopy c.id fun c => { c with st := .finished code 0, prog := 0 }

/-- The key under which the part keeps RSV: where the descriptor lies (R225). -/
def State.poolKey (s : State) (c : CopyOp) (va : Nat) : Nat :=
  match c.place false false s va 1 with
  | .ok m => (match m.tgt with
    | .line d => d
    | _ => va)
  | _ => va

/-- Return slots reserved and not yet written, and written but not yet passed by RTAIL, of a pool. -/
def State.rsvOf (s : State) (key : Nat) : Nat :=
  match s.rsv.find? fun r => r.1 == key with
  | some r => r.2
  | none => 0

def State.returnedOf (s : State) (key : Nat) : Nat := (s.returned.filter fun r => r.1 == key).length

def State.setRsv (s : State) (key n : Nat) : State :=
  let rest := s.rsv.filter fun r => r.1 != key
  { s with rsv := if n == 0 then rest else rest ++ [(key, n)] }

/-- The operations of the context that a restore has still to bring back, as the part kept them (R228). -/
def State.awaitedOps (s : State) (ctx : Nat) : List CopyOp :=
  match s.restoring with
  | some r => if r.ctx == ctx then s.shelf.filterMap fun h => if h.ctx == r.wasCtx && h.gen == r.wasGen then (match h.kept with
      | .copy d => some d
      | _ => none) else none else []
  | none => []

/-- Does another `rstrp` of the context, past its checks, still move a page of the range (check 4), though it lie saved in an image
that is being restored? -/
def State.rangeBusy (s : State) (c : CopyOp) (p : Nat) : Bool :=
  ((s.copyOps.filter fun (d : CopyOp) => d.id != c.id && d.ctx == c.ctx) ++ s.awaitedOps c.ctx).any fun (d : CopyOp) =>
    d.opk == 6 && d.probed && (match d.st with
      | .finished _ _ => false
      | _ =>
        let q := d.slices.getD 0 0
        decide (d.o1.toNat + d.prog * q < c.o1.toNat + c.o2.toNat * p) &&
          decide (c.o1.toNat < d.o1.toNat + d.o2.toNat * q))

/-- Write bytes as an engine access of an operation whose translation was checked. -/
def CopyOp.writeAt (c : CopyOp) (s : State) (va : Nat) (bs : List Byte) : State :=
  let m := c.mapSide s true [((va : Int), bs.length)]
  (m.s.engWrite c.ctx (s.measOf c) m.ok bs 0).1

/-- Checks 4 and 5 and the reservation, one step (R225). Entries written and not yet passed count with RSV, so that two
operations never reserve one entry (assumption 13). -/
def State.reserve (s : State) (c : CopyOp) (p pool : Nat) (d : Pool) : State :=
  let key := s.poolKey c pool
  let n := c.o2.toNat
  let out := s.rsvOf key + s.returnedOf key
  if s.rangeBusy c p then s.failRstrp c 0x04
  else if (d.tail - d.head).toNat < n || d.rcap - (d.rtail - d.rhead).toNat - out < n then s.failRstrp c 0x01
  else
    let s := c.writeAt s (pool + 0x14) (natToBytes 4 (d.head + BitVec.ofNat 32 n).toNat)
    (s.setRsv key (s.rsvOf key + n)).modCopy c.id fun c =>
      { c with st := .running, probed := true, prog := 0, aux0 := d.head.toNat,
               aux1 := (d.rtail + BitVec.ofNat 32 out).toNat, slices := [p, pool] }

/-- The checks of R225, in order; faults hold the operation. -/
def State.startRstrp (s : State) (c : CopyOp) : State :=
  let gi := (c.q.getD 0 0).toNat
  if c.o2 == 0 then s.failRstrp c 0
  else
    match s.rangeSize c with
    | none => s.failRstrp c 0x02
    | some p =>
      let geo := geometry (s.geoEntry c.ctx gi)
      if 64 ≤ gi || !geo.valid || geo.pool == 0 then s.failRstrp c 0x03
      else
        let m := c.mapSide s true [((geo.pool : Int), 64)]
        match m.faults, m.bad with
        | f :: fs, _ => m.s.holdCopy c (f :: fs)
        | [], some _ => m.s.failRstrp c 0x03
        | [], none =>
          let d := poolOf (m.s.engRead c.ctx m.ok)
          if !d.valid then m.s.failRstrp c 0x03
          else
            let a := c.mapSide (m.s.engTouch c.ctx m.ok) false [((d.list : Int), 8 * d.cap)]
            let b := c.mapSide a.s true [((d.rlist : Int), 16 * d.rcap)]
            match b.s.onePerPage c.ctx (a.faults ++ b.faults) with
            | f :: fs => b.s.holdCopy c (f :: fs)
            | [] =>
              if a.bad.isSome || b.bad.isSome || d.frame != p then b.s.failRstrp c 0x03 else b.s.reserve c p geo.pool d

/-- RSTRP_START (R225). -/
def execRstrpStart (op : Nat) (s : State) : Result :=
  .next (match s.copyOps.find? fun (c : CopyOp) =>
      c.id == op && c.opk == 6 && !c.probed && (c.st == .queued || c.st == .running) with
    | none => s
    | some c => if s.copyRuns c then s.startRstrp c else s)

/-! ### Moving a page (R226, R227) -/

/-- Read bytes as an engine access after the checks: the bytes, or the state that holds or halts the operation. -/
def CopyOp.readAt (c : CopyOp) (s : State) (va n : Nat) : State × Option (List Byte) :=
  let m := c.mapSide s false [((va : Int), n)]
  match m.faults, m.bad with
  | f :: fs, _ => (m.s.holdCopy c (f :: fs), none)
  | [], some b => (m.s.copyTrap c 0x07 b, none)
  | [], none => (m.s.engTouch c.ctx m.ok, some (m.s.engRead c.ctx m.ok))

/-- A PTE with another frame and geometry (step 3 of R226). -/
def ptePlaced (pte : DWord) (frame geo : Nat) : DWord :=
  (pte &&& ~~~0x003F00007FFFFF00#64) ||| BitVec.ofNat 64 (frame / 256 % 2 ^ 23 * 256) ||| BitVec.ofNat 64 (geo % 64 * 2 ^ 48)

/-- Begin the move of the page that stands next: its frame is taken from the list (step 1). A page found unmapped then, the driver having
broken R228, halts the context with access-violation (DESIGN CHOICE, assumption 91). -/
def State.beginPage (s : State) (c : CopyOp) : State × Option Moving :=
  let p := c.slices.getD 0 65536
  let pool := c.slices.getD 1 0
  let va := c.o1.toNat + c.prog * p
  let gi := (c.q.getD 0 0).toNat
  match c.readAt s pool 64 with
  | (s, none) => (s, none)
  | (s, some bs) =>
    let d := poolOf bs
    match c.readAt s (d.list + 8 * ((c.aux0 + c.prog) % 2 ^ 32 % d.cap)) 8 with
    | (s, none) => (s, none)
    | (s, some fb) =>
      match s.walk c.ctx va, s.leafOffset c.ctx va with
      | .leaf pte _, some o =>
        let m : Moving :=
          { op := c.id, ctx := c.ctx, va := va, size := p, pteAt := (s.tsPlace o).getD 0, old := pte,
            oldGeo := s.geoEntry c.ctx (pteWord pte).geo, new_ := ptePlaced pte (bytesToNat fb % 2 ^ 31) gi,
            newGeo := s.geoEntry c.ctx gi, moved := 0, shot := false }
        ({ s with moving := s.moving ++ [m] }, some m)
      | _, _ => (s.copyTrap c 0x07 va, none)

/-- The poison marks of a line moved with its bytes. -/
def movePoison (poison : List Nat) (a b : Nat) : List Nat :=
  (poison.filter fun p => p / 4 != b) ++ (poison.filter fun p => p / 4 == a).map fun p => b * 4 + p % 4

/-- Copy one line from device address `a` to device address `b` of another frame (R226, R227, R277): bytes, tag, poison
marks, lock, latest write and lease record go with it. A line that its slice holds is held by the new slice as it was held: where
it is dirty the new channel takes what the old channel held, so that a `discard` still finds there the value of a write to each
byte, or its content before any (R221). -/
def State.moveLine (s : State) (m : Moving) (a b : Nat) : State :=
  let w := pteWord m.old
  let la := a / 128
  let lb := b / 128
  let data := s.devRead a 128
  let chan := s.hbm.getN (la * 128) 128
  let old := s.l2.find? fun l => l.line == la
  let expiry := match s.leases.find? fun l => l.1 == la with
    | some l => l.2
    | none => s.ev.getD (sliceOf a) 0
  let poison := movePoison s.poison la lb
  let slot := s.lineSlot (.line a)
  let serving := !s.retired.contains (groupOf (sliceOf b))
  let s := match old with
    | some k => s.evict k
    | none => s
  let s := { s with l2 := s.l2.filter fun l => l.line != lb }
  let locked := old.bind fun k => k.locked
  let lock := locked.isSome && s.mayLock lb
  let s := match (if serving then old else none) with
    | some k =>
      let s := s.makeWay lb
      { s with hbm := s.hbm.setN (lb * 128) (if k.dirty then chan else data),
               l2 := { k with line := lb, data := data, tag := w.tag, locked := if lock then locked else none } :: s.l2 }
    | none => { s with hbm := s.hbm.setN (lb * 128) data }
  let s := if locked.isSome && !lock then s.pinOverflow (sliceOf b) else s
  let s := (s.dropRecord la).grant lb expiry
  { s with poison := poison,
           lineSlots := (s.lineSlots.filter fun e => e.1 != .line la && e.1 != .line lb) ++ (if slot == 0 then [] else [(.line lb, slot)]) }

/-- Update the page under move of an operation. -/
def State.modMoving (s : State) (op : Nat) (f : Moving → Moving) : State :=
  { s with moving := s.moving.map fun m => if m.op == op then f m else m }

/-- The line that stands next. A listed frame that reaches a channel-local address of 2^31 or more (R213) halts the context with
access-violation where a line would be copied there (DESIGN CHOICE, assumption 92). -/
def State.nextLine (s : State) (c : CopyOp) (m : Moving) : State :=
  if m.size ≤ m.moved * 128 then s
  else
    let s' := s.modMoving c.id fun m => { m with moved := m.moved + 1 }
    match m.place false (m.moved * 128), m.place true (m.moved * 128) with
    | some a, some b => s'.moveLine m a b
    | _, none => s.copyTrap c 0x07 (m.va + m.moved * 128)
    | none, some _ => s'

/-- RSTRP_LINE_COPY (R226 step 2, R227): one line; the first of a page takes its frame. -/
def execRstrpLineCopy (op : Nat) (s : State) : Result :=
  .next (match s.copyOps.find? fun (c : CopyOp) => c.id == op && c.opk == 6 && c.probed && c.st == .running with
    | none => s
    | some c =>
      if !s.copyRuns c then s
      else
        match s.moving.find? fun m => m.op == op with
        | some m => s.nextLine c m
        | none =>
          match s.beginPage c with
          | (s, some m) => s.nextLine c m
          | (s, none) => s)

/-- RSTRP_PAGE_SHOOTDOWN (R226 step 3, R338): the PTE's frame and geometry are written, TLB entries removed, pins updated. -/
def execRstrpPageShootdown (op : Nat) (s : State) : Result :=
  .next (match s.moving.find? fun m => m.op == op && !m.shot && decide (m.size ≤ m.moved * 128),
      s.copyOps.find? fun (c : CopyOp) => c.id == op with
    | some m, some c =>
      if !s.copyRuns c then s
      else
        let now : DWord := BitVec.ofNat 64 (bytesToNat (s.devRead m.pteAt 8))
        let pte := ptePlaced now (pteFrame m.new_) (pteWord m.new_).geo
        let s := (s.touchLine m.pteAt m.ctx 0 0 true).devWrite m.pteAt (natToBytes 8 pte.toNat)
        let s := s.tlbDrop m.ctx m.va (m.va + m.size)
        let s := { s with pins := s.pins.map fun (p : Pin) =>
          if p.ctx == m.ctx && p.va == m.va && p.pte.isSome then { p with pte := some pte, geo := m.newGeo } else p }
        (s.modMoving op fun m => { m with shot := true }).modCopy op fun c => { c with w := max c.w (s.gt + 2) }
    | _, _ => s)

/-- Is an access that translated with the old PTE still to be served? -/
def State.oldAccess (s : State) (m : Moving) : Bool :=
  let at_ := fun (va : Nat) (d : Nat) => decide (m.va ≤ va) && decide (va < m.va + m.size) && m.place false (va - m.va) == some d
  (s.reqs.any fun (r : Req) => r.ctx == m.ctx && (match r.tgt with
    | .line d => at_ r.va d && (r.unperformed || (r.kind == ReqKind.load && r.got.isNone))
    | _ => false)) ||
  (s.fills.any fun f => f.ctx == m.ctx && at_ f.va (f.line * 128)) ||
  (s.openPieces.any fun p => p.1 == m.ctx && (match p.2.m.tgt with
    | .line d => at_ p.2.va d
    | _ => false)) ||
  (s.cwaits.any fun w => w.ctx == m.ctx && (match w.dev with
    | some d => at_ (w.line * 64) d
    | none => false))

/-- RTAIL passes every written entry that directly follows it (R226): the index it stops at, and the entries left. -/
def passReturned (key : Nat) : Nat → Word → List (Nat × Nat) → Word × List (Nat × Nat)
  | 0, t, ws => (t, ws)
  | fuel + 1, t, ws =>
    if ws.contains (key, t.toNat) then passReturned key fuel (t + 1) (ws.filter fun w => w != (key, t.toNat)) else (t, ws)

/-- Write the return entry of the page moved (step 4). -/
def State.returnPage (s : State) (c : CopyOp) (m : Moving) : State :=
  let pool := c.slices.getD 1 0
  match c.readAt s pool 64 with
  | (s, none) => s
  | (s, some bs) =>
    let d := poolOf bs
    let i := (c.aux1 + c.prog) % 2 ^ 32
    let va := d.rlist + 16 * (i % d.rcap)
    let e := natToBytes 8 (pteFrame m.old) ++ natToBytes 8 (m.va + (pteWord m.old).geo)
    let w := c.mapSide s true [((va : Int), 16)]
    let v := c.mapSide w.s true [((pool + 0x24 : Nat), 4)]
    match v.s.onePerPage c.ctx (w.faults ++ v.faults), w.bad, v.bad with
    | f :: fs, _, _ => v.s.holdCopy c (f :: fs)
    | [], some b, _ => v.s.copyTrap c 0x07 b
    | [], none, some b => v.s.copyTrap c 0x07 b
    | [], none, none =>
      let key := v.s.poolKey c pool
      let s := c.writeAt v.s va e
      let r := passReturned key (s.returned.length + 1) d.rtail (s.returned ++ [(key, i)])
      let s := c.writeAt (s.setRsv key (s.rsvOf key - 1)) (pool + 0x24) (natToBytes 4 r.1.toNat)
      let c' := { c with prog := c.prog + 1 }
      let s := State.modCopy { s with returned := r.2, moving := s.moving.filter fun n => n.op != c.id } c.id fun _ => c'
      if c.o2.toNat ≤ c.prog + 1 then s.modCopy c.id fun c => { c with st := .finished 0 0, prog := c.o2.toNat } else s

/-- RSTRP_RETURN_ENTRY (R226 step 4). -/
def execRstrpReturnEntry (op : Nat) (s : State) : Result :=
  .next (match s.moving.find? fun m => m.op == op && m.shot,
      s.copyOps.find? fun (c : CopyOp) => c.id == op && c.st == .running with
    | some m, some c => if s.copyRuns c && !s.oldAccess m then s.returnPage c m else s
    | _, _ => s)

end Sys2Proof.Machine
end

