-- ==== Sys2Proof/Machine/Sorter.lean ====
section
/-! DEFINITION. The sorter (R342 to R363): `sortw`, `sortq`, `sortd`, `sortc`, the records of a thread in transit, baskets,
emission, spilling, quiescence and exhaustion. -/

namespace Sys2Proof.Machine

open Sys2Proof

/-! ### Records (R346, R347) -/

/-- Records a thread takes. -/
def recordCount (l : Lane) (n : Nat) : Nat :=
  1 + (if l.frames.isEmpty then 0 else 1) + (if l.rsnap.isEmpty then 0 else 1) + (if n == 0 then 0 else 1)

def Basketed.records (b : Basketed) : Nat := recordCount b.lane b.n

/-- A frame's 16 bytes. -/
def frameBytes (f : Frame) : List Byte :=
  natToBytes 8 f.start.toNat ++ natToBytes 4 (f.fin.truncate 32 - f.start.truncate 32 : BitVec 32).toNat ++
    natToBytes 4 f.remaining.toNat

/-- Pad a record to 64 bytes. -/
def padRecord (bs : List Byte) : List Byte := bs ++ List.replicate (64 - bs.length) 0

/-- Frames, innermost last. -/
def framesRecord (fs : List Frame) : List Byte := padRecord (fs.reverse.flatMap frameBytes)

/-- The header record (Table 3). -/
def Basketed.header (b : Basketed) : List Byte :=
  let l := b.lane
  padRecord
    (natToBytes 8 l.pc.toNat ++ natToBytes 8 l.rpc.toNat ++ natToBytes 8 l.vis ++ natToBytes 8 l.dgt ++
      natToBytes 4 l.rcnt.toNat ++ natToBytes 2 l.mc ++ natToBytes 2 l.pw ++ natToBytes 2 l.key.toNat ++
      natToBytes 2 l.tid ++ natToBytes 2 l.bid ++ [l.p &&& 0xFE] ++
      natToBytes 1 (b.stage + (if l.withdrawn then 4 else 0)) ++ natToBytes 1 b.n ++ natToBytes 1 b.q ++
      natToBytes 1 (l.frames.length + 8 * l.rsnap.length) ++ natToBytes 1 b.records ++ natToBytes 4 b.arr.toNat)

/-- All records of a thread, in order of their kinds. -/
def Basketed.bytes (b : Basketed) : List Byte :=
  b.header ++ (if b.lane.frames.isEmpty then [] else framesRecord b.lane.frames) ++
    (if b.lane.rsnap.isEmpty then [] else framesRecord b.lane.rsnap) ++
    (if b.n == 0 then [] else padRecord (((b.lane.v.drop b.q).take b.n).flatMap fun w => natToBytes 4 w.toNat))

/-- An n-byte field of bytes. -/
def fieldOf (bs : List Byte) (o n : Nat) : Nat := bytesToNat ((bs.drop o).take n)

/-- A frame from its 16 bytes. -/
def frameOf (bs : List Byte) : Frame :=
  let start : VAddr := BitVec.ofNat 57 (fieldOf bs 0 8)
  { start := start, fin := start + (BitVec.ofNat 32 (fieldOf bs 8 4)).signExtend 57,
    remaining := BitVec.ofNat 32 (fieldOf bs 12 4) }

/-- `d` frames of a record, innermost first. -/
def framesOf (bs : List Byte) (d : Nat) : List Frame :=
  ((List.range d).map fun i => frameOf ((bs.drop (16 * i)).take 16)).reverse

/-- A thread from its records as they stand, where its fields lie in the ranges of Table 3 (R344): what the header does not
hold stays as the sorter has it. -/
def Basketed.parse (b : Basketed) (nreg : Nat) (bs : List Byte) : Option Basketed :=
  let f := fieldOf bs
  let n := f 0x30 1
  let q := f 0x31 1
  let depth := f 0x32 1 % 8
  let sdepth := f 0x32 1 / 8 % 8
  let count := 1 + (if depth == 0 then 0 else 1) + (if sdepth == 0 then 0 else 1) + (if n == 0 then 0 else 1)
  if f 0 8 < 2 ^ 57 && f 8 8 < 2 ^ 57 && f 0x28 2 < 4096 && f 0x2A 2 < 1024 && f 0x2E 1 % 2 == 0 && f 0x2F 1 < 8 && n ≤ 12 &&
      (n != 0 || q == 0) && q + n ≤ nreg && depth ≤ 4 && sdepth ≤ 4 && f 0x32 1 < 64 && f 0x33 1 == count &&
      f 0x38 8 == 0 then
    let o1 := 64
    let o2 := o1 + (if depth == 0 then 0 else 64)
    let o3 := o2 + (if sdepth == 0 then 0 else 64)
    let vals := (List.range n).map fun i => BitVec.ofNat 32 (f (o3 + 4 * i) 4)
    some { b with
      stage := f 0x2F 1 % 4, n := n, q := q, arr := BitVec.ofNat 32 (f 0x34 4), readBack := true,
      lane := { b.lane with
        pc := BitVec.ofNat 57 (f 0 8), rpc := BitVec.ofNat 57 (f 8 8), vis := f 0x10 8, dgt := f 0x18 8, mc := f 0x24 2, pw := f 0x26 2,
        rcnt := BitVec.ofNat 32 (f 0x20 4), key := BitVec.ofNat 12 (f 0x28 2), tid := f 0x2A 2, bid := f 0x2C 2,
        p := BitVec.ofNat 8 (f 0x2E 1), withdrawn := f 0x2F 1 / 4 == 1,
        frames := framesOf (bs.drop o1) depth, rsnap := framesOf (bs.drop o2) sdepth,
        v := putWords (List.replicate nreg 0) q vals } }
  else none

/-! ### Domains -/

/-- Apply a function to the domain of a cluster. -/
def State.modDomain (s : State) (ctx cl : Nat) (f : Domain → Domain) : State :=
  s.modCluster ctx cl fun c => { c with domain := c.domain.map f }

def State.domain? (s : State) (ctx cl : Nat) : Option Domain := (s.cluster? ctx cl).bind fun c => c.domain

/-- The threads of a basket, oldest first (R351, R352). -/
def Domain.basket (d : Domain) (stage key : Nat) : List Basketed :=
  d.threads.filter fun b => b.stage == stage && b.lane.key.toNat == key

/-- The mark of a basket (R354). -/
def Domain.mark? (d : Domain) (stage key : Nat) : Option Nat :=
  (d.marks.find? fun m => m.1 == stage && m.2.1 == key).map fun m => m.2.2

/-- Mark a basket for drain; one that is empty or marked stays as it is. -/
def Domain.drain (d : Domain) (stage key : Nat) : Domain :=
  let n := (d.basket stage key).length
  if n == 0 || (d.mark? stage key).isSome then d else { d with marks := d.marks ++ [(stage, key, n / 32 * 32)] }

/-- Mark every basket that holds threads. -/
def Domain.drainAll (d : Domain) : Domain := d.threads.foldl (fun d b => d.drain b.stage b.lane.key.toNat) d

/-- Records of the domain in basket SRAM. -/
def Domain.inSram (d : Domain) : Nat :=
  ((d.threads.filter fun b => b.place == .sram).map Basketed.records).foldl (· + ·) 0

/-! ### Quiescence and progress (R354, R360) -/

/-- A lane of a warp that quiescence does not wait for. -/
def laneQuiet (w : Warp) (l : Lane) : Bool :=
  l.withdrawn || (match l.status with
    | .exited => true
    | .departed => true
    | .waiting (.snooze _) => false
    | .waiting _ => !w.brk
    | _ => false)


/-! ### Room (R353) -/

/-- Records of a unit that a domain's threads take. -/
def Domain.taken (d : Domain) (u : Nat) : List Nat :=
  d.threads.flatMap fun b => match b.place with
    | .spill v first => if v == u then (List.range b.records).map fun k => first + k else []
    | .sram => []

/-- The units a domain's threads lie in. -/
def Domain.unitsUsed (d : Domain) : List Nat :=
  (d.threads.filterMap fun b => match b.place with
    | .spill u _ => some u
    | .sram => none).dedup

/-- Units of a launch's spill area that are neither reserved nor in use. -/
def State.freeUnits (s : State) (l : Launch) : List Nat :=
  let busy := (s.clusters.filter fun c => c.ctx == l.ctx).flatMap fun c => match c.domain with
    | some d => d.reserve ++ d.unitsUsed
    | none => []
  (List.range l.spillu).filter fun u => !busy.contains u && !(l.savedUnits.any fun v => v.2 == u)

/-- A free range of `k` records in a unit: the lowest (assumption 14). -/
def Domain.range? (d : Domain) (u k : Nat) : Option Nat :=
  let t := d.taken u
  (List.range (65 - k)).find? fun r => (List.range k).all fun j => !t.contains (r + j)

/-- Where a thread of `k` records goes: basket SRAM while the quota lasts, a unit in use, or a fresh one. -/
def Domain.placeFor (d : Domain) (free : List Nat) (k : Nat) : Option RecPlace :=
  if d.inSram + k ≤ d.quota then some .sram
  else
    match (d.unitsUsed.filter fun u => !d.reserve.contains u).findSome? fun u => (d.range? u k).map fun r => RecPlace.spill u r with
    | some p => some p
    | none => ((free.filter fun u => !d.unitsUsed.contains u).head?).map fun u => .spill u 0

/-- Add the threads of a run, in lane order; none if one finds no room. -/
def Domain.addRun (free : List Nat) : Domain → List Basketed → Option Domain
  | d, [] => some d
  | d, b :: bs =>
    match d.placeFor free b.records with
    | none => none
    | some p =>
      Domain.addRun free { d with threads := d.threads ++ [{ b with arr := d.nextArr, place := p }], nextArr := d.nextArr + 1 } bs

/-- The thread that lane `i` becomes in the sorter (R348, R350). -/
def Warp.departing (w : Warp) (l : Launch) (s : State) (pc : VAddr) (n q i key : Nat) : Basketed :=
  let t := w.lane i
  { lane := { t with status := .runnable, pc := nextPc pc, key := BitVec.ofNat 12 key, dgt := s.coreGt w.core,
                     v := putWords (List.replicate l.nreg 0) q ((t.v.drop q).take n) },
    stage := w.stage, n := n, q := if n == 0 then 0 else q, arr := 0, place := .sram, readBack := false, came := s.cycle,
    left := w.core, settle := t.dgt }

/-- Has the sorter room for a run that a warp has offered, so that nothing but the sorter's own step still holds it? -/
def State.roomFor (s : State) (w : Warp) (h : VAddr × Hold) : Bool :=
  match h.2, s.launch? w.ctx, s.domain? w.ctx w.cluster with
  | .sorter _ _ _ n q keys, some l, some d =>
    (Domain.addRun (s.freeUnits l) d (keys.map fun k => w.departing l s h.1 n q k.1 k.2)).isSome
  | _, _, _ => false

/-- The lanes of a warp whose run the sorter has room for: they are not held at the third hold (R350). -/
def State.entering (s : State) (w : Warp) : List Nat :=
  w.hold.flatMap fun h => match h.2 with
    | .sorter _ act _ _ _ _ => if s.roomFor w h then lanesOf act else []
    | _ => []

/-- Is the domain of a cluster quiescent? -/
def State.quiescent (s : State) (ctx cl : Nat) : Bool :=
  s.warps.all fun w => !w.ofCluster ctx cl ||
    (w.lanes.all (laneQuiet w) && (s.entering w).all fun i => (w.lane i).withdrawn)

/-- Counted threads of a cluster that are runnable. -/
def State.countedRunning (s : State) (ctx cl : Nat) : List Nat :=
  s.warps.flatMap fun w => if w.ofCluster ctx cl then
    (w.lanes.filter fun l => l.status == .runnable && !l.withdrawn).map fun l => l.uid else []

/-- Warp slots that a cluster's threads hold. -/
def State.slotsOf (s : State) (ctx cl : Nat) : List (Nat × Nat) :=
  (s.warps.filter fun w => w.ctx == ctx && w.cluster == cl).map fun w => (w.core, w.slot)

/-- After a step from `s`: in every domain, quiescence marks every basket for drain; a counted thread that became runnable
or a warp slot that was freed is progress. -/
def State.observe (s t : State) : State :=
  t.clusters.foldl (fun t c =>
    match c.domain with
    | none => t
    | some _ =>
      let was := s.countedRunning c.ctx c.idx
      let t := if t.quiescent c.ctx c.idx then t.modDomain c.ctx c.idx Domain.drainAll else t
      if (t.countedRunning c.ctx c.idx).any (fun u => !was.contains u) ||
          (s.slotsOf c.ctx c.idx).any (fun k => !(t.slotsOf c.ctx c.idx).contains k) then
        t.modDomain c.ctx c.idx fun d => { d with progress := t.cycle }
      else t) t

/-! ### sortw (R345, R349, R350) -/

/-- The shape of the sorter instructions (R345): with no executing lane they do nothing; behind an acquire of an executing lane they
are held (R272); they trap illegal-instruction outside a reorder-enabled launch and in a handler thread. -/
def Iss.sorting (x : Iss) (k : State) : State :=
  if x.ex.isEmpty then x.next x.s (x.w.unheld x.pc)
  else x.afterAcquire (if !x.l.reorder || x.w.kind == .handler then x.trap 0x01 else k)

/-- The condition that stops a `sortw` for a lane: reorder-convergence, then reorder-barrier. -/
def Iss.sortStop (x : Iss) (i : Nat) : Option Nat :=
  let l := x.lane i
  if x.w.cb.any fun m => m.1.getLsbD i then some 0x0E
  else if (List.range 16).any fun b => (match x.block? i with
      | some bl => (bl.bar b).pending l.bid l.tid
      | none => false) || x.s.barInFlight x.w.ctx x.w.cluster l.bid b l.tid then some 0x0D
  else none

/-- The number of the payload base register. -/
def payloadBase : Sel → Nat
  | .v q => q.toNat
  | _ => 0

/-- Offer the run to the sorter: its lanes wait until it is accepted. -/
def Iss.offer (x : Iss) (o : ROps) : State :=
  let keys := x.ex.map fun i => (i, x.read i o.a 1 % 4096)
  let w := x.w.unheld x.pc
  let w := w.modLanes x.act fun _ l => { l with status := .waiting .sorter }
  let h := Hold.sorter x.s.cycle (maskOf x.act) (maskOf x.ex) (o.mod.extractLsb' 0 4).toNat (payloadBase o.c) keys
  x.s.setWarp (Warp.refresh { w with cur := none, hold := w.hold ++ [(x.pc, h)] } x.s.cycle)

/-- Is an arrival of an executing lane at the cluster barrier still on its way? The thread leaves behind it, so that what it does
elsewhere finds it arrived (R370; assumption 86). -/
def Iss.arriving (x : Iss) : Bool := x.ex.any fun i => x.s.cbarInFlight x.w.ctx x.w.cluster (x.lane i).bid (x.lane i).tid

def execSortw (g : Guard) (o : ROps) (s : State) : Result :=
  let n := (o.mod.extractLsb' 0 4).toNat
  issue g s [(o.a, 1), (o.c, n)] (fun x => decide (n = 0) || decide (payloadBase o.c + n ≤ x.l.nreg)) false fun x =>
    x.held
      (x.sorting
        (match x.ex.findSome? fun i => (x.sortStop i).map fun code => (i, code) with
         | some t => x.trapLane t.2 t.1 0
         | none =>
           if x.w.count .ld != 0 || x.w.count .cp != 0 || x.w.count .mx != 0 || x.arriving then x.hold
           else if x.fenced 1 then x.offer o
           else x.hold))

/-! ### Acceptance (R350, R353) -/

/-- Write the records of a thread to its spill unit (R344); a unit that `used` does not name is cleared first, so that its
free records hold no header (assumption 14). -/
def State.spillOut (s : State) (base : Nat) (used : List Nat) (b : Basketed) : State :=
  match b.place with
  | .spill u r =>
    (if used.contains u then s else s.tsPut (base + 4096 * u) (List.replicate 4096 0)).tsPut (base + 4096 * u + 64 * r) b.bytes
  | .sram => s

/-- Spill the threads of a run, in order. -/
def State.spillRun (s : State) (base : Nat) : List Nat → List Basketed → State
  | _, [] => s
  | used, b :: bs =>
    State.spillRun (s.spillOut base used b) base (match b.place with
      | .spill u _ => u :: used
      | .sram => used) bs

/-- Clear the records of a thread that leaves its spill unit (assumption 14). -/
def State.spillClear (s : State) (base : Nat) (b : Basketed) : State :=
  match b.place with
  | .spill u r => s.tsPut (base + 4096 * u + 64 * r) (List.replicate (64 * b.records) 0)
  | .sram => s

/-- The run is accepted: its lanes depart, the others go on (R350, R352, R353). -/
def State.acceptRun (s : State) (w : Warp) (l : Launch) (d : Domain) (pc : VAddr) (since : Nat) (act ex : Mask) (n q : Nat)
    (keys : List (Nat × Nat)) : State :=
  let run := keys.map fun k => w.departing l s pc n q k.1 k.2
  match Domain.addRun (s.freeUnits l) d run with
  | none => s
  | some d' =>
    let s := s.spillRun l.spill d.unitsUsed (d'.threads.drop d.threads.length)
    let s := s.modDomain w.ctx w.cluster fun _ => { d' with progress := s.cycle }
    let gone := lanesOf ex
    let stay := (lanesOf act).filter fun i => !gone.contains i
    let w' := w.modLanes gone fun _ t => { t with status := .departed }
    let w' := w'.modLanes stay fun _ t => { (t.arrive (nextPc pc)) with status := .runnable }
    let w' := { w' with hold := w.hold.filter fun (h : VAddr × Hold) => h != (pc, .sorter since act ex n q keys),
                        chk := w.chk.filter fun c => !(lanesOf act).contains c.1, stallMask := w.stallMask &&& ~~~ex }
    State.reap (s.setWarp (Warp.refresh w' s.cycle)) w.core w.slot

/-- SORTER_RUN_ACCEPT (R353): of the runs that a warp holds, the oldest that the sorter has room for. -/
def execSorterRunAccept (core slot : Nat) (s : State) : Result :=
  .next (match s.warp? core slot with
    | none => s
    | some w =>
      match s.launch? w.ctx, s.domain? w.ctx w.cluster, w.hold.find? fun (h : VAddr × Hold) => s.roomFor w h with
      | some l, some d, some (pc, .sorter since act ex n q keys) =>
        if s.engineRuns w.ctx then s.acceptRun w l d pc since act ex n q keys else s
      | _, _, _ => s)

/-! ### Emission (R356 to R358) -/

/-- Free slots of a quadrant (R79: 16 slots each). -/
def State.quadFree (s : State) (core q : Nat) : List Nat :=
  ((List.range 16).map fun j => 16 * q + j).filter fun k => (s.warp? core k).isNone

/-- Handler warps that a cluster reserves on a core and has not formed (R374). -/
def State.idleHandlers (s : State) (l : Launch) (c : Cluster) (core : Nat) : Nat :=
  l.nh - (s.warps.filter fun w => w.core == core && w.ctx == c.ctx && w.cluster == c.idx && w.kind == .handler).length

/-- Can the core take `n` warps of the launch, with `idle` handler warps reserved beside them (R112, R356, R374)? -/
def State.takesWarps (s : State) (l : Launch) (core n idle : Nat) : Bool :=
  decide (n + idle ≤ ((List.range 4).flatMap fun q => s.quadFree core q).length) &&
    decide (s.regsUsed core + 32 * l.nreg * (n + idle) ≤ 65536)

/-- Can the core take a warp of the cluster (R356)? -/
def State.takesWarp (s : State) (l : Launch) (c : Cluster) (core : Nat) : Bool := s.takesWarps l core 1 (s.idleHandlers l c core)

/-- The quadrant with the most free slots, the lowest on a tie. -/
def State.bestQuad (s : State) (core : Nat) : Nat :=
  let n := fun (q : Nat) => (s.quadFree core q).length
  [1, 2, 3].foldl (fun b q => if n b < n q then q else b) 0

/-- The core that takes the next warp of a domain: the lowest row, then the lowest column. -/
def State.emitCore (s : State) (c : Cluster) (l : Launch) : Option Nat := (c.cores l).find? fun k => s.takesWarp l c k

/-- The threads of the drain emission of a stage: its marked baskets in ascending key, none while one of them has full warps
to emit first (Table 6, R357). -/
def Domain.drainSeq (d : Domain) (stage : Nat) : List Basketed :=
  if d.marks.any fun m => m.1 == stage && decide (32 ≤ m.2.2) then []
  else (List.range 4096).flatMap fun k => if (d.mark? stage k).isSome then d.basket stage k else []

/-- What a Full basket emits next (R354, R356). -/
def Domain.fullSeq (d : Domain) (stage key : Nat) : List Basketed :=
  let b := d.basket stage key
  match d.mark? stage key with
  | some n => if 32 ≤ n then b.take 32 else []
  | none => if 32 ≤ b.length then b.take 32 else []

/-- Age rank of the oldest thread of an emission. -/
def Domain.rank (d : Domain) (bs : List Basketed) : Nat := (bs.map fun b => d.threads.idxOf b).foldl min d.threads.length

/-- Every emission that could take place: the threads each would take. -/
def Domain.emissions (d : Domain) : List (List Basketed) :=
  let keys := (d.threads.map fun b => (b.stage, b.lane.key.toNat)).dedup
  ((keys.map fun k => d.fullSeq k.1 k.2) ++ (List.range 4).map fun st => (d.drainSeq st).take 32).filter fun e => !e.isEmpty

/-- Is this emission the one that goes first: that with the oldest thread? -/
def Domain.first (d : Domain) (e : List Basketed) : Bool := !e.isEmpty && d.emissions.all fun f => d.rank e ≤ d.rank f

/-- Marks once threads have been taken: full warps counted down, empty baskets unmarked. -/
def Domain.unmark (d : Domain) (stage key taken : Nat) : Domain :=
  let ms := d.marks.map fun m => if m.1 == stage && m.2.1 == key then (m.1, m.2.1, m.2.2 - taken) else m
  { d with marks := ms.filter fun m => !(d.basket m.1 m.2.1).isEmpty }

/-- Emit threads as one warp, if their records are at hand and a core can take it. A thread arrives at its recorded PC under
R101 (assumption 74). -/
def State.emit (s : State) (c : Cluster) (l : Launch) (d : Domain) (stage key : Nat) (e : List Basketed) : State :=
  if !(d.first e && s.engineRuns c.ctx && e.all (fun (b : Basketed) => b.place == .sram || b.readBack)) then s
  else
    match s.emitCore c l with
    | none => s
    | some core =>
      match (s.quadFree core (s.bestQuad core)).head? with
      | none => s
      | some slot =>
        let lanes := e.map fun b =>
          let t := b.lane.arrive b.lane.pc
          { t with lastIssue := s.cycle, dgt := if b.left == core then b.settle else t.dgt }
        let w := Warp.formed s core slot c.ctx c.idx 0xFFFFFFFF stage .sorter lanes none
        let s := e.foldl (fun s b => State.spillClear s l.spill b) s
        let s := s.modDomain c.ctx c.idx fun d =>
          Domain.unmark { d with threads := d.threads.filter fun b => !e.contains b, progress := s.cycle } stage key e.length
        s.addWarp w

/-- BASKET_EMIT (R356). -/
def execBasketEmit (ctx cluster stage key : Nat) (s : State) : Result :=
  .next (match s.launch? ctx, s.cluster? ctx cluster, s.domain? ctx cluster with
    | some l, some c, some d => s.emit c l d stage key (d.fullSeq stage key)
    | _, _, _ => s)

/-- DRAIN_EMISSION (R357): the next warp of a stage's drain emission. -/
def execDrainEmission (ctx cluster stage : Nat) (s : State) : Result :=
  .next (match s.launch? ctx, s.cluster? ctx cluster, s.domain? ctx cluster with
    | some l, some c, some d => s.emit c l d stage 4096 ((d.drainSeq stage).take 32)
    | _, _, _ => s)

/-- The engine-error of a record that lies outside the ranges of Table 3 (R344): the spill offset is its second address; the
spec names no core, warp, lane or PC for it, so those are free values. -/
def State.spillTrap (s : State) (ctx off : Nat) : State :=
  let f := fun (k n : Nat) => (Config.freeWord (s.nextId + k)).toNat % n
  State.takeTrap { s with nextId := s.nextId + 5 }
    (s.record ctx 3 0 0x12 (f 0 192) (f 1 64) (f 2 32) (f 3 (2 ^ 57)) off (Config.freeWord (s.nextId + 4)))

/-- SPILL_READBACK (R358): the records of a spilled thread are read back. -/
def execSpillReadback (ctx cluster arr : Nat) (s : State) : Result :=
  .next (match s.launch? ctx, s.domain? ctx cluster with
    | some l, some d =>
      match d.threads.find? fun b => b.arr.toNat == arr && b.place != .sram && !b.readBack with
      | some b =>
        match b.place with
        | .sram => s
        | .spill u r =>
          let off := l.spill + 4096 * u + 64 * r
          match b.parse l.nreg (s.tsGet off (64 * b.records)) with
          | some b' => s.modDomain ctx cluster fun d => { d with threads := d.threads.map fun (t : Basketed) => if t == b then b' else t }
          | none => s.spillTrap ctx off
      | none => s
    | _, _ => s)

/-- The age at which a basket drains, none when ageing is disabled (R359, Table 7). -/
def SysRegs.basketAge (r : SysRegs) : Option Nat :=
  let n := r.bage.toNat % 65536
  if n == 0 then none else some (max 64 n)

/-- BASKET_AGE_EXPIRY (R354). -/
def execBasketAgeExpiry (ctx cluster stage key : Nat) (s : State) : Result :=
  .next (match s.domain? ctx cluster, s.sys.basketAge with
    | some d, some n =>
      match (d.basket stage key).head? with
      | some b => if b.came + n ≤ s.cycle then s.modDomain ctx cluster fun d => d.drain stage key else s
      | none => s
    | _, _ => s)

/-! ### Exhaustion (R360) -/

/-- The runs held at the third hold in a domain, those the sorter has no room for: warp, PC, cycle since, executing
lanes. -/
def State.heldRuns (s : State) (ctx cl : Nat) : List (Warp × VAddr × Nat × Mask) :=
  (s.warps.filter fun w => w.ofCluster ctx cl).flatMap fun w => w.hold.filterMap fun h => match h.2 with
    | .sorter since _ ex _ _ _ => if s.roomFor w h then none else some (w, h.1, since, ex)
    | _ => none

/-- The run held longest; the lower core, then the lower slot breaks a tie. -/
def longestHeld : List (Warp × VAddr × Nat × Mask) → Option (Warp × VAddr × Nat × Mask)
  | [] => none
  | r :: rs =>
    match longestHeld rs with
    | none => some r
    | some q =>
      let key := fun (x : Warp × VAddr × Nat × Mask) => x.2.2.1 * 2 ^ 20 + x.1.core * 64 + x.1.slot
      if key q < key r then some q else some r

/-- The period without progress after which a domain is stuck. -/
def SysRegs.stuckAfter (r : SysRegs) : Nat := (r.basketAge).getD 2048

/-- DOMAIN_STUCK (R360): the trap basket-exhaustion. -/
def execDomainStuck (ctx cluster : Nat) (s : State) : Result :=
  .next (match s.launch? ctx, s.cluster? ctx cluster, s.domain? ctx cluster, longestHeld (s.heldRuns ctx cluster) with
    | some l, some c, some d, some r =>
      if (d.emissions.isEmpty || (s.emitCore c l).isNone) && decide (d.progress + s.sys.stuckAfter ≤ s.cycle) &&
          s.engineRuns ctx then
        s.takeTrap (s.record ctx 3 0 0x0F r.1.core r.1.slot ((lanesOf r.2.2.2).headD 0) r.2.1.toNat 0 r.2.2.2)
      else s
    | _, _, _, _ => s)

/-! ### sortq, sortd, sortc (R361) -/

/-- Ask the sorter, or wait for its reply to the same lanes. -/
def Iss.ask (x : Iss) (dest : Sel) (asks : List (Nat × Option Nat)) : State :=
  x.s.modWarp x.w.core x.w.slot fun w => w.setHold x.pc (.sortq (maskOf x.act) dest asks)

def execSortqKey (g : Guard) (o : ROps) (s : State) : Result :=
  issue g s [(o.d, 1), (o.a, 1)] (fun _ => true) false fun x =>
    x.sorting (x.ask o.d (x.ex.map fun i => (i, some (x.read i o.a 1 % 4096))))

def execSortqAll (g : Guard) (o : ROps) (s : State) : Result :=
  issue g s [(o.d, 1)] (fun _ => true) false fun x => x.sorting (x.ask o.d (x.ex.map fun i => (i, none)))

/-- SORTQ_REPLY (R361): the snapshot is taken, D written, and the path goes on. -/
def execSortqReply (core slot : Nat) (s : State) : Result :=
  .next (match ({ s with issuing := some (core, slot) } : State).iss ⟨0xFF, 0, 0, 0⟩ with
    | none => s
    | some x =>
      match x.w.holdAt x.pc, s.domain? x.w.ctx x.w.cluster with
      | some (.sortq act dest asks), some d =>
        if act != maskOf x.act then s
        else
          let vals := asks.map fun a => (a.1, match a.2 with
            | some k => (d.basket x.w.stage k).length
            | none => d.threads.length)
          { x.next s (x.w.write dest 1 vals) with issuing := s.issuing }
      | _, _ => s)

def execSortd (g : Guard) (_o : ROps) (s : State) : Result :=
  issue g s [] (fun _ => true) false fun x =>
    x.sorting (x.next (x.s.modDomain x.w.ctx x.w.cluster Domain.drainAll) x.w)

def execSortdKey (g : Guard) (o : ROps) (s : State) : Result :=
  issue g s [(o.a, 1)] (fun _ => true) false fun x =>
    x.sorting
      (x.next (x.s.modDomain x.w.ctx x.w.cluster fun d => d.drain x.w.stage (x.read x.lead o.a 1 % 4096)) x.w)

/-- The withdrawn flag of each executing thread. -/
def Iss.withdraw (x : Iss) (b : Bool) : State := x.next x.s (x.w.modLanes x.ex fun _ l => { l with withdrawn := b })

def execSortc (g : Guard) (_o : ROps) (s : State) : Result :=
  issue g s [] (fun _ => true) false fun x => x.sorting (x.withdraw true)

def execSortcJoin (g : Guard) (_o : ROps) (s : State) : Result :=
  issue g s [] (fun _ => true) false fun x => x.sorting (x.withdraw false)

end Sys2Proof.Machine
end

