-- ==== Sys2Proof/Machine/Fetch.lean ====
section
/-! DEFINITION. Fetch lines and the checks at issue (R24 to R35), the fills of the instruction and constant caches (R29, R30,
R187 to R189), the parity refetch (R32), and the timers of a warp: fairness (R88) and the watchdog (R89). -/

namespace Sys2Proof.Machine

open Sys2Proof

/-! ### Fetch lines (R24 to R28) -/

/-- The line word, from the 64 bytes of a line. -/
def lineWord (bs : List Byte) : Nat := bytesToNat (bs.take 4)

/-- The 12 bytes of slot `i`. -/
def slotBytes (bs : List Byte) (i : Nat) : List Byte := (bs.drop (4 + 12 * i)).take 12

/-- The slot number of a valid PC. -/
def slotIndex (pc : VAddr) : Nat := (pc.toNat % 64 - 4) / 12

/-- LPAR: even parity over bits 14:0 together (R28). -/
def linePar (bs : List Byte) : Bool := popcountN 15 (lineWord bs) % 2 == 0

/-- PAR of slot `i`: even parity over its 96 bits and its bit together. -/
def slotPar (bs : List Byte) (i : Nat) : Bool :=
  (popcountN 96 (bytesToNat (slotBytes bs i)) + (lineWord bs / 2 ^ (9 + i)) % 2) % 2 == 0

/-- TGT bit of slot `i`. -/
def slotTgt (bs : List Byte) (i : Nat) : Bool := (lineWord bs).testBit i

/-- Bits 31:15 of the line word are zero (R33). -/
def lineClean (bs : List Byte) : Bool := decide (lineWord bs < 2 ^ 15)

/-- The cached line of a core and context. -/
def State.iline (s : State) (core ctx line : Nat) : Option CLine :=
  s.icache.find? fun c => c.core == core && c.ctx == ctx && c.line == line

/-! ### The checks (R31, Table 3) -/

/-- What stands between a path and its instruction. -/
inductive FetchOutcome where
  /-- the line must be fetched first -/
  | miss
  /-- the fetch, or a poisoned sector of the line, traps (R30, R431) -/
  | trap (code aux : Nat)
  /-- check 2 or 5 -/
  | parity
  /-- check 3 -/
  | illegalLine
  /-- check 4: the target and the address of the transfer -/
  | badTarget (target : VAddr) (source : Nat)
  /-- check 6, as far as the word alone decides -/
  | illegal
  | ok (i : Instr)
  deriving DecidableEq, Repr

/-- Why the issuing lanes' way to this PC fails check 4, if it does: the first lane that a checked transfer brought here; a PC
that names no slot fails however it was reached. -/
def Iss.arrivedBad (x : Iss) (bs : List Byte) : Option (Nat × VAddr × Nat) :=
  let bad := !validPc x.pc || !slotTgt bs (slotIndex x.pc)
  match x.w.chk.find? fun c => x.act.contains c.1 && bad with
  | some c => some c
  | none => if validPc x.pc then none else some (x.act.headD 0, x.pc, x.pc.toNat)

/-- The checks on a line that is at hand. -/
def Iss.checkLine (x : Iss) (c : CLine) : FetchOutcome :=
  let i := slotIndex x.pc
  if c.bad.contains 0 || c.bad.contains ((x.pc.toNat % 64) / 32) || c.bad.contains ((x.pc.toNat % 64 + 11) / 32) then .trap 0x09 0
  else if !linePar c.data then .parity
  else if !lineClean c.data then .illegalLine
  else
    match x.arrivedBad c.data with
    | some k => .badTarget k.2.1 k.2.2
    | none =>
      if !slotPar c.data i then .parity
      else
        match decode (slotBytes c.data i) with
        | .ok ins => .ok ins
        | .error _ => .illegal

/-- What stands before the current path's instruction. -/
def Iss.fetch (x : Iss) : FetchOutcome :=
  match x.s.iline x.w.core x.w.ctx (x.pc.toNat / 64) with
  | none => .miss
  | some c => x.checkLine c

/-! ### Fetching (R29, R30) -/

/-- Ask for the line of the current path: a translation fault posts a record of TYPE 4 and the path waits; block SRAM and
core-pinned pages trap. A core asks once for a line of a context: while the line, or the answer to its fault, is awaited, no other
path of the core posts a request for it (assumption 60). -/
def Iss.askFetch (x : Iss) (again : List VAddr) : State :=
  let line := x.pc.toNat / 64
  let bs := fieldAt (x.s.bank x.w.ctx).bsbase 56 19
  if x.s.awaited x.w.core x.w.ctx line true then x.s
  else if bs ≤ x.pc.toNat ∧ x.pc.toNat < bs + 0x80000 then x.trapLane 0x07 (x.act.headD 0) x.pc.toNat
  else
    match x.s.translate x.who (line * 64) false with
    | .ok m => (match m.tgt with
      | .line _ => (x.s.addWait x x.pc.toNat true again (some m)).learn (.ok m)
      | _ => x.trapLane 0x07 (x.act.headD 0) x.pc.toNat)
    | .fault k => (x.s.addWait x x.pc.toNat true again none).post [x.faultRec k 4 (x.act.headD 0) x.pc.toNat]
    | .violation => x.trapLane 0x07 (x.act.headD 0) x.pc.toNat

/-- The poisoned sectors of a 64-byte line at a device address. -/
def State.badSectors (s : State) (d : Nat) : List Nat := (List.range 2).filter fun i => s.poison.contains (d / 32 + i)

/-- The awaited line as its home now holds it. -/
def State.lineAt (s : State) (c : CWait) (d : Nat) : CLine :=
  { core := c.core, ctx := c.ctx, line := c.line, data := s.devRead d 64, bad := s.badSectors d, again := c.again }

/-- Add a line to a cache of a core, of `cap` lines (R15): it takes the place of the line's older copy, or of others. -/
def addLine (cap seed : Nat) (cache : List CLine) (l : CLine) : List CLine × Nat :=
  let old := cache.filter fun k => !(k.core == l.core && k.ctx == l.ctx && k.line == l.line)
  let mine := fun (k : CLine) => k.core == l.core
  let n := excess mine cap old
  (dropVictims mine n seed old ++ [l], n)

/-- An awaited line returns: its slice serves it (R216), and the wait is over. -/
def State.takeWait (s : State) (c : CWait) (d : Nat) : State :=
  { s.touchLine d c.ctx c.tag c.hc false with cwaits := s.cwaits.filter fun e => !(e == c) }

/-- INSTRUCTION_FETCH (R29): the line returns whole, in one version, into an instruction cache of 128 KiB. -/
def execInstructionFetch (core ctx line : Nat) (s : State) : Result :=
  .next (match s.cwaits.find? fun c => c.core == core && c.ctx == ctx && c.line == line && c.fetch with
    | none => s
    | some c =>
      match c.dev with
      | none => s
      | some d =>
        let d := s.forward ctx (line * 64) d
        let r := addLine 2048 s.drops s.icache (s.lineAt c d)
        { s.takeWait c d with icache := r.1, drops := s.drops + r.2 })

/-- A part of an `ldc` that waits for the line takes its word. -/
def Req.takeLine (r : Req) (l : CLine) : Req :=
  if r.kind = .ldc ∧ r.core = l.core ∧ r.ctx = l.ctx ∧ r.va / 64 = l.line ∧ r.got = none then
    { r with got := some ((l.data.drop (r.va % 64)).take 4), poison := l.bad.contains (r.va % 64 / 32) }
  else r

/-- CONSTANT_CACHE_FILL (R187 to R190): the line enters a constant cache of 64 KiB. -/
def execConstantCacheFill (core ctx line : Nat) (s : State) : Result :=
  .next (match s.cwaits.find? fun c => c.core == core && c.ctx == ctx && c.line == line && !c.fetch with
    | none => s
    | some c =>
      match c.dev with
      | none => s
      | some d =>
        let d := s.forward ctx (line * 64) d
        let l := s.lineAt c d
        let r := addLine 1024 s.drops s.ccache l
        { s.takeWait c d with ccache := r.1, drops := s.drops + r.2, reqs := s.reqs.map fun r => r.takeLine l })

/-! ### Parity (R32) -/

/-- Add one to a counter that saturates. -/
def countUp (w : Word) : Word := if w == 0xFFFFFFFF then w else w + 1

/-- A path with the executing lanes that the guard of its slot's word gives (R253: the mask of a trap at checks 3 to 7). -/
def Iss.guarded (x : Iss) : Iss :=
  match x.s.iline x.w.core x.w.ctx (x.pc.toNat / 64) with
  | some c =>
    let g := decGuard (BitVec.ofNat 96 (bytesToNat (slotBytes c.data (slotIndex x.pc))))
    { x with ex := x.act.filter fun i => (x.w.lane i).guard g }
  | none => x

/-- The machine check for a line that mismatches again (R32). -/
def Iss.parityTrap (x : Iss) : State :=
  let s := { x.s with sys := { x.s.sys with unccnt := countUp x.s.sys.unccnt } }
  ({ x with s := s.blackBox 2 x.w.core } : Iss).guarded.trap 0x13

/-- The cached line is discarded and asked for once more, on account of the mismatch at this PC. -/
def Iss.refetch (x : Iss) (old : CLine) : State :=
  let s := { x.s with icache := x.s.icache.filter fun l => !(l == old) }
  ({ x with s := s } : Iss).askFetch (old.again ++ [x.pc])

/-- PARITY_REFETCH (R32). -/
def execParityRefetch (core slot : Nat) (s : State) : Result :=
  .next (match ({ s with issuing := some (core, slot) } : State).iss ⟨0xFF, 0, 0, 0⟩ with
    | none => s
    | some x =>
      match s.iline core x.w.ctx (x.pc.toNat / 64) with
      | none => s
      | some c =>
        if x.checkLine c == .parity then
          { (if c.again.contains x.pc then x.parityTrap else x.refetch c) with issuing := s.issuing }
        else s)

/-- The instruction at the path's PC has passed checks 2 to 6, as far as its word decides them: a refetch on its account is
over. -/
def Iss.cleared (x : Iss) : State :=
  { x.s with icache := x.s.icache.map fun c =>
      if c.core == x.w.core && c.ctx == x.w.ctx && c.line == x.pc.toNat / 64 then
        { c with again := c.again.filter fun p => p != x.pc } else c }

/-- Was the path's line fetched once more on account of a mismatch here? -/
def Iss.refetched (x : Iss) : Bool :=
  match x.s.iline x.w.core x.w.ctx (x.pc.toNat / 64) with
  | some c => c.again.contains x.pc
  | none => false

/-- A corrected soft error is counted when the new copy has passed check 6 and check 7 too (R32): `t` is what the
instruction left. -/
def State.corrected (t : State) (ctx : Nat) : State :=
  let failed : Bool := match t.launch? ctx with
    | some l => l.run == .halted && (fieldAt l.dtrap 23 16 == 0x010000 || fieldAt l.dtrap 23 16 == 0x040000)
    | none => false
  if failed then t else { t with sys := { t.sys with corrcnt := countUp t.sys.corrcnt } }

/-! ### The fairness timer (R87, R88) and the watchdog (R89) -/

/-- The value in force at cycle `t`, of a register's values replaced so far, latest first, and its value now: a write takes
effect for turns and stalls that begin after it (R90). -/
def inForce (t : Nat) : List (Nat × Word) → Word → Word
  | [], now => now
  | w :: ws, now => if t ≤ w.1 then inForce t ws w.2 else now

/-- The fairness period T. -/
def fairness (v : Word) : Nat := max 64 (v.toNat % 65536)

/-- The period of a turn that began, or whose count restarted, at cycle `t`. -/
def SysRegs.turnPeriod (r : SysRegs) (t : Nat) : Nat := fairness (inForce t r.fairWas r.fairt)

/-- FAIRNESS_TIMER_EXPIRY (R88): with the promise on, a turn that has lasted T cycles ends if another path is runnable, else
its count restarts. -/
def execFairnessTimerExpiry (core slot : Nat) (s : State) : Result :=
  .next (match s.warp? core slot with
    | none => s
    | some w =>
      match s.launch? w.ctx, w.cur with
      | some l, some p =>
        if l.promise && !w.brk && decide (w.turnStart + s.sys.turnPeriod w.turnStart ≤ s.cycle) then
          (if w.paths.length ≤ 1 then s.setWarp { w with turnStart := s.cycle } else s.setWarp (w.endTurn s.cycle p))
        else s
      | _, _ => s)

/-- The watchdog period, none when disabled (Table 4 of 04_warps_and_control). -/
def watchdog (v : Word) : Option Nat :=
  let e := v.toNat % 64
  if e == 0 then none else some (2 ^ min 40 (max 20 e))

/-- The period for a stall that began at cycle `t`. -/
def SysRegs.stallPeriod (r : SysRegs) (t : Nat) : Option Nat := watchdog (inForce t r.wdogWas r.wdog)

/-- Is a lane stalled (R89)? -/
def Lane.stalled (l : Lane) (now : Nat) (r : SysRegs) : Bool :=
  (match l.status with
   | .runnable => true
   | .waiting _ => true
   | _ => false) && (match r.stallPeriod l.lastIssue with
   | some n => decide (l.lastIssue + n ≤ now)
   | none => false)

/-- The class in which an instruction counts (Table 2 of 08_outstanding_operations); none for one that counts in no class. -/
def countsIn : Instr → OpClass
  | .ld _ _ | .atom _ _ | .ldc _ _ => .ld
  | .st _ _ | .red _ _ | .tst _ _ => .st
  | .cp _ _ | .cp2d _ _ | .gath _ _ | .scat _ _ | .probe _ _ | .unpin _ _ | .pfill _ _ | .rstrp _ _ | .discard _ _
  | .cpseal _ _ => .cp
  | .mma _ _ | .tfill _ _ | .tfillId _ _ | .tld _ _ | .tmask _ _ => .mx
  | _ => .none

/-- Is a lane's path held at the instruction `i` by a counter over its limit (cause 5; a counter at 127, R194), or by a send
allowance (cause 6)? -/
def State.heldAt (s : State) (w : Warp) (i : Instr) : Nat :=
  match i with
  | .wait _ o => if w.waits o then 5 else 8
  | .msend g o =>
    match ({ s with issuing := some (w.core, w.slot) } : State).iss g with
    | some x => if x.msendShort o then 6 else 8
    | none => 8
  | i => if countsIn i != .none && w.count (countsIn i) == 127 then 5 else 8

/-- The cause of a stalled lane (Table 2; R194): another path holds the turn; a wait; a counter or a send allowance at its
instruction, as its cached line shows; else the quadrant issued from other warps. -/
def State.stallCause (s : State) (w : Warp) (i : Nat) : Nat :=
  let l := w.lane i
  match l.status with
  | .waiting (.join _) => 2
  | .waiting (.bar _) => 3
  | .waiting .cbar => 3
  | .waiting (.ring _ _ _) => 4
  | .waiting .sorter => 7
  | .waiting (.snooze _) => 2
  | _ =>
    if w.cur != some l.pc then 1
    else
      match (s.iline w.core w.ctx (l.pc.toNat / 64)).map fun c => decode (slotBytes c.data (slotIndex l.pc)) with
      | some (.ok i) => s.heldAt w i
      | _ => 8

/-- WATCHDOG_EXPIRY (R89): one stall record for a warp, until every lane of its mask has issued again. Lanes halted at a
breakpoint, or with their context, are never stalled. -/
def execWatchdogExpiry (core slot : Nat) (s : State) : Result :=
  .next (match s.warp? core slot with
    | some w =>
      let is := (List.range 32).filter fun i => (w.lane i).stalled s.cycle s.sys
      match is with
      | [] => s
      | i :: _ =>
        if w.stallMask != 0 || w.brk || ((s.launch? w.ctx).any fun l => l.run == .halted) then s
        else
          let m := maskOf is
          let r := s.record w.ctx 2 0 (s.stallCause w i) core slot i (w.lane i).pc.toNat 0 m
          (s.modWarp core slot fun w => { w with stallMask := m }).post [r]
    | none => s)

end Sys2Proof.Machine
end

