-- ==== Sys2Proof/Machine/Answer.lean ====
section
/-! DEFINITION. Answers to translation faults: the FRANS registers, replay of the mend log, release of the waiters, and
fatal-translation (R245, R250, R255, R256, R338); the writes of FRHEAD, FRSIZE and FRSTAT (R251, R252, R254). -/

namespace Sys2Proof.Machine

open Sys2Proof

/-! ### The answer (R255, Table 12) -/

/-- The range of an answer, from FRANS0: [lo, hi). -/
def ansRange (w : DWord) : Nat × Nat :=
  let sz := w.toNat % 4
  if sz == 3 then (0, 2 ^ 57)
  else
    let n := if sz == 0 then 65536 else if sz == 1 then 2 ^ 21 else 2 ^ 30
    let lo := fieldAt w 56 16 / n * n
    (lo, lo + n)

/-- Does an address lie in a range? -/
def inRange (r : Nat × Nat) (a : Nat) : Bool := decide (r.1 ≤ a) && decide (a < r.2)

/-- The live context that CTX in bits 5:0 and GEN in bits 15:6 name (R255, R399, R415, R432). -/
def State.named (s : State) (w : Nat) : Option Launch :=
  s.launches.find? fun l => l.ctx == w % 64 && l.gen == w / 64 % 1024

/-! ### The waiters of a context -/

/-- A waiter: the faulting address and what its fatal-translation record names. -/
structure Waiter where
  va : Nat
  typ : Nat
  core : Nat
  slot : Nat
  lane : Nat
  pc : Nat
  mask : Mask
  deriving DecidableEq, Repr

/-- The parked lanes of a warp as waiters, one for each address they wait for. -/
def Warp.waiters (w : Warp) : List Waiter :=
  (List.range 32).flatMap fun i =>
    match (w.lane i).status with
    | .parked typ vas => vas.map fun va =>
        { va := va, typ := typ, core := w.core, slot := w.slot, lane := i, pc := (w.lane i).pc.toNat, mask := 1#32 <<< i }
    | _ => []

/-- A waiting path (TYPE 4 and 6). -/
def State.cwaiter (s : State) (c : CWait) : Waiter :=
  let act := match s.warp? c.core c.slot with
    | some w => w.activeAt c.pc
    | none => []
  { va := c.va, typ := if c.fetch then 4 else 6, core := c.core, slot := c.slot, lane := act.headD 0, pc := c.pc.toNat,
    mask := maskOf act }

/-- The addresses an engine waits for. -/
def EngState.vas : EngState → List Nat
  | .faulted vs => vs
  | _ => []

/-- Every waiter of a context (R256). The record that the failure answer gives names of a mend-log entry, a pin or a read of a dependence
map no warp, lane, PC or COUNT, zeros standing there, and of a parked lane that lane alone (DESIGN CHOICE, assumption 89). -/
def State.waiters (s : State) (ctx : Nat) : List Waiter :=
  ((s.warps.filter fun w => w.ctx == ctx).flatMap fun w => w.waiters) ++
  ((s.cwaits.filter fun (c : CWait) => c.ctx == ctx && c.dev.isNone).map s.cwaiter) ++
  ((s.mends.filter fun (m : Mend) => m.ctx == ctx).map fun (m : Mend) =>
    { va := m.va, typ := if m.aop == 0xFF then 2 else 3, core := m.core, slot := 0, lane := 0, pc := 0, mask := 0#32 }) ++
  ((s.g5.filter fun (e : G5Entry) => e.ctx == ctx).flatMap fun (e : G5Entry) => e.st.vas.map fun va =>
    { va := va, typ := if e.opk == 0 then 7 else 8, core := e.wcore, slot := e.slot, lane := 0, pc := e.pc.toNat,
      mask := 0xFFFFFFFF#32 }) ++
  ((s.copyOps.filter fun (c : CopyOp) => c.ctx == ctx && !c.orphan).flatMap fun (c : CopyOp) => c.st.vas.map fun va =>
    { va := va, typ := 8, core := (s.issuerOf c).1, slot := (s.issuerOf c).2, lane := (lanesOf c.mask).headD 0, pc := c.pc.toNat,
      mask := c.mask }) ++
  ((s.pins.filter fun (p : Pin) => p.ctx == ctx && p.pte.isNone).map fun (p : Pin) =>
    { va := p.va, typ := 8, core := p.core, slot := 0, lane := 0, pc := 0, mask := 0#32 }) ++
  (match s.launch? ctx with
   | some l => l.mapFault.map fun a => { va := a.2.2, typ := 8, core := a.2.1, slot := 0, lane := 0, pc := 0, mask := 0#32 }
   | none => [])

/-- The waiter of lowest address; the first of equals. -/
def lowestWaiter : List Waiter → Option Waiter
  | [] => none
  | w :: ws => match lowestWaiter ws with
    | none => some w
    | some v => if v.va < w.va then some v else some w

/-! ### Replay of the mend log (R250) -/

/-- The thread with a number, where a warp or the sorter holds it. -/
def State.threadLane (s : State) (uid : Nat) : Lane :=
  match s.warps.findSome? fun w => w.lanes.find? fun l => l.uid == uid && l.status != .departed with
  | some l => l
  | none =>
    match s.clusters.findSome? fun c => c.domain.bind fun d => d.threads.find? fun b => b.lane.uid == uid with
    | some b => b.lane
    | none => Lane.dead

/-- The entry is performed at its home, behind what the thread has issued before for its bytes (R263; assumption 94); the copy in the
core's own L1, which is of the line as it translates, follows (R169), and one on the core that the thread has moved to goes
(assumption 82). -/
def State.performMend (s : State) (m : Mend) (a : Mapped) : State :=
  let t := match a.tgt with
    | .line d => .line (s.forward m.ctx m.va d)
    | t => t
  let s := s.settleLine m.uid t m.data.length
  let new := if m.aop == 0xFF then m.data
    else aopBytes m.aop m.ty m.nbv (s.homeRead t (m.ty.bits / 8)) m.data
  let w := s.completion t
  let s := s.settleHits m.uid t m.data.length s.nextId
  let s := (s.learn (.ok a)).homeWrite t m.ctx a.tag a.hc a.sealed m.meas new
  let s := match a.tgt with
    | .line d => if m.aop == 0xFF then s.storeCopy m.core d new
        else s.dropCopy m.core (d / 128)
    | _ => s
  (s.dropMoved m.uid m.core a.tgt).foldW m.ctx m.cluster m.uid w 0 1

/-- Replay one entry: it leaves the log when it is performed, or dropped for an access-violation, which then traps; an entry
that faults again posts a new record and stays, and that record names no warp and no lane, zeros standing there (DESIGN CHOICE,
assumption 88). -/
def State.replayOne (s : State) (m : Mend) : State :=
  let typ := if m.aop == 0xFF then 2 else 3
  let gone := { s with mends := s.mends.filter fun (n : Mend) => !(n == m) }
  match s.engPlace (s.engineWho m.core m.ctx m.cluster) ⟨m.ctx, m.cluster, m.bid, 0⟩ false m.va m.data.length true with
  | .ok a => gone.performMend m a
  | .fault k =>
    let l := s.threadLane m.uid
    s.post [s.record m.ctx k typ 0 m.core 0 0 m.va l.rpc.toNat l.rcnt]
  | .violation =>
    let s := gone.modThread m.uid fun l => { l with mc := l.mc - 1 }
    s.takeTrap (s.record m.ctx 3 typ 0x07 m.core 0 0 0 m.va 0)

/-- Replay the entries of a context whose faults lie in a range, in log order. -/
def State.replay (s : State) (ctx : Nat) (r : Nat × Nat) : State :=
  (s.mends.filter fun (m : Mend) => m.ctx == ctx && inRange r m.va).foldl State.replayOne s

/-! ### Release (R245, R255) -/

/-- The lane loses the addresses of the range; with none left it restarts at its region entry (R245). -/
def Lane.answered (l : Lane) (r : Nat × Nat) : Lane :=
  match l.status with
  | .parked typ vas =>
    match vas.filter fun va => !inRange r va with
    | [] => l.restart
    | vs => { l with status := .parked typ vs }
  | _ => l

/-- The parked lanes of a context whose faults lie in the range are released. -/
def State.releaseParked (s : State) (ctx : Nat) (r : Nat × Nat) : State :=
  { s with warps := s.warps.map fun w =>
      if w.ctx == ctx then Warp.refresh { w with lanes := w.lanes.map fun l => l.answered r } s.cycle else w }

/-- An engine operation whose faults in the range are answered goes on, `next` being how. -/
def EngState.answered (e : EngState) (r : Nat × Nat) (next : EngState) : EngState :=
  match e with
  | .faulted vas =>
    match vas.filter fun va => !inRange r va with
    | [] => next
    | vs => .faulted vs
  | e => e

/-- Translate again a pin that awaits its answer (R338): a fault posts a record of TYPE 8 that names the page and the pin's
core, AUX and COUNT zero, as the pin has no region and no restart (DESIGN CHOICE, assumption 90); a violation halts the context. -/
def State.repin (s : State) (p : Pin) : State :=
  let set := fun (s : State) (q : Pin) => { s with pins := s.pins.map fun (o : Pin) =>
    if o.core == p.core && o.ctx == p.ctx && o.va == p.va && o.size == p.size then q else o }
  match s.walk p.ctx p.va with
  | .leaf pte size =>
    let geo := s.geoEntry p.ctx (pteWord pte).geo
    match s.judge (s.engineWho p.core p.ctx p.cluster) pte geo size p.va false none with
    | .ok _ => set (s.sealFrame pte geo size) { p with size := size, pte := some pte, geo := geo }
    | .fault k => s.post [s.record p.ctx k 8 0 p.core 0 0 p.va 0 0]
    | .violation => s.takeTrap (s.record p.ctx 3 0 0x07 p.core 0 0 0 p.va 0)
  | .invalid => s.post [s.record p.ctx 0 8 0 p.core 0 0 p.va 0 0]
  | .malformed => s.takeTrap (s.record p.ctx 3 0 0x07 p.core 0 0 0 p.va 0)

/-- The pins of a context that await an answer in the range. -/
def State.repinAll (s : State) (ctx : Nat) (r : Nat × Nat) : State :=
  (s.pins.filter fun (p : Pin) => p.ctx == ctx && p.pte.isNone && inRange r p.va).foldl State.repin s

/-- The cluster of the warp in a slot. -/
def State.clusterIn (s : State) (core slot : Nat) : Nat :=
  match s.warp? core slot with
  | some w => w.cluster
  | none => 0

/-- A line to be fetched once more (R32) is translated again when the fault that held it is answered. -/
def State.askAgain (s : State) (c : CWait) : State :=
  let gone := { s with cwaits := s.cwaits.filter fun e => !(e == c) }
  let w := s.cwaiter c
  match s.translate (s.engineWho c.core c.ctx (s.clusterIn c.core c.slot)) (c.line * 64) false with
  | .ok m =>
    (match m.tgt with
     | .line d => ({ gone with cwaits := gone.cwaits ++ [{ c with dev := some d, hc := m.hc, tag := m.tag }] }).learn (.ok m)
     | _ => gone.takeTrap (s.record c.ctx 3 0 0x07 c.core c.slot w.lane w.pc c.va w.mask))
  | .fault k =>
    let l := match s.warp? c.core c.slot with
      | some v => v.lane w.lane
      | none => Lane.dead
    s.post [s.record c.ctx k 4 0 c.core c.slot w.lane c.va l.rpc.toNat l.rcnt]
  | .violation => gone.takeTrap (s.record c.ctx 3 0 0x07 c.core c.slot w.lane w.pc c.va w.mask)

/-- The paths of a context that await an answer in the range: each asks anew, but for a line to be fetched once more, which the
answer asks for itself. -/
def State.releasePaths (s : State) (ctx : Nat) (r : Nat × Nat) : State :=
  let held := s.cwaits.filter fun (c : CWait) => c.ctx == ctx && c.dev.isNone && inRange r c.va
  let s := { s with cwaits := s.cwaits.filter fun (c : CWait) => !(held.contains c && c.again.isEmpty) }
  (held.filter fun c => !c.again.isEmpty).foldl State.askAgain s

/-- The suspended engine operations of a context are released. -/
def State.releaseEngines (s : State) (ctx : Nat) (r : Nat × Nat) : State :=
  { s with
    g5 := s.g5.map fun (e : G5Entry) =>
      if e.ctx == ctx then { e with st := e.st.answered r (if e.opk == 0 then .running else .queued) } else e,
    copyOps := s.copyOps.map fun (c : CopyOp) => if c.ctx == ctx then { c with st := c.st.answered r .running } else c,
    launches := s.launches.map fun (l : Launch) =>
      if l.ctx == ctx then { l with mapFault := l.mapFault.filter fun a => !inRange r a.2.2 } else l }

/-- A success answer for a live context (R255): its TLB entries of the range go, its mend log replays, its waiters are
released. -/
def State.answer (s : State) (ctx : Nat) (r : Nat × Nat) : State :=
  let s := (s.tlbDrop ctx r.1 r.2).replay ctx r
  (((s.repinAll ctx r).releaseEngines ctx r).releasePaths ctx r).releaseParked ctx r

/-- A failure answer for a live context (R256): with a waiter in the range it takes fatal-translation for the lowest. -/
def State.refuse (s : State) (ctx : Nat) (r : Nat × Nat) : State :=
  match lowestWaiter ((s.waiters ctx).filter fun w => inRange r w.va) with
  | none => s.tlbDrop ctx r.1 r.2
  | some w => s.takeTrap (s.record ctx 3 w.typ 0x08 w.core w.slot w.lane w.pc w.va w.mask)

/-- An answer: it acts on the live context that CTX and GEN name; one that names none, or comes during a save, counts in
FRLATE (R255, R256, R412). On dies that have been shut down nothing acts on it (R435). -/
def State.frans (s : State) (w : DWord) (fail : Bool) : State :=
  let s := { s with sys := { s.sys with frans1 := (w &&& 0xFFFF) ||| (if fail then 0x10000 else 0) } }
  let late := { s with sys := { s.sys with frlate := countUp s.sys.frlate } }
  if s.stopped then s
  else match s.named w.toNat with
  | none => late
  | some l => if s.vectorStopped l.ctx then late else if fail then s.refuse l.ctx (ansRange s.sys.frans0) else s.answer l.ctx (ansRange s.sys.frans0)

/-- FRANS_SUCCESS (R255): a write of FRANS1 with FAIL = 0. -/
def execFransSuccess (w : DWord) (s : State) : Result := .next (s.frans w false)

/-- FRANS_FAILURE (R256): a write of FRANS1 with FAIL = 1. -/
def execFransFailure (w : DWord) (s : State) : Result := .next (s.frans w true)

/-! ### Ring registers -/

/-- A write of FRHEAD: pending records take the space freed (R254). -/
def State.writeFrhead (s : State) (w : Word) : State := State.flushRecs { s with sys := { s.sys with frhead := w } }

/-- A write of FRSIZE: a valid N makes the ring usable, and pending records are written (R252). -/
def State.writeFrsize (s : State) (w : Word) : State := State.flushRecs { s with sys := { s.sys with frsize := w &&& 0x1F } }

/-- A write of FRSTAT: 1 in bit 0 clears OVF (R251). -/
def State.writeFrstat (s : State) (w : Word) : State :=
  { s with sys := { s.sys with frstat := if w.getLsbD 0 then 0 else s.sys.frstat } }

/-- FRHEAD_WRITE (R254). -/
def execFrheadWrite (w : Word) (s : State) : Result := .next (s.writeFrhead w)

/-- FRSIZE_WRITE (R252). -/
def execFrsizeWrite (w : Word) (s : State) : Result := .next (s.writeFrsize w)

/-- FRSTAT_OVF_CLEAR (R251). -/
def execFrstatOvfClear (s : State) : Result := .next (s.writeFrstat 1)

end Sys2Proof.Machine
end

