-- ==== Sys2Proof/Machine/Launch.lean ====
section
/-! DEFINITION. Launch queues, the launch record, acceptance, placement and dispatch, retirement and completion, KILL and
CRST, and the `launch` instruction (R380, R381, R383 to R397, R427, R432). -/

namespace Sys2Proof.Machine

open Sys2Proof

/-! ### Queues (R383, R385) -/

/-- Queue `q`. -/
def State.queueRegs (s : State) (q : Nat) : QRegs := s.sys.queues.getD q QRegs.reset

/-- Change the registers of a queue. -/
def State.modQueue (s : State) (q : Nat) (f : QRegs → QRegs) : State :=
  { s with sys := { s.sys with queues := modAt s.sys.queues q f } }

/-- Records of the ring: 2^N. -/
def QRegs.n (r : QRegs) : Nat := 2 ^ (r.size.toNat % 16)

/-- Table-space offset of the ring. -/
def QRegs.off (r : QRegs) : Nat := fieldAt r.base 39 8

/-- Table-space offset of record `i`. -/
def QRegs.at (r : QRegs) (i : Nat) : Nat := r.off + 256 * (i % r.n)

/-- Is a head of the queue to be read: enabled, not empty, its ring in usable table space? -/
def State.serves (s : State) (q : Nat) : Bool :=
  let r := s.queueRegs q
  r.ctl.getLsbD 0 && r.size.toNat % 16 != 0 && r.wr != r.rd && s.tsCovers r.off (256 * r.n)

/-! ### Reading for the part on a context's account -/

/-- A translator that is no core of a cluster: a core-pinned page is an access-violation to it. -/
def partWho (core ctx : Nat) (super : Bool) : Who := { core := core, ctx := ctx, super := super, cl := none }

/-- Translate a range for the part: no block SRAM is reached. -/
def State.partMap (s : State) (w : Who) (a n : Nat) (write : Bool) : RangeMap :=
  s.engMap w ⟨w.ctx, 0, 0, 0⟩ false write (rangePieces a n)

/-- The bytes of a range, if it translates without fault to device-owned pages; translations are kept either way. -/
def State.partRead (s : State) (w : Who) (a n : Nat) : State × Option (List Byte) :=
  let m := s.partMap w a n false
  if m.bad.isNone && m.faults.isEmpty then (m.s.engTouch w.ctx m.ok, some (m.s.engRead w.ctx m.ok)) else (m.s, none)

/-! ### Acceptance (R386, R388, Table 3) -/

/-- A record not yet accepted, viewed as a launch. -/
def recordOf (bs : List Byte) : Launch :=
  { ctx := 0, gen := 0, rec_ := bs, htab := [], wtab := [], statusAt := none, accepted := 0, placed := [], done := [],
    toRestore := [], run := .live, broken := false, mapFault := [], dtrap := 0, slotNo := 15, savedUnits := [] }

def Launch.htabVa (l : Launch) : Nat := l.num 0x08 8
def Launch.wtabVa (l : Launch) : Nat := l.num 0x10 8
def Launch.pgx (l : Launch) : Nat := l.num 0x58 2
def Launch.pgy (l : Launch) : Nat := l.num 0x5A 2
def Launch.ax (l : Launch) : Nat := l.num 0x5C 1
def Launch.ay (l : Launch) : Nat := l.num 0x5D 1
def Launch.wx (l : Launch) : Nat := l.num 0x5E 1
def Launch.wy (l : Launch) : Nat := l.num 0x5F 1
def Launch.offX (l : Launch) : Int := signedOf 16 (l.num 0x60 2)
def Launch.offY (l : Launch) : Int := signedOf 16 (l.num 0x62 2)

/-- `lo ≤ x ≤ hi`. -/
def between (lo x hi : Nat) : Bool := decide (lo ≤ x) && decide (x ≤ hi)

/-- Check 1: fields. -/
def Launch.fieldsOk (l : Launch) : Bool :=
  decide (l.num 0x00 8 < 2 ^ 57) && l.htabVa % 64 == 0 && l.wtabVa % 64 == 0 && between 1 l.gx 65535 && between 1 l.gy 65535 &&
    between 1 l.cw 12 && between 1 l.ch 8 && between 1 l.bpc 64 && between 1 (l.num 0x1F 1) 32 && between 1 l.nx 1024 &&
    between 1 l.ny 1024 && between 1 l.nz 64 && decide (l.threads ≤ 1024) && decide (l.nacc ≤ 16) && decide (l.nprs ≤ 16) &&
    decide (l.bsram ≤ 458752) && decide (l.pinf ≤ 6) && decide (l.nh ≤ 16) && decide (l.flags < 32) &&
    decide (l.prio ≤ 3) && l.num 0x64 28 == 0

/-- Check 2: stage counts (R21). -/
def Launch.stagesOk (l : Launch) : Bool :=
  l.stageCount 0 + l.stageCount 1 + l.stageCount 2 + l.stageCount 3 == l.nw

/-- Units that a quota reserves (R342). -/
def Launch.reserveUnits (l : Launch) : Nat := (l.quota + 63) / 64

/-- Check 3: reorder (R20, R342). -/
def Launch.reorderOk (l : Launch) : Bool :=
  if l.reorder then
    [(1, 1), (2, 1), (1, 2), (4, 1), (2, 2), (4, 2)].contains (l.cw, l.ch) && l.quota % 4 == 0 &&
      between 4 l.quota 16384 && l.spill % 4096 == 0 && between 1 l.spillu (2 ^ 20) && decide (l.reserveUnits ≤ l.spillu)
  else l.quota == 0 && l.spill == 0 && l.spillu == 0

/-- Check 4: what a core must hold. -/
def Launch.coreOk (l : Launch) : Bool :=
  let m := l.bpc * l.nw + l.nh
  decide (m ≤ 64) && decide (m * 32 * l.nreg ≤ 65536) && decide (l.bpc * l.bsize + 65536 * l.pinf ≤ 458752) &&
    decide (l.bpc * l.nacc ≤ 16) && decide (l.bpc * l.nprs ≤ 16)

/-- Check 6: dependence. -/
def Launch.dependOk (l : Launch) : Bool :=
  (if l.dmap == 0 then l.pgx == 0 && l.pgy == 0
   else l.pgx != 0 && l.pgy != 0 && l.wx != 0 && l.wy != 0) && l.dmap % 8 == 0 && l.cmap % 8 == 0

/-- The handler table's entries. -/
def handlersOf (bs : List Byte) : List Nat := (chop 8 64 bs).map fun e => bytesToNat e % 2 ^ 57

/-- The window table's entries: base and size. -/
def windowsOf (bs : List Byte) : List (Nat × Nat) :=
  (chop 16 8 bs).map fun e => (bytesToNat (e.take 8), bytesToNat ((e.drop 8).take 4))

/-- Handler table and window table as read. -/
abbrev Tables := List Nat × List (Nat × Nat)

/-- A table of a record: zeros where its address is 0. -/
def State.tableAt (s : State) (w : Who) (va n : Nat) : State × Option (List Byte) :=
  if va == 0 then (s, some (List.replicate n 0)) else s.partRead w va n

/-- Check 5: the tables as read in the context that the launch would take; none on failure. The reads are the part's own, not
a kernel's, so they may name table space (assumption 22). -/
def State.tablesOf (s : State) (l : Launch) (ctx : Nat) : State × Option Tables :=
  let w := partWho 0 ctx true
  let h := s.tableAt w l.htabVa 512
  match h.2 with
  | none => (h.1, none)
  | some hs =>
    let t := h.1.tableAt w l.wtabVa 128
    let ws := windowsOf (t.2.getD [])
    let ok := t.2.isSome && ws.all fun w => (w.2 == 0 || w.1 % 64 == 0) && w.2 % 4 == 0 && decide (w.2 ≤ 524288)
    (t.1, if ok then some (handlersOf hs, ws) else none)

/-- The checks of Table 3 in order: what the part learns by them, and a code, or the tables. -/
def State.checkRecord (s : State) (l : Launch) (ctx : Nat) : State × (Nat ⊕ Tables) :=
  if !l.fieldsOk then (s, .inl 0x80)
  else if !l.stagesOk then (s, .inl 0x81)
  else if !l.reorderOk then (s, .inl 0x82)
  else if !l.coreOk then (s, .inl 0x83)
  else
    let t := s.tablesOf l ctx
    match t.2 with
    | none => (t.1, .inl 0x84)
    | some k => (t.1, if l.dependOk then .inr k else .inl 0x85)

/-- The lowest free entry of the launch table (R387). -/
def State.freeEntry (s : State) : Option Nat := (List.range 64).find? fun c => (s.launch? c).isNone

/-- The measurement slot a launch takes (R427): that of the registered range its entry lies in, if the range still hashes to
the digest; else 15. What the part learns by reading the range stays (R428). -/
def State.slotFor (s : State) (ctx : Nat) (super : Bool) (entry : Nat) : State × Nat :=
  match s.service.slots.find? fun r => decide (r.va ≤ entry) && decide (entry < r.va + r.len) with
  | none => (s, 15)
  | some r =>
    let p := s.partRead (partWho 0 ctx super) r.va r.len
    (p.1, match p.2 with
      | none => 15
      | some bs => if bytesToNat (sha384 bs) == r.digest.toNat then r.slot else 15)

/-- Take an entry of the launch table: its generation rises, STATUS is 1 (R387, R388). -/
def State.enter (s : State) (l : Launch) (ctx : Nat) : State :=
  let gen := (s.gens.getD ctx 0 + 1) % 1024
  let m := s.slotFor ctx l.super l.entry.toNat
  let l := { l with ctx := ctx, gen := gen, accepted := s.acceptNo, slotNo := m.2 }
  let s := { m.1 with gens := setAt s.gens ctx gen, acceptNo := s.acceptNo + 1, launches := s.launches ++ [l] }
  s.writeStatus l 1

/-- A head that waits: its queue, record, and what the checks learn and say. -/
structure Head where
  q : Nat
  l : Launch
  out : State × (Nat ⊕ Tables)

/-- The heads of the queues served, in round-robin order after the queue last served. -/
def State.heads (s : State) (ctx : Nat) : List Head :=
  ((List.range 64).map fun k => (s.lastQueue + 1 + k) % 64).filterMap fun q =>
    if s.serves q then
      let r := s.queueRegs q
      let l := recordOf (s.tsRead (r.at r.rd.toNat) 256)
      some { q := q, l := l, out := s.checkRecord l ctx }
    else none

/-- Of the heads that pass, the first of the highest PRIO. -/
def bestHead : List Head → Option Head
  | [] => none
  | h :: hs =>
    match bestHead hs with
    | none => some h
    | some k => if h.l.prio < k.l.prio then some k else some h

/-- Has the record failed its checks? -/
def Head.failed (h : Head) : Bool := h.out.2.isLeft

/-- LAUNCH_ACCEPT (R385, R388): a head that fails its checks is rejected; else the best of the heads is accepted. It waits
while the launch table is full, and in recovery (R425). -/
def execLaunchAccept (s : State) : Result :=
  .next (match s.freeEntry with
    | none => s
    | some ctx =>
      let hs := if s.service.recovery then [] else s.heads ctx
      match hs.find? Head.failed with
      | some h =>
        let r := s.queueRegs h.q
        (match h.out.2 with
         | .inl code => (h.out.1.tsWrite (r.at r.rd.toNat + 0x44) (natToBytes 4 code)).modQueue h.q fun r => { r with rd := r.rd + 1 }
         | .inr _ => s)
      | none =>
        match bestHead hs with
        | none => s
        | some h =>
          match h.out.2 with
          | .inl _ => s
          | .inr t =>
            let r := s.queueRegs h.q
            let l := { h.l with htab := t.1, wtab := t.2, statusAt := some (r.at r.rd.toNat + 0x44) }
            State.enter { h.out.1.modQueue h.q (fun r => { r with rd := r.rd + 1 }) with lastQueue := h.q } l ctx)

/-- A write of QWR (R384). -/
def State.writeQwr (s : State) (q : Nat) (w : Word) : State := s.modQueue q fun r => { r with wr := w }

/-- HOST_QUEUE_PUBLISH (R384). -/
def execHostQueuePublish (queue : Nat) (wr : Word) (s : State) : Result := .next (s.writeQwr queue wr)

/-! ### Freeing what a launch holds (R387, R395) -/

/-- What is left of a launch that ends takes the mark of launches that are gone. -/
def State.outlive (s : State) (ctx : Nat) : State :=
  match s.launch? ctx with
  | none => s
  | some l =>
    let left := fun (c k : Nat) => c == ctx && decide (k < goneCluster)
    { s with
      warps := s.warps.map fun (w : Warp) => if left w.ctx w.cluster then { w with cluster := goneCluster + l.gen } else w,
      reqs := s.reqs.map fun (r : Req) => if left r.ctx r.cluster then { r with cluster := goneCluster + l.gen } else r,
      copyOps := s.copyOps.map fun (c : CopyOp) =>
        if left c.ctx c.cluster then { c with cluster := goneCluster + l.gen, super := l.super, meas := l.slotNo } else c }

/-- Free the entry of a launch that has no cluster left: its pins, its lines of the constant caches (R187) and of the instruction
caches, whose next launch of the number fetches its code anew (assumption 30), its locks on lines (R216), and a request that names
it, which ends with ERR (R412, R436). A handler warp and its operations that outlive the launch, and an `rstrp` past its checks,
go on under the mark of the launch that is gone (R80, R226; assumption 63). -/
def State.freeContext (s : State) (ctx : Nat) : State :=
  let s := s.outlive ctx
  let s := match s.preempt with
    | some p => if p.ctx == ctx then s.endRequest p.hard true else s
    | none => s
  let s := match s.restoring with
    | some r => if r.ctx == ctx then s.endRequest (s.sys.prq.getLsbD 21) true else s
    | none => s
  { s with launches := s.launches.filter fun (l : Launch) => l.ctx != ctx,
           pins := s.pins.filter fun (p : Pin) => p.ctx != ctx,
           cwaits := s.cwaits.filter fun (c : CWait) => c.ctx != ctx,
           ccache := s.ccache.filter fun (c : CLine) => c.ctx != ctx,
           icache := s.icache.filter fun (c : CLine) => c.ctx != ctx,
           l2 := s.l2.map fun (k : L2Line) => if k.locked == some ctx then { k with locked := none } else k }

/-- Is the request one that goes on when its cluster is discarded: a write to a line of a slice? -/
def Req.survives (r : Req) : Bool :=
  r.unperformed && (match r.tgt with
    | .line _ => true
    | _ => false)

/-- Is it an `rstrp` past its checks, which completes whatever becomes of its warp (R225)? -/
def CopyOp.committed (c : CopyOp) : Bool := c.opk == 6 && c.probed && !c.ended

/-- Discard one cluster: blocks, warps, operations, messages and log entries. Stores issued to lines of a slice run to
completion, and so does an `rstrp` past its checks (R225); other requests of its warps, and those to its SRAM and frames, end with
it. -/
def State.dropCluster (s : State) (ctx idx : Nat) : State :=
  let mine := fun (c k : Nat) => c == ctx && k == idx
  let held := s.warps.filter fun w => mine w.ctx w.cluster
  let ofWarp := fun (core slot form : Nat) => held.any fun w => w.core == core && w.slot == slot && w.form == form
  { s with
    clusters := s.clusters.filter fun (c : Cluster) => !mine c.ctx c.idx,
    blocks := s.blocks.filter fun (b : Block) => !mine b.ctx b.cluster,
    warps := s.warps.filter fun (w : Warp) => !mine w.ctx w.cluster,
    reqs := s.reqs.filter fun (r : Req) =>
      !((ofWarp r.core r.slot r.form && !r.survives) || (match r.tgt with
        | .sram c k _ _ => mine c k
        | .frame c k _ => mine c k
        | _ => false)),
    cwaits := s.cwaits.filter fun (c : CWait) => !(held.any fun w => w.core == c.core && w.slot == c.slot && w.ctx == c.ctx),
    reserved := s.reserved.filter fun r => !(held.any fun w => w.core == r.1 && w.slot == r.2.1),
    mends := s.mends.filter fun (m : Mend) => !mine m.ctx m.cluster,
    pins := s.pins.filter fun (p : Pin) => !mine p.ctx p.cluster,
    copyOps := s.copyOps.filter fun (c : CopyOp) => !mine c.ctx c.cluster || c.committed,
    g5 := s.g5.filter fun (e : G5Entry) => !mine e.ctx e.cluster,
    packets := s.packets.filter fun (p : Packet) => !mine p.ctx p.cluster,
    msgs := s.msgs.filter fun (m : Msg) => !mine m.ctx m.cluster }

/-- Discard every cluster of a context. -/
def State.dropAll (s : State) (ctx : Nat) : State :=
  (s.clusters.filter fun (c : Cluster) => c.ctx == ctx).foldl (fun s c => State.dropCluster s c.ctx c.idx) s

/-- The launch completes once every cluster has retired, its bit set, or been discarded: STATUS 2, or 0x90 if one was
discarded (R394, R395). A halted launch waits for its kill. -/
def State.finishLaunch (s : State) (ctx : Nat) : State :=
  match s.launch? ctx with
  | none => s
  | some l =>
    if l.run == .live && decide (l.gx * l.gy ≤ l.done.length) then
      (s.writeStatus l (if l.broken then 0x90 else 2)).freeContext ctx
    else s

/-! ### Dependence (R389, R390) -/

/-- Whether a cluster may be placed. -/
inductive Ready where
  | yes
  | no
  | fault (va kind : Nat)
  | violation (va : Nat)
  deriving DecidableEq, Repr

/-- Numbers lo to lo + n - 1, clipped to 0 to top - 1. -/
def clipped (lo : Int) (n top : Nat) : List Nat :=
  (List.range n).filterMap fun (k : Nat) =>
    if 0 ≤ lo + (k : Int) ∧ lo + (k : Int) < (top : Int) then some (lo + (k : Int)).toNat else none

/-- The producer bits that a cluster needs. -/
def Launch.needs (l : Launch) (idx : Nat) : List Nat :=
  if l.dmap == 0 then []
  else
    let xs := clipped ((l.ax * (idx % l.gx) : Nat) + l.offX) l.wx l.pgx
    let ys := clipped ((l.ay * (idx / l.gx) : Nat) + l.offY) l.wy l.pgy
    ys.flatMap fun y => xs.map fun x => x + l.pgx * y

/-- One producer bit of a cluster, read as a load of the consumer's context: a fault that the cluster has not yet posted a record for is
posted. -/
def State.producerBit (s : State) (l : Launch) (idx i : Nat) : Ready :=
  let va := l.dmap + i / 8
  match s.engPlace (partWho 0 l.ctx l.super) ⟨l.ctx, 0, 0, 0⟩ false va 1 false with
  | .ok m =>
    (match m.tgt with
     | .line d => if (s.devByte (s.forward l.ctx va d)).getLsbD (i % 8) then .yes else .no
     | _ => .violation va)
  | .fault k => if l.mapFault.any fun a => a.1 == 2 * idx && a.2.2 / 65536 == va / 65536 then .no else .fault va k
  | .violation => .violation va

/-- The producer bits of a cluster are read by translated loads, whose translations and lines the part keeps (R216, R238, R428). -/
def State.polled (s : State) (l : Launch) (idx : Nat) : State :=
  (l.needs idx).foldl (fun s i =>
    let m := s.engMap (partWho 0 l.ctx l.super) ⟨l.ctx, 0, 0, 0⟩ false false [(l.dmap + i / 8, 1)]
    m.s.engTouch l.ctx m.ok) s

/-- Is the cluster ready (R390)? The first bit that is not 1 decides. -/
def State.ready (s : State) (l : Launch) (idx : Nat) : Ready :=
  ((l.needs idx).map (s.producerBit l idx)).foldl (fun r b => if r == .yes then b else r) .yes

/-! ### Placement (R391, R392) -/

/-- Is the core free (R391)? -/
def State.coreFree (s : State) (core : Nat) : Bool :=
  !s.retired.contains (groupOf core) && s.clusters.all fun c =>
    c.retired || (match s.launch? c.ctx with
      | some l => !(c.cores l).contains core
      | none => true)

/-- Records of basket SRAM of a group that domains reserve (R343). -/
def State.groupQuota (s : State) (g : Nat) : Nat :=
  ((s.clusters.filter fun c => groupOf (coreAt c.die c.oy c.ox) == g).map fun c => match c.domain with
    | some d => d.quota
    | none => 0).foldl (· + ·) 0

/-- Does an origin suit a cluster of the launch, which holds `idx`, its `i`-th core to take `need i` warps beside the handler warps
reserved there? -/
def State.qualifies (s : State) (l : Launch) (idx : Nat) (need : Nat → Nat) (o : Nat × Nat × Nat) : Bool :=
  let cs := (List.range (l.cw * l.ch)).map fun i => coreAt o.1 (o.2.1 + i / l.cw) (o.2.2 + i % l.cw)
  let g := groupOf (coreAt o.1 o.2.1 o.2.2)
  decide (o.2.2 + l.cw ≤ 12) && decide (o.2.1 + l.ch ≤ 8) && cs.all (fun c => s.coreFree c) &&
    ((List.range cs.length).all fun i => s.takesWarps l (cs.getD i 0) (need i) l.nh) &&
    (!l.reorder ||
      (o.2.2 % l.cw == 0 && o.2.1 % l.ch == 0 && (cs.all fun c => groupOf c == g) &&
        decide (s.groupQuota g + l.quota ≤ 16384) &&
        decide (l.reserveUnits ≤ (s.freeUnits { l with savedUnits := l.savedUnits.filter fun u => u.1 != idx }).length)))

/-- The candidates in order: die, row, column. -/
def origins : List (Nat × Nat × Nat) :=
  (List.range 2).flatMap fun d => (List.range 8).flatMap fun y => (List.range 12).map fun x => (d, y, x)

/-- The first candidate that qualifies. -/
def State.findRect (s : State) (l : Launch) (idx : Nat) (need : Nat → Nat) : Option (Nat × Nat × Nat) :=
  origins.find? (s.qualifies l idx need)

/-- May the launch place clusters: it lives, no pre-emption of it is in progress, and every saved cluster is back (R395,
R400, R408)? -/
def State.mayPlace (s : State) (l : Launch) : Bool :=
  l.run == .live && l.toRestore.isEmpty && !s.stopped &&
    (match s.preempt with
     | some p => p.ctx != l.ctx
     | none => true)

/-- What placing the next cluster of a launch would do (R390, R392). -/
inductive Plan where
  | place (idx : Nat) (o : Nat × Nat × Nat)
  /-- a saved cluster, whose section lies at this image offset (R408) -/
  | reload (off idx : Nat) (o : Nat × Nat × Nat)
  | fault (idx va kind : Nat)
  | violation (va : Nat)
  deriving DecidableEq, Repr

/-- Clusters not yet placed are tried in ascending index: those not ready are passed over; the first ready one decides. -/
def State.planFrom (s : State) (l : Launch) : List Nat → Option Plan
  | [] => none
  | i :: is =>
    match s.ready l i with
    | .no => s.planFrom l is
    | .fault va k => some (.fault i va k)
    | .violation va => some (.violation va)
    | .yes => (s.findRect l i fun _ => l.bpc * l.nw).map fun o => .place i o

/-- Is launch `a` served before `b` (R392)? -/
def Launch.before (a b : Launch) : Bool := decide (b.prio < a.prio) || (a.prio == b.prio && decide (a.accepted < b.accepted))

/-- The domain of a new cluster (R342, R343): its reserve units are the lowest free ones (assumption 14). -/
def State.newDomain (s : State) (l : Launch) : Option Domain :=
  if l.reorder then
    some { quota := l.quota, units := l.spillu, spill := l.spill, reserve := (s.freeUnits l).take l.reserveUnits,
           nextArr := 0, threads := [], marks := [], progress := s.cycle }
  else none

/-- A cluster at an origin, before its blocks (R165, R370). -/
def State.newCluster (s : State) (l : Launch) (idx : Nat) (o : Nat × Nat × Nat) : Cluster :=
  { ctx := l.ctx, idx := idx, die := o.1, ox := o.2.2, oy := o.2.1, cbar := Bar.zero, cexits := 0, pinned := [], allow := [],
    domain := s.newDomain l, visMax := 0, retired := false }

/-- A block at dispatch (R165, R281, R366, R371). -/
def newBlock (l : Launch) (c : Cluster) (bid : Nat) : Block :=
  { ctx := l.ctx, cluster := c.idx, bid := bid, home := c.home l bid, size := l.bsize, sram := [],
    tiles := List.replicate l.nacc Tile.zero, binds := List.replicate l.nprs 0, press := [], tstat := 0,
    bars := List.replicate 16 Bar.zero, rings := List.replicate 8 0, threads := l.threads, exited := [] }

/-- The stage of a block warp, and its number within the stage (R21). -/
def Launch.stageOf (l : Launch) (w : Nat) : Nat × Nat :=
  let a := l.stageCount 0
  let b := a + l.stageCount 1
  let c := b + l.stageCount 2
  if w < a then (0, w) else if w < b then (1, w - a) else if w < c then (2, w - b) else (3, w - c)

/-- The lowest free slot of a quadrant, or of the next one in ascending order modulo 4 that has one (R393). -/
def State.slotFrom (s : State) (core q : Nat) : Option Nat :=
  (List.range 4).findSome? fun k => (s.quadFree core ((q + k) % 4)).head?

/-- Form one warp of a block (R18, R113, R393). -/
def State.formBlockWarp (s : State) (l : Launch) (c : Cluster) (bid w : Nat) : State :=
  let core := c.home l bid
  let st := l.stageOf w
  match s.slotFrom core ((st.1 + st.2) % 4) with
  | none => s
  | some slot =>
    let lanes := (List.range 32).map fun i =>
      if 32 * w + i < l.threads then Lane.start l.nreg l.entry [] (s.nextId + i) bid (32 * w + i) 0 s.cycle else Lane.dead
    let wp := Warp.formed s core slot l.ctx c.idx w st.1 .block lanes (some l.entry)
    State.addWarp { s with nextId := s.nextId + 32 } wp

/-- Dispatch every block of a cluster (R391, R393). -/
def State.dispatch (s : State) (l : Launch) (c : Cluster) : State :=
  (List.range l.nbid).foldl (fun s bid =>
    (List.range l.nw).foldl (fun s w => State.formBlockWarp s l c bid w)
      { s with blocks := s.blocks ++ [newBlock l c bid] }) s

/-- Does a target lie in the stores that a cluster takes? -/
def Target.of (t : Target) (ctx idx : Nat) : Bool :=
  match t with
  | .sram c k _ _ => c == ctx && k == idx
  | .frame c k _ => c == ctx && k == idx
  | .mx c k _ _ => c == ctx && k == idx
  | .line _ => false

/-- No sector of the SRAM, frames, tiles and press regions that a cluster takes is poisoned: they are written whole (R165, R281); and no
line of its frames has been written by anyone (R339). -/
def State.cleanSram (s : State) (ctx idx : Nat) : State :=
  { s with badSram := s.badSram.filter fun t => !t.of ctx idx, lineSlots := s.lineSlots.filter fun e => !e.1.of ctx idx }

/-- The L1 of each core of a cluster gives up the SRAM that the cluster now reserves: lines beyond what is left go (R164). -/
def State.resizeL1s (s : State) (l : Launch) (c : Cluster) : State :=
  (c.cores l).foldl (fun s k => s.shrinkL1 k (s.l1Lines k)) s

/-- Place a cluster. -/
def State.placeAt (s : State) (l : Launch) (idx : Nat) (o : Nat × Nat × Nat) : State :=
  let c := s.newCluster l idx o
  let s := { s.cleanSram l.ctx idx with clusters := s.clusters ++ [c] }
  State.resizeL1s ((s.modLaunch l.ctx fun l => { l with placed := l.placed ++ [idx] }).dispatch l c) l c

/-! ### Retirement (R394) -/

/-- Does the block hold the whole warp: a warp of its cluster all of whose threads are the block's? -/
def Warp.onlyOf (w : Warp) (b : Block) : Bool :=
  w.ofCluster b.ctx b.cluster && w.lanes.all fun l => l.uid == 0 || l.bid == b.bid

/-- May the block retire? -/
def State.retires (s : State) (b : Block) : Bool :=
  (match s.launch? b.ctx with
   | some l => l.run == .live
   | none => false) &&
    decide (b.threads ≤ b.exited.length) && !(s.warps.any fun w => w.onlyOf b) &&
    !(s.reqs.any fun r => r.ctx == b.ctx && r.cluster == b.cluster && r.bid == b.bid && (r.unperformed || r.writesReg)) &&
    !(s.mends.any fun (m : Mend) => m.ctx == b.ctx && m.cluster == b.cluster && m.bid == b.bid) &&
    !(s.entries.any fun (e : G5Entry) => e.ctx == b.ctx && e.cluster == b.cluster && e.bid == b.bid)

/-- Is no block of the launch left, placed or to be placed? -/
def State.lastGone (s : State) (l : Launch) : Bool :=
  decide (l.gx * l.gy ≤ l.placed.length) && l.toRestore.isEmpty && !(s.blocks.any fun (b : Block) => b.ctx == l.ctx)

/-- BLOCK_RETIRE (R394): its SRAM, tiles, bindings, barriers and rings are released; with the launch's last block, its pins (Table 1 of
14_copy_and_gather). -/
def execBlockRetire (ctx cluster bid : Nat) (s : State) : Result :=
  .next (match s.block? ctx cluster bid with
    | none => s
    | some b =>
      if s.retires b then
        let s := { s with blocks := s.blocks.filter fun (b : Block) => !(b.ctx == ctx && b.cluster == cluster && b.bid == bid) }
        if (s.launch? ctx).any s.lastGone then { s with pins := s.pins.filter fun (p : Pin) => p.ctx != ctx } else s
      else s)

/-- Is a handler thread of the cluster live? -/
def State.handlerLive (s : State) (ctx cluster : Nat) : Bool :=
  s.warps.any fun w => w.ctx == ctx && w.cluster == cluster && w.kind == .handler &&
    w.lanes.any fun l => l.status != .exited && l.status != .departed

/-- A cluster is done: its entry goes, and the launch may complete. -/
def State.clusterDone (s : State) (ctx idx : Nat) : State :=
  let s := { s with clusters := s.clusters.filter fun (c : Cluster) => !(c.ctx == ctx && c.idx == idx) }
  (s.modLaunch ctx fun l => { l with done := l.done ++ [idx] }).finishLaunch ctx

/-- The largest VIS that the cluster's threads hold, those whose warps still hold their slots included. -/
def State.clusterVis (s : State) (c : Cluster) : Nat :=
  (s.warps.filter fun w => w.ctx == c.ctx && w.cluster == c.idx).foldl (fun m w => w.lanes.foldl (fun m l => max m l.vis) m) c.visMax

/-- Has the GT of its origin core passed the write completion time of every write of the cluster, each of which has come back (R388,
R394)? -/
def State.visPassed (s : State) (c : Cluster) : Bool :=
  decide (s.clusterVis c < s.coreGt c.origin) &&
    !(s.reqs.any fun r => r.ctx == c.ctx && r.cluster == c.idx && (r.kind == .store || r.kind == .atom || r.kind == .red) && !r.backW) &&
    !(s.mends.any fun (m : Mend) => m.ctx == c.ctx && m.cluster == c.idx)

/-- CLUSTER_RETIRE (R394): the rectangle and the reservations are released; a cluster with no bit to set is done once its writes are
visible to the device, so that the completion write is a release of device scope (R388). -/
def execClusterRetire (ctx cluster : Nat) (s : State) : Result :=
  .next (match s.cluster? ctx cluster, s.launch? ctx with
    | some c, some l =>
      let done := fun (s : State) => if l.cmap == 0 && s.visPassed c then s.clusterDone ctx cluster else s
      if l.run == .halted then s
      else if c.retired then done s
      else if (s.blocks.any fun b => b.ctx == ctx && b.cluster == cluster) ||
          (s.msgs.any fun m => m.ctx == ctx && m.cluster == cluster) || s.handlerLive ctx cluster then s
      else
        let s := { s with packets := s.packets.filter fun (p : Packet) => !(p.ctx == ctx && p.cluster == cluster) }
        done (s.modCluster ctx cluster fun c => { c with retired := true, domain := none, pinned := [], allow := [] })
    | _, _ => s)

/-- Set a bit of a byte at a target: an atomic `or` at its home. -/
def State.orBit (s : State) (m : Mapped) (ctx va meas i : Nat) : State :=
  let t := match m.tgt with
    | .line d => .line (s.forward ctx va d)
    | t => t
  s.homeWrite t ctx m.tag m.hc m.sealed meas ((s.homeRead t 1).map fun b => b ||| ((1 : Byte) <<< i))

/-- CMAP_BIT_SET (R394): once the core's GT has passed the cluster's largest VIS. -/
def execCmapBitSet (ctx cluster : Nat) (s : State) : Result :=
  .next (match s.cluster? ctx cluster, s.launch? ctx with
    | some c, some l =>
      let va := l.cmap + cluster / 8
      if !c.retired || l.cmap == 0 || l.run == .halted || !s.visPassed c ||
          (l.mapFault.any fun a => a.1 == 2 * cluster + 1) then s
      else
        match s.engPlace (partWho c.origin ctx l.super) ⟨ctx, 0, 0, 0⟩ false va 1 true with
        | .ok m => ((s.learn (.ok m)).orBit m ctx va l.slotNo (cluster % 8)).clusterDone ctx cluster
        | .fault k =>
          (s.modLaunch ctx fun l => { l with mapFault := l.mapFault ++ [(2 * cluster + 1, c.origin, va)] }).post
            [s.record ctx k 8 0 c.origin 0 0 va 0 0]
        | .violation => s.takeTrap (s.record ctx 3 0 0x07 c.origin 0 0 0 va 0)
    | _, _ => s)

/-! ### KILL and CRST (R380, R381, R395, R432) -/

/-- End a context (R395): its clusters are discarded, STATUS becomes 0x90 if it does not hold that, and its entry is free. -/
def State.killContext (s : State) (ctx : Nat) : State :=
  match s.launch? ctx with
  | none => s
  | some l =>
    let s := s.dropAll ctx
    (if l.run == .halted then s else s.writeStatus l 0x90).freeContext ctx

/-- A write of KILL: it acts on the live context that CTX and GEN name. -/
def State.writeKill (s : State) (w : Word) : State :=
  let s := { s with sys := { s.sys with kill := w &&& 0xFFFF } }
  match s.named w.toNat with
  | some l => s.killContext l.ctx
  | none => s

/-- KILL (R395, R432). -/
def execKill (w : Word) (s : State) : Result := .next (s.writeKill w)

/-- The record of a message that a reset discards (R381). -/
def State.messageFault (s : State) (l : Launch) (c : Cluster) (m : Msg) : FaultRec :=
  let dst := c.coreOf (m.dst % l.cw) (m.dst / l.cw)
  s.record m.ctx 4 0 0x11 m.core m.slot m.lane m.pc.toNat (dst % 256 + 256 * (m.h % 64)) m.msrc

/-- Does a packet travel over the mesh: one of the cluster barrier (R370)? -/
def Carried.meshed : Carried → Bool
  | .carrive _ => true
  | .waitCbar _ => true
  | .cexits _ => true
  | _ => false

/-- Of `n` packets under way, how many are only partly injected into the mesh when a reset reaches them: a free choice (assumption
67). -/
def partInjected (k n : Nat) : Nat := ((List.range n).filter fun i => (Config.freeByte (k + i)).getLsbD 0).length

/-- A write of CRST (R380): a placed cluster is discarded; each message it had, pending or in flight, posts a message-fault
record; the packets of its messages and of its cluster barrier that are only partly injected into the mesh are dropped with a poison
tail and count in MSGDROP. -/
def State.writeCrst (s : State) (w : DWord) : State :=
  let s := { s with sys := { s.sys with crst := (w.toNat / 2 ^ 32 * 2 ^ 32 + w.toNat % 65536 : Nat) } }
  match s.named w.toNat with
  | none => s
  | some l =>
    match s.cluster? l.ctx (w.toNat / 2 ^ 32) with
    | none => s
    | some c =>
      if c.retired then s
      else
        let ms := s.msgs.filter fun m => m.ctx == c.ctx && m.cluster == c.idx
        let recs := ms.map (s.messageFault l c)
        let packets := (s.packets.filter fun (p : Packet) => p.ctx == c.ctx && p.cluster == c.idx && p.what.meshed).length
        let s := (s.dropCluster c.ctx c.idx).post recs
        let n := (ms.filter fun m => !m.arrived).length + packets
        let s := (List.range (partInjected s.nextId n)).foldl
          (fun s _ => { s with sys := { s.sys with msgdrop := countUp s.sys.msgdrop } }) { s with nextId := s.nextId + n }
        (s.modLaunch l.ctx fun l => { l with broken := true, done := l.done ++ [c.idx] }).finishLaunch l.ctx

/-- CLUSTER_RESET (R380, R432). -/
def execClusterReset (w : DWord) (s : State) : Result := .next (s.writeCrst w)

/-! ### launch (R396, R397) -/

/-- Append a record of 256 bytes to a queue: the value for D. Where the ring does not lie in usable table space the bytes are
not written (R465; assumption 56). -/
def State.append (s : State) (super : Bool) (q : Nat) (bs : List Byte) : State × Nat :=
  let r := s.queueRegs q
  if 64 ≤ q then (s, 0x80000003)
  else if !r.ctl.getLsbD 0 || !r.ctl.getLsbD 1 then (s, 0x80000002)
  else if (recordOf bs).super && !super then (s, 0x80000004)
  else if (r.wr - r.rd).toNat == r.n then (s, 0x80000001)
  else
    ((s.tsPut (r.at r.wr.toNat) (overlayAt bs 0x44 [0, 0, 0, 0])).modQueue q fun r => { r with wr := r.wr + 1 },
     r.wr.toNat % 2 ^ 31)

/-- The lanes of the launch in progress: active, executing, done. -/
def Iss.launching (x : Iss) : List Nat × List Nat × List Nat :=
  match x.w.holdAt x.pc with
  | some (.launch a e d) => (lanesOf a, lanesOf e, lanesOf d)
  | _ => (x.act, x.ex, [])

/-- Lane `i` acts: it appends its record and writes D, or parks; a violation traps, and leaves what lower lanes did. -/
def Iss.launchLane (x : Iss) (o : ROps) (first i : Nat) : State ⊕ State :=
  let a := x.read i o.a 2
  let own : OwnBlock := { ctx := x.w.ctx, cluster := x.w.cluster, bid := (x.lane i).bid, size := x.sramSize i }
  let m := x.s.engMap x.who own false false (rangePieces a 256)
  if m.bad.isSome then .inr (x.trapLane 0x07 i (a % 2 ^ 57))
  else
    match m.faults with
    | [] =>
      let r := (m.s.engTouch x.w.ctx m.ok).append x.l.super (x.readB i o.b 1) (m.s.engRead x.w.ctx m.ok)
      let d := match o.d with
        | .k n => if i == first then Sel.k n else .z
        | d => d
      .inl (r.1.setWarp (x.w.write d 1 [(i, r.2)]))
    | f :: fs =>
      .inl ((m.s.setWarp (x.w.modLanes [i] fun _ l => { l with status := .parked 0 ((f :: fs).map fun g => g.1) })).post
        ((f :: fs).map fun g => x.faultRec g.2 0 i g.1))

/-- After the last lane: the lanes of `act`, which did not park, go on; where all have parked the turn passes on. How lane `last`,
and those that go on, reached the instruction is settled, also where it parked. -/
def Iss.launchEnd (x : Iss) (s : State) (act : List Nat) (last : Nat) : State :=
  let w := x.again s
  let go := act.filter fun i => (w.lane i).status == .runnable && (w.lane i).pc == x.pc
  { x with act := last :: go }.settle s (w.move go (nextPc x.pc)) (go.headD last)

/-- After a lane that is not the last: the path is held for the others, and how its lanes reached the instruction is settled (R34). -/
def Warp.launchHold (w : Warp) (pc : VAddr) (was act ex did : List Nat) : Warp :=
  { w.setHold pc (.launch (maskOf act) (maskOf ex) (maskOf did)) with chk := w.chk.filter fun c => !was.contains c.1 }

/-- After a lane that traps: what held the path is over, so that no later lane acts (R397). -/
def Iss.launchStop (x : Iss) (s : State) : State :=
  s.modWarp x.w.core x.w.slot fun w => { w with hold := w.otherHolds x.pc }

/-- One lane acts at each issue, once it is held as a release of device scope (R274); the alignment of every lane is judged
before the first. A lane that parks leaves the path: it issues `launch` again after its restart, whatever the others still do
(R245). -/
def execLaunch (g : Guard) (o : ROps) (s : State) : Result :=
  issue g s ([(o.d, 1), (o.a, 2)] ++ o.b.use 1) (fun _ => true) false fun x =>
    let t := x.launching
    match t.2.1.filter fun i => !t.2.2.contains i with
    | [] => x.next x.s x.w
    | i :: rest =>
      match (if t.2.2.isEmpty then t.2.1.find? fun j => x.read j o.a 2 % 256 != 0 else none) with
      | some j => x.trapLane 0x07 j (x.read j o.a 2 % 2 ^ 57)
      | none =>
        if !x.fenceOk 2 i then x.hold
        else
          match ({ x with ex := t.2.1 } : Iss).launchLane o (t.2.1.headD 0) i with
          | .inr s => x.launchStop s
          | .inl s =>
            let stays : Bool := match s.warp? x.w.core x.w.slot with
              | some w => (w.lane i).status == .runnable
              | none => false
            let act := if stays then t.1 else t.1.filter (· != i)
            if rest.isEmpty then x.launchEnd s act i
            else s.modWarp x.w.core x.w.slot fun w => w.launchHold x.pc t.1 act t.2.1 (i :: t.2.2)

end Sys2Proof.Machine
end

