-- ==== Sys2Proof/Machine/Image.lean ====
section
/-! DEFINITION. The context image: its byte layouts as the part writes them (R404, R406, R407, R467; Tables 3 to 7 and 9 of
18_preemption_and_context). -/

namespace Sys2Proof.Machine

open Sys2Proof

/-! ### Laying bytes out -/

/-- Zero bytes. -/
def zeros (n : Nat) : List Byte := List.replicate n 0

/-- Pad to a length. -/
def padTo (n : Nat) (bs : List Byte) : List Byte := bs ++ zeros (n - bs.length)

/-- `n` little-endian bytes. -/
def le (n v : Nat) : List Byte := natToBytes n v

/-- The bytes short of a multiple. -/
def gapTo (al off : Nat) : Nat := (al - off % al) % al

/-- Lay parts out from an offset, each aligned; the offsets, 0 for an empty part, and all the bytes. -/
def layOut : Nat → List (Nat × List Byte) → List Nat × List Byte
  | _, [] => ([], [])
  | off, (al, bs) :: ps =>
    if bs.isEmpty then
      let r := layOut off ps
      (0 :: r.1, r.2)
    else
      let g := gapTo al off
      let r := layOut (off + g + bs.length) ps
      ((off + g) :: r.1, zeros g ++ bs ++ r.2)

/-! ### Thread records (Table 7) -/

/-- Cluster-relative column and row of a core, as two bytes. -/
def Cluster.colRow (c : Cluster) (core : Nat) : List Byte := le 1 (coreCol core - c.ox) ++ le 1 (coreRow core - c.oy)

/-- Has a lane a thread record: is its thread still there? -/
def Lane.live (l : Lane) : Bool := l.uid != 0 && l.status != .exited && l.status != .departed

/-- The predicates that a save keeps: all seven, or those that the `ppoint` named (R402); bit 0 is clear. -/
def Warp.kept (w : Warp) (l : Lane) : Byte :=
  match w.stopped with
  | some m => if l.atPpoint then m.2.2.zeroExtend 8 <<< 1 else 0xFE
  | none => 0xFE

/-- STATE and WAITON (R407): a wait at a barrier or a convergence barrier is saved; any other issues again. A lane of a warp that a
breakpoint halted is saved with STATE 3 (R412), whatever it was doing; the spec gives no WAITON for it, and the model puts there 128
plus the code of what it waits on, 64 for a parked lane, else 0 (assumption 64). -/
def Warp.stateOf (w : Warp) (l : Lane) : Nat × Nat :=
  let st := match l.status with
    | .parked _ _ => (1, 0)
    | .waiting (.bar b) => (2, b)
    | .waiting .cbar => (2, 16)
    | .waiting (.join b) => (2, 32 + b)
    | _ => (0, 0)
  if !w.brk then st else if st.1 == 2 then (3, 128 + st.2) else (3, 64 * st.1)

/-- The BAR word: PEND in bits 15:0, APH = PH in bits 31:16. -/
def State.barWord (s : State) (w : Warp) (l : Lane) : Nat :=
  if w.kind == .handler then 0
  else
    match s.block? w.ctx w.cluster l.bid with
    | none => 0
    | some b => ((List.range 16).map fun k =>
        (if (b.bar k).pend.any fun p => p.2.1 == l.tid then 2 ^ k else 0) +
          (if (b.bar k).pending l.bid l.tid then 2 ^ (16 + k) else 0)).foldl (· + ·) 0

/-- The CBF byte. -/
def State.cbfOf (s : State) (w : Warp) (l : Lane) : Nat :=
  (match s.cluster? w.ctx w.cluster with
   | none => 0
   | some c =>
     if w.kind == .handler then 0
     else (if c.cbar.pend.any fun p => p.1 == l.bid && p.2.1 == l.tid then 1 else 0) +
       (if c.cbar.pending l.bid l.tid then 2 else 0)) + (if l.withdrawn then 4 else 0)

/-- The record of a thread: DGT, STATE with WAITON, and PLIVE as the caller has them. -/
def State.threadBytes (s : State) (w : Warp) (l : Lane) (dgt : Nat) (st : Nat × Nat) (plive : Byte) (kept : Byte) :
    List Byte :=
  let body :=
    le 8 l.pc.toNat ++ le 8 l.rpc.toNat ++ le 8 l.vis ++ le 8 dgt ++ le 4 l.rcnt.toNat ++ le 2 l.mc ++ le 2 l.pw ++
      le 2 l.key.toNat ++ le 2 l.tid ++ [l.p &&& kept] ++ [plive] ++ le 1 st.1 ++ le 1 st.2 ++ le 4 (s.barWord w l) ++
      le 1 (s.cbfOf w l) ++ le 1 (l.frames.length + 8 * l.rsnap.length) ++ le 2 l.bid ++
      le 4 (if w.kind == .handler then l.msrc.toNat else 0) ++ zeros 4 ++ framesRecord l.frames ++ framesRecord l.rsnap ++
      l.v.flatMap fun v => le 4 v.toNat
  body ++ zeros (gapTo 64 body.length)

/-! ### Warp sections (Table 6) -/

/-- Insert a warp by core, then by formation. -/
def insertWarp (w : Warp) : List Warp → List Warp
  | [] => [w]
  | v :: vs => if w.core < v.core ∨ (w.core = v.core ∧ w.form < v.form) then w :: v :: vs else v :: insertWarp w vs

/-- The saved warps of a cluster: by core, then by formation. -/
def State.savedWarps (s : State) (c : Cluster) : List Warp :=
  (s.warps.filter fun w => w.ctx == c.ctx && w.cluster == c.idx).foldl (fun ws w => insertWarp w ws) []

/-- Formation order among the saved warps of its core. -/
def Warp.rank (w : Warp) (ws : List Warp) : Nat := (ws.filter fun v => v.core == w.core && decide (v.form < w.form)).length

/-- The 0x200 bytes of a warp section. -/
def Warp.headBytes (w : Warp) (c : Cluster) (rank : Nat) : List Byte :=
  let kind := match w.kind with
    | .block => 0
    | .sorter => 1
    | .handler => 2
  padTo 0x200
    (le 4 w.wid ++ le 1 w.stage ++ le 1 kind ++ le 2 rank ++ c.colRow w.core ++ le 1 (w.slot / 16) ++ [0] ++
      le 4 (maskOf ((List.range 32).filter fun i => (w.lane i).live)).toNat ++ le 1 (w.count .cp) ++ le 1 (w.count .mx) ++
      le 1 (w.count .st) ++ [0] ++ le 4 w.fstat.toNat ++ le 4 w.cpstat.toNat ++ zeros 4 ++
      (w.k.flatMap fun v => le 4 v.toNat) ++ w.cb.flatMap fun m => le 4 m.1.toNat ++ le 4 m.2.toNat)

/-- A warp section with its thread records. -/
def State.warpBytes (s : State) (c : Cluster) (ws : List Warp) (w : Warp) : List Byte :=
  w.headBytes c (w.rank ws) ++
    ((List.range 32).filter fun i => (w.lane i).live).flatMap fun i =>
      let l := w.lane i
      s.threadBytes w l (s.coreGt w.core) (w.stateOf l) (w.kept l) (w.kept l)

/-! ### Block sections (Table 5, R404) -/

/-- The masks that stopped warps give a block: ACCM and PRSM, 0xFFFF each for a hard save or when none stopped. -/
def State.masks (s : State) (hard : Bool) (b : Block) : BitVec 16 × BitVec 16 :=
  let stops := (s.warps.filter fun w => w.ofCluster b.ctx b.cluster && w.lanes.any fun l => l.live && l.bid == b.bid).filterMap
    fun w => w.stopped
  if hard || stops.isEmpty then (0xFFFF, 0xFFFF)
  else (stops.foldl (fun m k => m ||| k.1) 0, stops.foldl (fun m k => m ||| k.2.1) 0)

/-- With the tiles and bindings that queued and stopped entries name. -/
def State.savedMasks (s : State) (hard : Bool) (b : Block) : BitVec 16 × BitVec 16 :=
  (s.g5.filter fun (e : G5Entry) => e.ctx == b.ctx && e.cluster == b.cluster && e.bid == b.bid).foldl
    (fun (m : BitVec 16 × BitVec 16) (e : G5Entry) =>
      (if g5Tile e.opk then m.1 ||| (1#16 <<< e.ops.acc.toNat) else m.1,
       if g5Bind e.opk then m.2 ||| (1#16 <<< e.ops.prs.toNat) else m.2)) (s.masks hard b)

/-- A tile's state word (Table 2 of 12_matrix_engine): SUSP is set for an `mma` stopped at a k-step boundary. -/
def Tile.word (t : Tile) : Nat :=
  (if t.s32 then 2 ^ 31 else 0) + (if t.susp || t.prog != 0 then 2 ^ 30 else 0) + t.prog % 2 ^ 13 * 2 ^ 17

/-- The contents of a tile. -/
def Tile.bytes (t : Tile) : List Byte := t.rows.flatMap fun r => r.flatMap fun v => le 4 v.toNat

/-- The contents of a binding: each slice's data bytes and scale bytes. -/
def Block.bindBytes (b : Block) (region n : Nat) : List Byte :=
  let d := b.bind n
  if !bindBound d then []
  else (List.range 128).flatMap fun j =>
    b.press.getN (j * region + bindBase d) (dataBytes (bindType d) (bindK d)) ++
      (if bindType d == .dt8 then b.press.getN (j * region + bindScale d) (bindK d / 32) else [])

/-- The saved indices of a mask, among `n`. -/
def maskBits (m : BitVec 16) (n : Nat) : List Nat := (List.range (min n 16)).filter fun i => m.getLsbD i

/-- The expected count as two bytes. -/
def Expect.code : Expect → Nat
  | .unset => 0
  | .all => 0xFFFF
  | .count c => c

/-- A block section. -/
def State.blockBytes (s : State) (hard : Bool) (l : Launch) (b : Block) : List Byte :=
  let m := s.savedMasks hard b
  let head := padTo 0x200
    (le 4 b.bid ++ le 4 b.size ++ le 2 m.1.toNat ++ le 2 m.2.toNat ++ le 4 b.tstat.toNat ++
      ((List.range 16).flatMap fun i => le 4 (if i < b.tiles.length then (b.tile i).word else 0)) ++
      ((List.range 16).flatMap fun i => le 8 (b.bind i).toNat) ++
      ((List.range 16).flatMap fun i => le 4 (b.bar i).ph.toNat) ++ ((List.range 16).flatMap fun i => le 2 (b.bar i).cnt) ++
      ((List.range 16).flatMap fun i => le 2 (b.bar i).ec.code) ++
      ((List.range 8).flatMap fun r => le 2 (b.rings.getD r 0).toNat))
  let data := head ++ ((maskBits m.1 b.tiles.length).flatMap fun i => (b.tile i).bytes) ++
    (maskBits m.2 b.binds.length).flatMap fun i => b.bindBytes l.region i
  data ++ zeros (gapTo 256 data.length) ++ b.sram.getN 0 b.size

/-- The block of a `%bid`; a block that has retired is saved empty, all its threads gone. -/
def State.blockOr (s : State) (l : Launch) (c : Cluster) (bid : Nat) : Block :=
  (s.block? c.ctx c.idx bid).getD (newBlock l c bid)

/-! ### Engine entries (Table 4, R467) -/

/-- A saved operation, of either engine. -/
inductive SavedOp where
  | copy (c : CopyOp)
  | mx (e : G5Entry)
  deriving DecidableEq, Repr

/-- Its number, and the warp that issued it. -/
def SavedOp.id : SavedOp → Nat
  | .copy c => c.id
  | .mx e => e.id
def SavedOp.warp : SavedOp → Nat × Nat × Nat
  | .copy c => (c.core, c.slot, c.form)
  | .mx e => (e.wcore, e.slot, e.form)

/-- Class: 0 CP, 1 MX, 2 ST, 3 none. -/
def SavedOp.cls : SavedOp → Nat
  | .copy _ => 0
  | .mx e => match g5Class e.opk with
    | .cp => 0
    | .mx => 1
    | .st => 2
    | _ => 3

/-- The operations of a cluster: engine-queue entries in queue order, then those of the copy engines. A `pfill` under way is
its entry. -/
def State.savedOps (s : State) (c : Cluster) : List SavedOp :=
  ((s.g5.filter fun (e : G5Entry) => e.ctx == c.ctx && e.cluster == c.idx).map SavedOp.mx) ++
  ((s.copyOps.filter fun (k : CopyOp) => k.ctx == c.ctx && k.cluster == c.idx && k.opk != 5).map SavedOp.copy)

/-- Issue order within its class in its warp. -/
def SavedOp.rank (o : SavedOp) (os : List SavedOp) : Nat :=
  (os.filter fun p => p.warp == o.warp && p.cls == o.cls && decide (p.id < o.id)).length

/-- Chunks of a `pfill`. -/
def State.fillChunks (s : State) (c : CopyOp) : Nat :=
  match s.block? c.ctx c.cluster c.bid with
  | some b => ((c.fillShape b).1 * (c.fillShape b).2 + 4095) / 4096
  | none => 0

/-- Progress of an operation that has ended and waits to retire: all of its units, or of one that failed none (assumption 16). -/
def State.endedAt (s : State) (c : CopyOp) (code : Nat) : Nat :=
  if code != 0 then 0
  else if c.opk == 5 then s.fillChunks c
  else if c.opk == 0 then (c.shape.1 * c.shape.2.1 + 4095) / 4096
  else if c.opk == 1 || c.opk == 2 then (c.o2.toNat + 31) / 32
  else if c.opk == 8 then c.o2.toNat / 4096 + 2
  else c.prog

/-- Chunks, vectors, pages, lines or k-steps done. -/
def State.progressOf (s : State) : SavedOp → Nat
  | .copy c =>
    match c.st with
    | .finished code _ => s.endedAt c code
    | _ =>
      if c.opk == 6 then
        c.prog * (c.slices.getD 0 0 / 128) + (match s.moving.find? fun m => m.op == c.id with
          | some m => m.moved
          | none => 0)
      else c.prog
  | .mx e =>
    if e.opk == 8 then (match s.copyOps.find? fun (c : CopyOp) => c.id == e.id with
      | some c => (match c.st with
        | .finished code _ => s.endedAt c code
        | _ => c.prog)
      | none => e.prog)
    else if e.opk == 0 && e.st != .queued then (match s.g5Block e with
      | some b => (b.tile e.ops.acc.toNat).prog
      | none => 0)
    else 0

/-- O0, O1, O2 and O3 (Table 9); `data` is the image offset of the data block of a `tmov.put`. -/
def SavedOp.operands (o : SavedOp) (data : Nat) : List Byte :=
  match o with
  | .copy c =>
    let q := fun (k : Nat) => le 4 (c.q.getD k 0).toNat
    padTo 32 (match c.opk with
      | 0 => le 8 c.o0.toNat ++ le 8 c.o1.toNat ++ le 4 c.o2.toNat ++ (if c.mod.getLsbD 0 then q 0 ++ q 1 ++ q 2 else [])
      | 1 => le 8 c.o0.toNat ++ le 8 c.o1.toNat ++ le 4 c.o2.toNat ++ q 0 ++ q 1
      | 2 => le 8 c.o0.toNat ++ le 8 c.o1.toNat ++ le 4 c.o2.toNat ++ q 0 ++ q 1
      | 3 => le 8 0 ++ le 8 c.o1.toNat ++ le 4 c.o2.toNat
      | 4 => le 8 0 ++ le 8 c.o1.toNat ++ le 4 c.o2.toNat
      | 6 => le 8 0 ++ le 8 c.o1.toNat ++ le 4 c.o2.toNat ++ q 0
      | 7 => le 8 0 ++ le 8 c.aux0
      | _ => le 8 c.o0.toNat ++ le 8 c.o1.toNat ++ le 4 c.o2.toNat)
  | .mx e =>
    let x := e.ops
    let row := fun (acc prs opt tya kst asrc b7 : Nat) =>
      le 4 0 ++ le 1 acc ++ le 1 prs ++ le 1 opt ++ le 1 tya ++ le 2 kst ++ le 1 asrc ++ le 1 b7
    let skp := if x.skp == .z then 2 ^ 64 - 1 else e.r.toNat
    let acc := x.acc.toNat
    let prs := x.prs.toNat
    let opt := x.opt.toNat
    let tya := x.tya.code.toNat
    let kst := x.kst.toNat
    let asrc := x.asrc.toNat
    padTo 32 (match e.opk with
      | 0 => le 8 e.a.toNat ++ le 8 skp ++ row acc prs opt tya kst asrc e.nbv
      | 1 => le 8 (if x.mod.getLsbD 0 then 0 else e.a.toNat) ++ le 8 0 ++ row acc 0 opt 0 0 0 0
      | 2 => le 8 e.a.toNat ++ le 8 e.r.toNat ++ row acc 0 0 tya 0 asrc 0
      | 3 => le 8 e.a.toNat ++ le 8 e.r.toNat ++ row acc 0 0 tya 0 asrc 0
      | 4 => le 8 (if x.mod.getLsbD 0 then data else 0) ++ le 8 skp ++ row acc 0 0 0 0 0 0 ++
          (match x.aop with
           | .v n => le 1 n.toNat
           | _ => [0])
      | 5 => le 8 e.a.toNat ++ le 8 e.r.toNat ++ row 0 0 opt tya kst asrc 0
      | 6 => le 8 e.a.toNat ++ le 8 e.r.toNat ++ row 0 prs 0 tya 0 0 0
      | 7 => le 8 0 ++ le 8 0 ++ row acc 0 0 0 0 0 0
      | _ => le 8 e.a.toNat ++ le 8 e.r.toNat ++ row 0 prs 0 0 0 asrc 0)

/-- OPK, block, PC, MOD and TY of an operation. -/
def SavedOp.opk : SavedOp → Nat
  | .copy c => c.opk
  | .mx e => if e.opk == 8 then 5 else e.opk
def SavedOp.bid : SavedOp → Nat
  | .copy c => min c.bid 0xFFFF
  | .mx e => e.bid
def SavedOp.pc : SavedOp → Nat
  | .copy c => c.pc.toNat
  | .mx e => e.pc.toNat
def SavedOp.modTy : SavedOp → Nat × Nat
  | .copy c => (c.mod.toNat, c.ty.code.toNat)
  | .mx e => (e.ops.mod.toNat, 0)

/-- The words of its data block: those of a `tmov.put` saved unstarted. -/
def SavedOp.put : SavedOp → List Word
  | .mx e => if e.opk == 4 && e.ops.mod.getLsbD 0 && e.st == .queued then e.vals else []
  | .copy _ => []

/-- Position of the warp of an operation among the warp sections; 0xFFFF when its slot has been released. -/
def SavedOp.widx (o : SavedOp) (ws : List Warp) : Nat :=
  match (List.range ws.length).find? fun i => (ws.getD i default').core == o.warp.1 && (ws.getD i default').slot == o.warp.2.1 &&
      (ws.getD i default').form == o.warp.2.2 with
  | some i => i
  | none => 0xFFFF
where
  /-- A warp that no position holds. -/
  default' : Warp :=
    { core := 0, slot := 0, ctx := 0, cluster := 0, kind := .block, wid := 0, stage := 0, form := 0, nreg := 0, lanes := [], k := [],
      cb := [], fstat := 0, cpstat := 0, cur := none, since := [], turnStart := 0, ops := [], hold := [], holds := [],
      ages := [], chk := [], stopped := none, brk := false, brkAt := 0, stallMask := 0, fresh := true }

/-- One 64-byte entry. -/
def State.opBytes (s : State) (ws : List Warp) (os : List SavedOp) (o : SavedOp) (data : Nat) : List Byte :=
  padTo 64
    (le 8 o.pc ++ le 2 o.bid ++ le 2 (o.widx ws) ++ le 1 o.cls ++ le 1 o.opk ++ le 2 (o.rank os) ++ o.operands data ++
      le 8 (s.progressOf o) ++ le 4 o.modTy.1 ++ le 1 o.modTy.2)

/-- The entries, then the data blocks of 512 bytes in entry order, from an image offset. -/
def State.engBytes (s : State) (ws : List Warp) (os : List SavedOp) (engOff : Nat) : List Byte :=
  let base := engOff + 64 * os.length
  let es := os.foldl (fun (a : List Byte × Nat) o =>
    (a.1 ++ s.opBytes ws os o a.2, if o.put.isEmpty then a.2 else a.2 + 512)) ([], base)
  es.1 ++ os.flatMap fun o => if o.put.isEmpty then [] else padTo 512 (o.put.flatMap fun w => le 4 w.toNat)

/-! ### Messages, log entries, pins, the domain -/

/-- A pending message: its destination, handler and payload. -/
def Msg.bytes (m : Msg) (l : Launch) : List Byte :=
  padTo 48
    (padTo 16 (le 1 (m.dst % l.cw) ++ le 1 (m.dst / l.cw) ++ le 1 m.h ++ le 1 m.payload.length ++ le 4 m.msrc.toNat ++
      le 1 (if m.dev then 1 else 0)) ++ m.payload.flatMap fun w => le 4 w.toNat)

/-- A mend-log entry; BID of a handler thread is 0xFFFF, the low half of its `%bid` (R248, R378). -/
def Mend.bytes (m : Mend) (c : Cluster) : List Byte :=
  padTo 64
    (le 8 m.va ++ padTo 16 m.data ++ le 1 m.data.length ++ le 1 m.aop ++ le 1 m.ty.code.toNat ++ le 1 m.lc.toNat ++
      le 2 m.bid ++ le 2 m.tid ++ c.colRow m.core)

/-- A pin entry. -/
def Pin.bytes (p : Pin) (c : Cluster) : List Byte := le 8 p.va ++ le 2 p.count ++ c.colRow p.core ++ zeros 4

/-- The sorter writes the records that it holds in basket SRAM to the units named, in ascending ARR, each thread's together in the
first free range (R346, R362); none where one finds no room. -/
def Domain.stowIn (units : List Nat) : Domain → List Basketed → Option Domain
  | d, [] => some d
  | d, b :: bs =>
    if b.place != .sram then Domain.stowIn units d bs
    else
      match units.findSome? fun u => (d.range? u b.records).map fun r => RecPlace.spill u r with
      | none => none
      | some p => Domain.stowIn units { d with threads := d.threads.map fun t => if t == b then { b with place := p } else t } bs

/-- How many threads of four, three, two and one records, of as many as there are, fill a unit of 64 records best: the least room left
over, then the most threads of three. -/
def unitFill (n4 n3 n2 n1 : Nat) : Nat × Nat × Nat × Nat :=
  let fill := fun (a3 : Nat) =>
    let a4 := min n4 ((64 - 3 * a3) / 4)
    let a2 := min n2 ((64 - 3 * a3 - 4 * a4) / 2)
    (a4, a3, a2, min n1 (64 - 3 * a3 - 4 * a4 - 2 * a2))
  let left := fun (f : Nat × Nat × Nat × Nat) => 64 - 4 * f.1 - 3 * f.2.1 - 2 * f.2.2.1 - f.2.2.2
  ((List.range (min n3 21)).reverse.map fill).foldl (fun b f => if left f < left b then f else b) (fill (min n3 21))

/-- Threads laid into empty units, one unit after another, each filled as `unitFill` says; none where some are left over. -/
def packUnits : List Nat → List Basketed → Option (List Basketed)
  | _, [] => some []
  | [], _ => none
  | u :: us, bs =>
    let size := fun (k : Nat) => bs.filter fun b => b.records == k
    let f := unitFill (size 4).length (size 3).length (size 2).length (size 1).length
    let now := (size 4).take f.1 ++ (size 3).take f.2.1 ++ (size 2).take f.2.2.1 ++ (size 1).take f.2.2.2
    let laid := (now.foldl (fun (a : List Basketed × Nat) b => (a.1 ++ [{ b with place := .spill u a.2 }], a.2 + b.records)) ([], 0)).1
    (packUnits us (bs.filter fun b => !now.contains b)).map fun r => laid ++ r

/-- The threads in basket SRAM packed into the reserve units, where those are empty. -/
def Domain.packed (d : Domain) : Option Domain :=
  if d.reserve.any fun u => d.unitsUsed.contains u then none
  else
    (packUnits d.reserve (d.threads.filter fun b => b.place == .sram)).map fun laid =>
      { d with threads := d.threads.map fun t => (laid.find? fun b => b.arr == t.arr).getD t }

/-- The domain as a save leaves it: its records go into its reserve units, each thread in the first free range, or packed where that
finds no room for all; where neither does, into its other units and units that nothing holds (assumption 15). -/
def Domain.stowed (d : Domain) (free : List Nat) : Option Domain :=
  ((Domain.stowIn d.reserve d d.threads).or d.packed).or
    (Domain.stowIn ((d.reserve ++ d.unitsUsed).dedup ++ free) d d.threads)

/-- The domain section: next arrival number, records in reserve units, units in use, and the bitmap of units. -/
def Domain.bytes (d : Domain) (l : Launch) : List Byte :=
  let inReserve := (d.threads.filter fun b => match b.place with
    | .spill u _ => d.reserve.contains u
    | .sram => false).map Basketed.records
  let units := (d.reserve ++ d.unitsUsed).dedup
  padTo 16 (le 4 d.nextArr.toNat ++ le 4 (inReserve.foldl (· + ·) 0) ++ le 4 units.length) ++
    (List.range ((l.spillu + 7) / 8)).map fun i =>
      BitVec.ofNat 8 (((List.range 8).filter fun j => units.contains (8 * i + j)).foldl (fun y j => y + 2 ^ j) 0)

/-- The domain of a reorder-enabled cluster that has retired: it holds nothing. -/
def noDomain (l : Launch) : Domain :=
  { quota := l.quota, units := l.spillu, spill := l.spill, reserve := [], nextArr := 0, threads := [], marks := [], progress := 0 }

/-! ### Cluster sections (Table 4) and the image (Table 3) -/

/-- The pinned frames: f frames per core, cores in row-major order. -/
def Cluster.frameBytes (c : Cluster) (l : Launch) : List Byte :=
  (List.range (l.cw * l.ch)).flatMap fun i => (List.range l.pinf).flatMap fun f => c.pinned.getN ((i * 6 + f) * 65536) 65536

/-- A cluster section, from an image offset. -/
def State.clusterBytes (s : State) (hard : Bool) (l : Launch) (c : Cluster) (off : Nat) : List Byte :=
  let ws := s.savedWarps c
  let os := s.savedOps c
  let ms := s.msgs.filter fun m => m.ctx == c.ctx && m.cluster == c.idx
  let ds := s.mends.filter fun (m : Mend) => m.ctx == c.ctx && m.cluster == c.idx
  let ps := s.pins.filter fun (p : Pin) => p.ctx == c.ctx && p.cluster == c.idx
  let start := off + 0x100 + 8 * l.nbid
  let engOff := start + gapTo 64 start
  let r := layOut start
    ([(64, if os.isEmpty then [] else s.engBytes ws os engOff), (64, ms.flatMap fun m => m.bytes l),
      (64, ds.flatMap fun m => m.bytes c), (64, ps.flatMap fun p => p.bytes c),
      (64, if l.reorder then (c.domain.getD (noDomain l)).bytes l else []),
      (64, ws.flatMap (s.warpBytes c ws)), (64, c.frameBytes l)] ++
      (List.range l.nbid).map fun b => (4096, s.blockBytes hard l (s.blockOr l c b)))
  let o := fun (k : Nat) => le 8 (r.1.getD k 0)
  padTo 0x100
    (le 4 c.idx ++ le 4 l.nbid ++ le 4 c.cbar.ph.toNat ++ le 4 c.cbar.cnt ++ le 4 ws.length ++ le 4 ms.length ++
      le 4 ds.length ++ le 4 os.length ++ le 4 ps.length ++ le 4 0 ++ o 4 ++ o 6 ++ o 5 ++ o 1 ++ o 2 ++ o 0 ++ o 3) ++
    ((r.1.drop 7).flatMap fun b => le 8 b) ++ r.2

/-- The sections of the clusters from an offset, each aligned to 4 KiB: index and offset of each, and the bytes. -/
def State.sections (s : State) (hard : Bool) (l : Launch) : Nat → List Cluster → List (Nat × Nat) × List Byte
  | _, [] => ([], [])
  | off, c :: cs =>
    let g := gapTo 4096 off
    let bs := s.clusterBytes hard l c (off + g)
    let r := s.sections hard l (off + g + bs.length) cs
    ((c.idx, off + g) :: r.1, zeros g ++ bs ++ r.2)

/-- The record as accepted, with the STATUS word it now has. -/
def Launch.savedRecord (l : Launch) : List Byte := overlayAt l.rec_ 0x44 (le 4 (1 + 256 * l.ctx + 65536 * l.gen))

/-- The done bitmap: clusters that have retired or are placed (or were discarded). -/
def Launch.doneBits (l : Launch) : List Byte :=
  (List.range ((l.gx * l.gy + 7) / 8)).map fun i =>
    BitVec.ofNat 8 (((List.range 8).filter fun j => l.placed.contains (8 * i + j)).foldl (fun y j => y + 2 ^ j) 0)

/-- The whole image of a context. -/
def State.image (s : State) (hard : Bool) (l : Launch) : List Byte :=
  let cs := s.clusters.filter fun c => c.ctx == l.ctx
  let doneOff := 0x1000 + 16 * cs.length
  let bits := l.doneBits
  let r := s.sections hard l (doneOff + bits.length) cs
  let head := padTo 0x100
    (le 4 3 ++ le 4 (if hard then 1 else 0) ++ le 8 (doneOff + bits.length + r.2.length) ++ le 8 (s.gtOf 384) ++
      le 4 cs.length ++ le 4 0 ++ le 8 (if cs.isEmpty then 0 else 0x1000) ++ le 8 doneOff)
  padTo 0x1000
    (head ++ l.savedRecord ++ (padTo 512 (l.htab.flatMap fun h => le 8 h)) ++
      padTo 128 (l.wtab.flatMap fun w => le 8 w.1 ++ le 8 w.2)) ++
    (r.1.flatMap fun e => le 4 e.1 ++ le 4 0 ++ le 8 e.2) ++ bits ++ r.2

end Sys2Proof.Machine
end

