-- ==== Sys2Proof/Machine/Preempt.lean ====
section
/-! DEFINITION. Pre-emption and restore (R398 to R409): requests, stop units and the collector, the save, reading an image
back, and the placing of new and saved clusters (R391, R392). -/

namespace Sys2Proof.Machine

open Sys2Proof

/-! ### Requests (R398, R399) -/

/-- Table-space offset and bytes of the image area. -/
def State.imageBase (s : State) : Nat := fieldAt s.sys.pimg 39 12
def State.imageRoom (s : State) : Nat := 4096 * s.sys.pisz.toNat

/-- Is the area of PIMG and PISZ in usable table space (R465)? -/
def State.imageArea (s : State) : Bool := s.tsCovers s.imageBase s.imageRoom

/-- PRQ as a request starts: BUSY and its fields, DONE and ERR clear; HARD goes on telling how the last save went (Table 1). -/
def State.startRequest (s : State) (w : Nat) (op : Nat) : State :=
  { s with sys := { s.sys with prq := (s.sys.prq &&& 0x00200000) ||| BitVec.ofNat 32 (2 ^ 23 + op * 2 ^ 18 + w % 65536) } }

/-- HARD as PRQ holds it. -/
def State.hardBit (s : State) : Bool := s.sys.prq.getLsbD 21

/-- The save becomes hard: HARD is set. -/
def State.setHard (s : State) : State := { s with sys := { s.sys with prq := s.sys.prq ||| 0x00200000 } }

/-- A save begins that is not hard so far. -/
def State.setSoft (s : State) : State := { s with sys := { s.sys with prq := s.sys.prq &&& ~~~0x00200000#32 } }

/-- Soft and hard requests (R399, R400, R403). -/
def State.requestSave (s : State) (w : Nat) (op : Nat) : State :=
  let s := s.startRequest w op
  match s.named w with
  | none => s.endRequest s.hardBit true
  | some l =>
    if l.run == .halted || !s.imageArea then s.endRequest s.hardBit true
    else
      let hard := op == 2 || l.hardPre || s.sys.pdeadline.toNat % 2 ^ 24 == 0
      let p : Preempt := { ctx := l.ctx, gen := l.gen, hard := hard, start := s.gt, saving := hard, acks := [] }
      let s := { s with preempt := some p }
      if hard then s.setHard else s.setSoft

/-- A write of PRQ while a request is in progress: OP = 2 naming the context of a soft request makes it hard. -/
def State.escalate (s : State) (w : Nat) : State :=
  match s.preempt with
  | some p =>
    if p.ctx == w % 64 && p.gen == w / 64 % 1024 && !p.hard then State.setHard { s with preempt := some { p with hard := true, saving := true } } else s
  | none => s

/-! ### Stop units and the collector (R400, Table 2) -/

/-- The engines that a context uses. -/
def State.enginesOf (s : State) (l : Launch) : List Engine :=
  (s.clusters.filter fun c => c.ctx == l.ctx).flatMap fun c =>
    ((c.cores l).flatMap fun k => [.vector k, .matrix k, .copy k, .messages k]) ++
      (if l.reorder then [.sorter (groupOf c.origin)] else [])

/-- Is a warp stopped, or blocked: no lane of it runnable (R403)? -/
def Warp.quietFor (w : Warp) : Bool :=
  w.stopped.isSome || w.brk || w.lanes.all fun l => l.status != .runnable

/-- May a soft save begin? -/
def State.allStopped (s : State) (ctx : Nat) : Bool := s.warps.all fun w => w.ctx != ctx || w.quietFor

/-- After a step: a soft save begins once every warp of the context is stopped or blocked. -/
def State.beginSave (s : State) : State :=
  match s.preempt with
  | some p => if !p.saving && s.allStopped p.ctx then { s with preempt := some { p with saving := true } } else s
  | none => s

/-- Has an engine reached its stop unit? Vector issue: nothing of the core's warps is in flight, and no path has an instruction
half done. Matrix engine: what has been performed has completed, and a running `mma` has performed its first k-step, so that none is
saved with its tile overwritten and PROG 0 (R307). Copy engine: no chunk or vector is half done, what has ended has retired unless an
older operation of its warp is open, no `discard` runs. The sorter stops between emissions. Messages: no instruction that may send is
half done, and packets have arrived. -/
def State.engineStopped (s : State) (ctx : Nat) : Engine → Bool
  | .vector core =>
    !(s.warps.any fun w => w.core == core && w.ctx == ctx && w.begun) && !(s.reqs.any fun r => r.core == core && r.ctx == ctx)
  | .matrix core =>
    (s.queue core).all fun e => e.ctx != ctx || (match e.st with
      | .finished _ _ => false
      | .running => e.opk != 0 || (match s.g5Block e with
        | some b => (b.tile e.ops.acc.toNat).prog != 0
        | none => true)
      | _ => true)
  | .copy core =>
    s.copyOps.all fun (c : CopyOp) => c.core != core || c.ctx != ctx || c.orphan || (match c.st with
      | .finished _ _ => (let k := s.issuerOf c; s.olderOpen k.1 k.2 c.id .cp)
      | .running => c.opk != 7 && c.part == 0
      | _ => c.part == 0)
  | .sorter _ => true
  | .messages core =>
    !(s.warps.any fun w => w.core == core && w.ctx == ctx && w.begun) && !(s.packets.any fun (p : Packet) => p.core == core && p.ctx == ctx) &&
      !(s.msgs.any fun (m : Msg) => m.core == core && m.ctx == ctx && !m.arrived)

/-- ENGINE_STOP_ACK (R400): an engine that has been told to stop acknowledges at its stop unit. -/
def execEngineStopAck (engine : Engine) (s : State) : Result :=
  .next (match s.preempt with
    | none => s
    | some p =>
      match s.launch? p.ctx with
      | none => s
      | some l =>
        if p.saving && (s.enginesOf l).contains engine && !p.acks.contains engine && s.engineStopped p.ctx engine then
          { s with preempt := some { p with acks := p.acks ++ [engine] } }
        else s)

/-- PDEADLINE_EXPIRY (R403): a soft save that has not begun T microseconds after its request becomes hard. -/
def execPdeadlineExpiry (s : State) : Result :=
  .next (match s.preempt with
    | none => s
    | some p =>
      if !p.saving && decide (p.start + 1000 * (s.sys.pdeadline.toNat % 2 ^ 24) ≤ s.gt) then
        State.setHard { s with preempt := some { p with hard := true, saving := true } }
      else s)

/-! ### The save (R362, R404, R406) -/

/-- A gather or scatter not past its first vector goes back to before its probe pass: its pins are released (assumption
16). -/
def State.unprobe (s : State) (c : CopyOp) : State :=
  if (c.opk == 1 || c.opk == 2) && c.probed && c.prog == 0 && !c.ended then
    s.lowerPins c.core c.ctx fun q => c.slices.contains q.va
  else s

/-- The sorter writes the records that it holds in basket SRAM to the spill area, in ascending ARR, spilled records staying where
they lie (R362): units that none of the domain's threads lay in are cleared first, so that their free records hold no header
(assumption 14). A domain that finds no room stays as it is (assumption 15). -/
def State.stowDomain (l : Launch) (s : State) (c : Cluster) : State :=
  match c.domain.bind fun d => (d.stowed (s.freeUnits l)).map fun e => (d, e) with
  | none => s
  | some (d, e) =>
    let fresh := (e.reserve ++ e.unitsUsed).dedup.filter fun u => !d.unitsUsed.contains u
    let s := fresh.foldl (fun s u => s.tsPut (d.spill + 4096 * u) (zeros 4096)) s
    let s := (e.threads.zip d.threads).foldl (fun s p => if p.2.place == .sram then s.spillOut d.spill e.unitsUsed p.1 else s) s
    s.modDomain c.ctx c.idx fun _ => e

/-- The operations and domains of a context made ready for its image. -/
def State.settleSave (s : State) (l : Launch) : State :=
  let s := (s.copyOps.filter fun (c : CopyOp) => c.ctx == l.ctx && !c.orphan).foldl State.unprobe s
  (s.clusters.filter fun c => c.ctx == l.ctx).foldl (State.stowDomain l) s

/-- Does every record of the context's domains lie in the spill area? -/
def State.allStowed (s : State) (ctx : Nat) : Bool :=
  s.clusters.all fun c => c.ctx != ctx || (match c.domain with
    | some d => d.threads.all fun b => b.place != .sram
    | none => true)

/-- Where the image of a cluster has a thread, if it has it. -/
def State.seatOf (s : State) (c : Cluster) (uid : Nat) : Option Seat :=
  let ws := s.savedWarps c
  match (List.range ws.length).findSome? fun k => ((List.range 32).find? fun i =>
      let l := (ws.getD k SavedOp.widx.default').lane i
      l.live && l.uid == uid).map fun i => Seat.lane k i with
  | some p => some p
  | none => c.domain.bind fun d => (d.threads.find? fun b => b.lane.uid == uid).bind fun b => match b.place with
    | .spill u r => some (.record u r)
    | .sram => none

/-- What the part keeps of a saved cluster beside the image: of its operations and log entries, each with the 64 bytes that the image,
whose section lies at `sec`, has of it, and of its threads and frames. -/
def State.keep (s : State) (base sec : Nat) (p : Preempt) (c : Cluster) : List Shelved :=
  let put := fun (bs : List Byte) (k : Kept) => ({ ctx := p.ctx, gen := p.gen, cluster := c.idx, entry := bs, kept := k } : Shelved)
  let one := fun (o i : Nat) (k : Kept) => put (s.tsRead (base + bytesToNat (s.tsRead (base + sec + o) 8) + 64 * i) 64) k
  ((s.savedOps c).mapIdx fun i o => one 0x50 i (match o with
    | .copy c => .copy c
    | .mx e => .mx e)) ++
  ((s.mends.filter fun (m : Mend) => m.ctx == c.ctx && m.cluster == c.idx).mapIdx fun i m => one 0x48 i (.mend m (s.seatOf c m.uid))) ++
  ((s.outside.unacked.filterMap fun u => if s.gt < u.2 then (s.seatOf c u.1).map fun k => put [] (.ack k u.2) else none) ++
  (match c.domain with
   | some d => d.threads.filterMap fun b => (c.cbar.pend.find? fun q => q.1 == b.lane.bid && q.2.1 == b.lane.tid).map fun q =>
      put [] (.pend q.1 q.2.1 (q.2.2 == c.cbar.ph))
   | none => []) ++
  s.lineSlots.filterMap fun e => match e.1 with
    | .frame x k n => if x == c.ctx && k == c.idx then some (put [] (.line n e.2)) else none
    | _ => none)

/-- A page under move that belongs to no context of the part, its `rstrp` being in an image: the number of no context. -/
def noContext : Nat := 64

/-- The context leaves the part: what its image has no place for is kept, its moves stay where they stand, its clusters and its
entry go, the request is done. -/
def State.leave (s : State) (p : Preempt) : State :=
  let base := s.imageBase
  let cs := s.clusters.filter fun c => c.ctx == p.ctx
  let kept := (cs.mapIdx fun k c => s.keep base (bytesToNat (s.tsRead (base + 0x1000 + 16 * k + 8) 8)) p c).flatten
  let saved := fun (c : CopyOp) => c.ctx == p.ctx && cs.any fun k => k.idx == c.cluster
  let moves := fun (m : Moving) => s.copyOps.any fun (c : CopyOp) => c.id == m.op && saved c
  let s := { s with
    shelf := s.shelf ++ kept,
    moving := s.moving.map fun (m : Moving) => if moves m then { m with ctx := noContext } else m,
    copyOps := s.copyOps.filter fun (c : CopyOp) => !saved c }
  (((s.dropAll p.ctx).endRequest p.hard false)).freeContext p.ctx

/-- Write the image and free the context; one that does not fit ends the context as killed with ERR, the bytes of the area
undefined. -/
def State.save (s : State) (p : Preempt) (l : Launch) : State :=
  let s := s.settleSave l
  let img := s.image p.hard l
  if s.imageArea && decide (img.length ≤ s.imageRoom) && s.allStowed l.ctx then (s.tsWrite s.imageBase img).leave p
  else
    let s := s.tsPut s.imageBase ((List.range s.imageRoom).map fun i => Config.freeByte (s.nextId + i))
    State.killContext { s with nextId := s.nextId + s.imageRoom } l.ctx

/-- CONTEXT_SAVE (R400, R406): once every engine of the context has acknowledged. -/
def execContextSave (s : State) : Result :=
  .next (match s.preempt with
    | none => s
    | some p =>
      match s.launch? p.ctx with
      | none => s
      | some l => if p.saving && (s.enginesOf l).all fun e => p.acks.contains e then s.save p l else s)

/-! ### Reading an image (R406, R408) -/

/-- A field of an image: `n` bytes at an image offset. -/
def State.img (s : State) (base o n : Nat) : Nat := bytesToNat (s.tsRead (base + o) n)

/-- The record, tables and directory of an image. -/
def State.imgLaunch (s : State) (base : Nat) : Launch :=
  { recordOf (s.tsRead (base + 0x100) 256) with
    htab := handlersOf (s.tsRead (base + 0x200) 512), wtab := windowsOf (s.tsRead (base + 0x400) 128),
    statusAt := some (base + 0x144) }
def State.imgDirectory (s : State) (base : Nat) : List (Nat × Nat) :=
  (List.range (s.img base 0x18 4)).map fun k =>
    (s.img base (s.img base 0x20 8 + 16 * k + 8) 8, s.img base (s.img base 0x20 8 + 16 * k) 4)

/-- Cluster indices marked in the done bitmap. -/
def State.imgDone (s : State) (base n : Nat) : List Nat :=
  (List.range n).filter fun i => (s.img base (s.img base 0x28 8 + i / 8) 1).testBit (i % 8)

/-- Does a counted part lie within the image? -/
def partOk (off n size : Nat) : Bool := n == 0 || (off != 0 && decide (off + n ≤ size))

/-- Is a relative position a core of the cluster? -/
def Launch.hasCore (l : Launch) (col row : Nat) : Bool := decide (col < l.cw) && decide (row < l.ch)

/-- Does an engine entry hold a class that its OPK has, a warp and a block that the section has (Table 4)? -/
def engineEntryOk (l : Launch) (nwarp : Nat) (f : Nat → Nat → Nat) : Bool :=
  let cls := f 0x0C 1
  let opk := f 0x0D 1
  let widx := f 0x0A 2
  let bid := f 0x08 2
  (if cls == 0 then decide (opk ≤ 8) else decide (opk ≤ 7) && g5Class opk == classOf cls) &&
    (decide (widx < nwarp) || (widx == 0xFFFF && cls == 3)) && (decide (bid < l.nbid) || (bid == 0xFFFF && cls == 0 && opk != 5))
where
  /-- The class that a class byte names. -/
  classOf (n : Nat) : OpClass := if n == 0 then .cp else if n == 1 then .mx else if n == 2 then .st else .none

/-- Does a thread record hold a STATE and a WAITON of Table 7 (or what the model puts there for a halted lane, assumption 64)? -/
def threadOk (l : Launch) (handler : Bool) (f : Nat → Nat → Nat) : Bool :=
  let st := f 0x2E 1
  let on := f 0x2F 1
  decide (st ≤ 3) && (st != 2 || decide (on ≤ 16) || (decide (32 ≤ on) && decide (on < 48))) && decide (f 0 8 < 2 ^ 57) &&
    decide (f 0x35 1 % 8 ≤ 4) && decide (f 0x35 1 / 8 ≤ 4) && (handler || decide (f 0x36 2 < l.nbid))

/-- Bytes of a thread record for `nreg` registers. -/
def threadSize (nreg : Nat) : Nat := 192 + 4 * nreg + gapTo 64 (192 + 4 * nreg)

/-- A warp section as read: its offset, the fields that place it, and the bytes of its header. -/
structure WarpSec where
  off : Nat
  rank : Nat
  live : Mask
  head : List Byte
  deriving DecidableEq, Repr

/-- The warp sections, one after another. -/
def State.warpSecs (s : State) (base nreg : Nat) : Nat → Nat → List WarpSec
  | 0, _ => []
  | n + 1, off =>
    let head := s.tsRead (base + off) 0x200
    let live := BitVec.ofNat 32 (fieldOf head 0x0C 4)
    { off := off, rank := fieldOf head 0x06 2, live := live, head := head } ::
      s.warpSecs base nreg n (off + 0x200 + (lanesOf live).length * threadSize nreg)

/-- Does a warp section obey Tables 6 and 7, its records within the image? -/
def State.warpSecOk (s : State) (base size : Nat) (l : Launch) (k : WarpSec) : Bool :=
  let f := fieldOf k.head
  let is := lanesOf k.live
  decide (k.off + 0x200 + is.length * threadSize l.nreg ≤ size) && decide (f 0x04 1 ≤ 3) && decide (f 0x05 1 ≤ 2) &&
    l.hasCore (f 0x08 1) (f 0x09 1) && decide (f 0x0A 1 ≤ 3) &&
    (List.range is.length).all fun i => threadOk l (f 0x05 1 == 2) (fun o n => s.img base (k.off + 0x200 + i * threadSize l.nreg + o) n)

/-- Bytes of a slice that an image holds of a saved binding. -/
def bindSaved (d : DWord) : Nat :=
  if bindBound d then dataBytes (bindType d) (bindK d) + (if bindType d == .dt8 then bindK d / 32 else 0) else 0

/-- Does a block section obey Table 5, the saved tiles and bindings among the block's and its data within the image? -/
def State.blockSecOk (s : State) (base size : Nat) (l : Launch) (b off : Nat) : Bool :=
  let f := fun (o n : Nat) => s.img base (off + o) n
  let binds := (maskBits (BitVec.ofNat 16 (f 0x0A 2)) l.nprs).map fun i => 128 * bindSaved (BitVec.ofNat 64 (f (0x50 + 8 * i) 8))
  let data := 0x200 + 32768 * (maskBits (BitVec.ofNat 16 (f 0x08 2)) l.nacc).length + binds.foldl (· + ·) 0
  off % 4096 == 0 && decide (off + data + gapTo 256 data + l.bsize ≤ size) && f 0 4 == b && f 4 4 == l.bsize

/-- Does a cluster section obey Tables 4 to 7? -/
def State.sectionOk (s : State) (base size : Nat) (l : Launch) (e : Nat × Nat) : Bool :=
  let f := fun (o n : Nat) => s.img base (e.1 + o) n
  let each := fun (o n k : Nat) (p : (Nat → Nat → Nat) → Bool) =>
    (List.range k).all fun i => p (fun a b => s.img base (f o 8 + n * i + a) b)
  e.1 % 4096 == 0 && decide (e.1 + 0x100 + 8 * l.nbid ≤ size) && f 0 4 == e.2 && f 4 4 == l.nbid && f 0x24 4 == 0 &&
    decide (e.2 < l.gx * l.gy) && partOk (f 0x38 8) (0x200 * f 0x10 4) size && partOk (f 0x40 8) (48 * f 0x14 4) size &&
    partOk (f 0x48 8) (64 * f 0x18 4) size && partOk (f 0x50 8) (64 * f 0x1C 4) size &&
    partOk (f 0x58 8) (16 * f 0x20 4) size && partOk (f 0x30 8) (l.cw * l.ch * l.pinf * 65536) size &&
    (f 0x28 8 != 0) == l.reorder && partOk (f 0x28 8) (if l.reorder then 16 + (l.spillu + 7) / 8 else 0) size &&
    (s.warpSecs base l.nreg (f 0x10 4) (f 0x38 8)).all (s.warpSecOk base size l) &&
    each 0x40 48 (f 0x14 4) (fun g => l.hasCore (g 0 1) (g 1 1) && decide (g 3 1 ≤ 8)) &&
    each 0x48 64 (f 0x18 4) (fun g => l.hasCore (g 0x20 1) (g 0x21 1) && decide (g 0x18 1 ≤ 16)) &&
    each 0x50 64 (f 0x1C 4) (engineEntryOk l (f 0x10 4)) &&
    each 0x58 16 (f 0x20 4) (fun g => l.hasCore (g 0x0A 1) (g 0x0B 1)) &&
    (List.range l.nbid).all fun b => s.blockSecOk base size l b (f (0x100 + 8 * b) 8)

/-- Does the image obey Tables 3 to 7? A layout is broken by a version, flag or count, an offset or an extent, an index, position or
code that its table does not have, and by a nonzero byte where the header or a cluster's section is reserved at 0x1C, 0x30 to 0xFF
and 0x24; reserved bytes elsewhere are ignored (assumption 65). -/
def State.imageOk (s : State) (base room : Nat) : Bool :=
  let l := s.imgLaunch base
  let size := s.img base 0x08 8
  s.img base 0 4 == 3 && decide (s.img base 4 4 ≤ 1) && decide (size ≤ room) && s.img base 0x1C 4 == 0 &&
    s.img base 0x30 208 == 0 && l.fieldsOk && l.stagesOk && l.reorderOk && l.coreOk && l.dependOk &&
    decide (s.img base 0x18 4 ≤ 192) && partOk (s.img base 0x20 8) (16 * s.img base 0x18 4) size &&
    partOk (s.img base 0x28 8) ((l.gx * l.gy + 7) / 8) size &&
    (s.imgDirectory base).all fun e => s.sectionOk base size l e

/-! ### Reloading a cluster (R407, R408, R409) -/

/-- The wait that a WAITON names. -/
def waitOf (on : Nat) : LaneStatus := .waiting (if on < 16 then .bar on else if on == 16 then .cbar else .join (on % 16))

/-- A thread record as a lane, with STATE. No core's GT stood more than 2 ns above DGT at the save, so that the thread has read none
above that (R259, R260). A halted lane goes on as WAITON says once the host resumes it (assumption 64). -/
def laneFrom (bs : List Byte) (nreg uid now : Nat) : Lane :=
  let f := fieldOf bs
  let loop := f 0x35 1
  let st := f 0x2E 1
  let on := f 0x2F 1
  let status : LaneStatus := if st == 2 then waitOf on else if st == 3 && decide (128 ≤ on) then waitOf (on - 128) else .runnable
  let l : Lane :=
    { status := status, pc := BitVec.ofNat 57 (f 0x00 8), v := (List.range nreg).map fun i => BitVec.ofNat 32 (f (0xC0 + 4 * i) 4),
      p := BitVec.ofNat 8 (f 0x2C 1), frames := framesOf (bs.drop 0x40) (loop % 8), rpc := BitVec.ofNat 57 (f 0x08 8),
      rsnap := framesOf (bs.drop 0x80) (loop / 8 % 8), rcnt := BitVec.ofNat 32 (f 0x20 4), uid := uid, bid := f 0x36 2,
      tid := f 0x2A 2, key := BitVec.ofNat 12 (f 0x28 2), withdrawn := (f 0x34 1).testBit 2,
      msrc := BitVec.ofNat 32 (f 0x38 4 % 2 ^ 29), vis := f 0x10 8, pw := 0, mc := f 0x24 2, dgt := f 0x18 8, seenGt := f 0x18 8 + 2,
      lastIssue := now, atPpoint := false }
  if st == 1 || (st == 3 && on == 64) then l.restart else l

/-- Restore the barrier bits of a thread: PEND, and APH as the phase or the phase before it (R407). -/
def State.restorePend (s : State) (ctx idx bid tid bar cbf : Nat) : State :=
  let put := fun (b : Bar) (same : Bool) => { b with pend := b.pend ++ [(bid, tid, if same then b.ph else b.ph - 1)] }
  let s := s.modBlock ctx idx bid fun bl =>
    { bl with bars := bl.bars.mapIdx fun k b => if bar.testBit k then put b (bar.testBit (16 + k)) else b }
  if cbf.testBit 0 then s.modCluster ctx idx fun c => { c with cbar := put c.cbar (cbf.testBit 1) } else s

/-- Form a restored warp (R408 step 2); it answers the slot it took. -/
def State.reformWarp (s : State) (base : Nat) (l : Launch) (c : Cluster) (k : WarpSec) : State × Option (Nat × Nat) :=
  let f := fieldOf k.head
  let core := c.coreOf (f 0x08 1) (f 0x09 1)
  let kind := if f 0x05 1 == 0 then WarpKind.block else if f 0x05 1 == 1 then .sorter else .handler
  match s.slotFrom core (f 0x0A 1 % 4) with
  | none => (s, none)
  | some slot =>
    let is := lanesOf k.live
    let rec_ := fun (i : Nat) => s.tsRead (base + k.off + 0x200 + (is.idxOf i) * threadSize l.nreg) (threadSize l.nreg)
    let lanes := (List.range 32).map fun i =>
      if is.contains i then laneFrom (rec_ i) l.nreg (s.nextId + i) s.cycle else Lane.dead
    let w := Warp.formed s core slot l.ctx c.idx (f 0 4) (f 0x04 1) kind lanes none
    let w := { w with
      k := (List.range 32).map fun i => BitVec.ofNat 32 (f (0x20 + 4 * i) 4),
      cb := (List.range 16).map fun i => (BitVec.ofNat 32 (f (0xA0 + 8 * i) 4), BitVec.ofNat 32 (f (0xA4 + 8 * i) 4)),
      fstat := BitVec.ofNat 32 (f 0x14 4 % 32), cpstat := BitVec.ofNat 32 (f 0x18 4),
      brk := is.any fun i => fieldOf (rec_ i) 0x2E 1 == 3, brkAt := s.cycle }
    let s := State.addWarp { s with nextId := s.nextId + 32 } w
    let s := if kind == .handler then s else is.foldl (fun s i =>
      let g := fieldOf (rec_ i)
      s.restorePend l.ctx c.idx (g 0x36 2) (g 0x2A 2) (g 0x30 4) (g 0x34 1)) s
    (s, some (core, slot))

/-- A block from its section, reserved bits read as 0 (R4); its threads are counted as exited until its warps and baskets bring them back. -/
def State.blockFrom (s : State) (base : Nat) (l : Launch) (c : Cluster) (bid off : Nat) : Block :=
  let head := s.tsRead (base + off) 0x200
  let f := fieldOf head
  let tm := BitVec.ofNat 16 (f 0x08 2)
  let pm := BitVec.ofNat 16 (f 0x0A 2)
  let tset := maskBits tm l.nacc
  let tiles := (List.range l.nacc).map fun i =>
    let w := f (0x10 + 4 * i) 4
    let at_ := base + off + 0x200 + (tset.idxOf i) * 32768
    if tm.getLsbD i then
      { s32 := w.testBit 31, susp := w.testBit 30, prog := w / 2 ^ 17 % 2 ^ 13,
        rows := (List.range 64).map fun r => (List.range 128).map fun j =>
          BitVec.ofNat 32 (bytesToNat (s.tsRead (at_ + 4 * (128 * r + j)) 4)) }
    else { Tile.zero with s32 := w.testBit 31 }
  let binds := (List.range l.nprs).map fun i => BitVec.ofNat 64 (f (0x50 + 8 * i) 8) &&& 0xFC03FFFF3FFF3FFF#64
  let size := fun (i : Nat) => bindSaved (binds.getD i 0)
  let data0 := off + 0x200 + 32768 * tset.length
  let load := fun (a : Memory × Nat) (i : Nat) =>
    let d := binds.getD i 0
    let n := dataBytes (bindType d) (bindK d)
    ((List.range 128).foldl (fun m j =>
      let o := base + a.2 + j * size i
      let m := Memory.setN m (j * l.region + bindBase d) (s.tsRead o (min n (size i)))
      if bindType d == .dt8 then Memory.setN m (j * l.region + bindScale d) (s.tsRead (o + n) (size i - n)) else m) a.1,
     a.2 + 128 * size i)
  let p := (maskBits pm l.nprs).foldl load ([], data0)
  let used := p.2 - off
  let sramAt := base + p.2 + gapTo 256 used
  { newBlock l c bid with
    tiles := tiles, binds := binds, press := p.1, tstat := BitVec.ofNat 32 (f 0x0C 4) &&& ~~~0x00000720#32,
    sram := Memory.setN [] 0 (s.tsRead sramAt l.bsize),
    bars := (List.range 16).map fun k =>
      { ph := BitVec.ofNat 32 (f (0xD0 + 4 * k) 4), cnt := f (0x110 + 2 * k) 2,
        ec := (let e := f (0x130 + 2 * k) 2; if e == 0 then .unset else if e == 0xFFFF then .all else .count e), pend := [] },
    rings := (List.range 8).map fun r => BitVec.ofNat 16 (f (0x150 + 2 * r) 2) }

/-- The threads whose records lie in a unit, from record `r` on, and the first record whose fields lie outside the ranges of Table 3
(R344); 64 bytes of zeros are a free record (assumption 14). -/
def State.unitThreads (s : State) (spill nreg u now : Nat) : Nat → Nat → List Basketed × Option Nat
  | 0, _ => ([], none)
  | fuel + 1, r =>
    if 64 ≤ r then ([], none)
    else
      let at_ := spill + 4096 * u + 64 * r
      if bytesToNat (s.tsGet at_ 64) == 0 then s.unitThreads spill nreg u now fuel (r + 1)
      else
        let n := bytesToNat (s.tsGet (at_ + 0x33) 1)
        let shell : Basketed :=
          { lane := { Lane.dead with status := .runnable, lastIssue := now }, stage := 0, n := 0, q := 0, arr := 0,
            place := .spill u r, readBack := false, came := now, left := 192, settle := 0 }
        match (if r + n ≤ 64 then shell.parse nreg (s.tsGet at_ (64 * min n 4)) else none) with
        | some b =>
          let k := s.unitThreads spill nreg u now fuel (r + n)
          ({ b with readBack := false, lane := { b.lane with seenGt := b.lane.dgt + 2 } } :: k.1, k.2)
        | none => ([], some at_)

/-- Records of threads. -/
def recordsOf (bs : List Basketed) : Nat := (bs.map Basketed.records).foldl (· + ·) 0

/-- Insert an element by a number, behind those with the same one. -/
def insertBy {α : Type} (f : α → Nat) (u : α) : List α → List α
  | [] => [u]
  | v :: vs => if f u < f v then u :: v :: vs else v :: insertBy f u vs

/-- Sort by a number, elements of one number in their order. -/
def sortBy {α : Type} (f : α → Nat) (us : List α) : List α := us.foldl (fun vs u => insertBy f u vs) []

/-- How many threads, in order, have their records within a number of records. -/
def fitting : Nat → List Basketed → Nat
  | _, [] => 0
  | q, b :: bs => if b.records ≤ q then fitting (q - b.records) bs + 1 else 0

/-- A domain as read from an image: it, the threads whose records returned to basket SRAM as they stood in the spill area, and the
spill offset of a record that R344 traps. -/
structure DomainRead where
  d : Domain
  back : List Basketed
  bad : Option Nat
  deriving DecidableEq, Repr

/-- The domain of a restored cluster (R362): the records of the units that its bitmap names return to basket SRAM up to Q in
ascending ARR, the rest stay; its reserve is taken among those units, the emptiest first (R353; assumption 15). -/
def State.domainFrom (s : State) (base off : Nat) (l : Launch) : DomainRead :=
  let units := (List.range l.spillu).filter fun u => (s.img base (off + 16 + u / 8) 1).testBit (u % 8)
  let reads := units.map fun u => s.unitThreads l.spill l.nreg u s.cycle 64 0
  let all := (sortBy (fun b : Basketed => b.arr.toNat) (reads.flatMap fun r => r.1)).mapIdx fun i b =>
    { b with lane := { b.lane with uid := s.nextId + i } }
  let n := fitting l.quota all
  let rest := all.drop n
  let load := fun (u : Nat) => recordsOf (rest.filter fun b => match b.place with
    | .spill v _ => v == u
    | .sram => false)
  { d := { quota := l.quota, units := l.spillu, spill := l.spill, reserve := (sortBy load units).take l.reserveUnits,
           nextArr := BitVec.ofNat 32 (s.img base off 4),
           threads := ((all.take n).map fun b => { b with place := .sram }) ++ rest, marks := [], progress := s.cycle },
    back := all.take n, bad := reads.findSome? fun r => r.2 }

/-- Threads of a block that its warps or baskets hold. -/
def State.presentTids (s : State) (ctx idx bid : Nat) : List Nat :=
  (s.warps.flatMap fun w => if w.ofCluster ctx idx then
    (w.lanes.filter fun l => l.live && l.bid == bid).map fun l => l.tid else []) ++
  (match s.domain? ctx idx with
   | some d => (d.threads.filter fun b => b.lane.bid == bid).map fun b => b.lane.tid
   | none => [])

/-- The type of a code; `s32` for a code that names none. -/
def tyOf (code : Nat) : Ty := (decTy (BitVec.ofNat 5 code)).getD .s32

/-- The number of the thread that a log entry names: one of a block, or of a handler warp. -/
def State.findThread (s : State) (ctx idx bid tid : Nat) : Nat :=
  match s.warps.findSome? fun w =>
      if w.ofCluster ctx idx then w.lanes.find? fun l => l.live && l.bid == bid && l.tid == tid
      else if bid == 0xFFFFFFFF && w.ctx == ctx && w.cluster == idx then w.lanes.find? fun l => l.live && l.tid == tid
      else none with
  | some l => l.uid
  | none =>
    match (s.domain? ctx idx).bind fun d => d.threads.find? fun b => b.lane.bid == bid && b.lane.tid == tid with
    | some b => b.lane.uid
    | none => 0

/-- What the part kept beside an image of one of its clusters, by what the image was saved under. -/
def State.shelved (s : State) (was : Nat × Nat) (idx : Nat) : List Shelved :=
  s.shelf.filter fun h => h.ctx == was.1 && h.gen == was.2 && h.cluster == idx

/-- What the part kept of an entry of an image, by its bytes: of the `n`-th with those bytes. -/
def State.kept? (s : State) (was : Nat × Nat) (idx : Nat) (bs : List Byte) (n : Nat) : Option Kept :=
  (((s.shelved was idx).filter fun h => h.entry == bs).drop n).head?.map fun h => h.kept

/-- A numerics version for an entry of which the part kept nothing: a free one (assumption 66). -/
def freeNbv (k : Nat) : Nat := 1 + (Config.freeWord k).toNat % 3

/-- A log entry from its 64 bytes, the `n`-th with those bytes, and the number of the thread that a seat of the image names. -/
def State.mendFrom (s : State) (l : Launch) (c : Cluster) (was : Nat × Nat) (uidAt : Seat → Option Nat) (k n : Nat) (bs : List Byte) :
    Mend :=
  let f := fieldOf bs
  let bid := if f 0x1C 2 == 0xFFFF then 0xFFFFFFFF else f 0x1C 2
  let tid := f 0x1E 2
  let kept := match s.kept? was c.idx bs n with
    | some (.mend m p) => some (m, p)
    | _ => none
  { core := c.coreOf (f 0x20 1) (f 0x21 1), ctx := l.ctx, cluster := c.idx, meas := l.slotNo, bid := bid, tid := tid,
    uid := ((kept.bind fun m => m.2).bind uidAt).getD (s.findThread l.ctx c.idx bid tid), va := f 0x00 8,
    data := (bs.drop 8).take (f 0x18 1), aop := f 0x19 1, ty := tyOf (f 0x1A 1), lc := BitVec.ofNat 2 (f 0x1B 1),
    nbv := (kept.map fun m => m.1.nbv).getD (freeNbv (s.nextId + k)) }

/-- A pending message from its 48 bytes, the reserved bits of `%msrc` read as 0 (R4); what names the sending lane is not saved. -/
def State.msgFrom (s : State) (l : Launch) (c : Cluster) (bs : List Byte) : Msg :=
  let f := fieldOf bs
  let m := f 0x04 4 % 2 ^ 29
  let src := m / 2 ^ 26 * l.cw + m / 2 ^ 22 % 16
  { id := s.nextId, ctx := l.ctx, cluster := c.idx, src := src, dst := f 0x01 1 * l.cw + f 0x00 1, h := f 0x02 1,
    payload := (List.range (f 0x03 1)).map fun i => BitVec.ofNat 32 (f (16 + 4 * i) 4), msrc := BitVec.ofNat 32 m,
    dev := (f 0x08 1).testBit 0, pc := 0, lane := 0, slot := 0, core := c.coreOf (src % l.cw) (src / l.cw), arrived := true }

/-- An operation of a copy engine, as it re-enters (R467): its number is `id`, its warp `w`; what the part kept of it, if this is the
image it saved, tells what the entry has no place for (assumption 66). What has done all its units has ended. -/
def State.copyFrom (s : State) (l : Launch) (c : Cluster) (w : Warp) (kept : Option CopyOp) (bs : List Byte) (id : Nat) : CopyOp :=
  let f := fieldOf bs
  let opk := f 0x0D 1
  let prog := f 0x30 8
  let o1 : DWord := BitVec.ofNat 64 (f 0x18 8)
  let o2 : Word := BitVec.ofNat 32 (f 0x20 4)
  let issued := (kept.map fun k => k.mask).getD 0xFFFFFFFF
  let lanes := (lanesOf issued).filter fun i => (w.lane i).live
  let q := [BitVec.ofNat 32 (f 0x24 4), BitVec.ofNat 32 (f 0x28 4), BitVec.ofNat 32 (f 0x2C 4)]
  let op : CopyOp :=
    { id := id, core := w.core, ctx := l.ctx, cluster := c.idx, bid := if f 0x08 2 == 0xFFFF then 0xFFFFFFFF else f 0x08 2,
      slot := w.slot, form := w.form, pc := BitVec.ofNat 57 (f 0x00 8), mask := maskOf lanes, opk := opk,
      o0 := BitVec.ofNat 64 (f 0x10 8), o1 := o1, o2 := o2,
      q := if opk == 0 then q ++ [0] else if opk == 1 || opk == 2 then q.take 2 else if opk == 6 then q.take 1 else [],
      mod := BitVec.ofNat 16 (f 0x38 4), ty := tyOf (f 0x3C 1), uids := lanes.map fun i => (w.lane i).uid, st := .queued,
      prog := prog, part := 0,
      aux0 := if opk == 7 then f 0x18 8 else (kept.map fun k => k.aux0).getD (freeNbv id),
      aux1 := (kept.map fun k => k.aux1).getD 0, slices := [], probed := false, mapA := [], mapB := [], buf := [], super := false,
      meas := 0, w := s.gt }
  let done := { op with st := .finished 0 0, probed := true }
  match opk with
  | 0 =>
    let units := (op.shape.1 * op.shape.2.1 + 4095) / 4096
    if prog == 0 then op else if units ≤ prog then done else { op with st := .running, probed := true }
  | 1 => if prog == 0 then op else if (o2.toNat + 31) / 32 ≤ prog then { done with prog := o2.toNat } else { op with st := .running }
  | 2 => if prog == 0 then op else if (o2.toNat + 31) / 32 ≤ prog then { done with prog := o2.toNat } else { op with st := .running }
  | 6 =>
    (match kept with
     | some h => { op with prog := h.prog, aux0 := h.aux0, aux1 := h.aux1, slices := h.slices, probed := h.probed, w := h.w,
                           st := (match h.st with
                             | .faulted _ => .running
                             | st => st) }
     | none => { op with prog := 0 })
  | 7 => done
  | 8 =>
    let data := s.outside.host.getN op.o0.toNat (min (prog * 4096) o2.toNat)
    if o2.toNat / 4096 + 2 ≤ prog then { done with prog := (Config.freeWord id).toNat % 2 ^ 20 }
    else if prog == 0 then op
    else { op with st := .running, q := (kept.map fun k => k.q).getD (wordsOf data), probed := kept.isSome }
  | _ => if prog == 0 then op else done

/-- The `%tstat` bits that an `mma` can have raised (R314, R320): none in an s32 tile, NV alone for entries 5 and 6, never DZ; SKIP
only with a skip map. -/
def flagsFor (o : XOps) (s32 : Bool) : BitVec 8 :=
  (if s32 then 0 else if o.opt == 5 || o.opt == 6 then 0x01 else 0x1D) ||| (if o.skp == .z then 0 else 0x80)

/-- An engine-queue entry, as it re-enters; the flags that an `mma` raised before the save are not in the image: the part has kept
them, or they are free among those it can raise (assumption 66). -/
def State.entryFrom (s : State) (base : Nat) (l : Launch) (c : Cluster) (w : Option Warp) (kept : Option G5Entry) (bs : List Byte)
    (id : Nat) : G5Entry :=
  let f := fieldOf bs
  let opk := if f 0x0C 1 == 0 then 8 else f 0x0D 1
  let prog := f 0x30 8
  let mod := f 0x38 4
  let o1 := f 0x18 8
  let skp := if o1 == 2 ^ 64 - 1 then Sel.z else .v 0
  let ops : XOps :=
    { acc := BitVec.ofNat 4 (f 0x24 1), prs := BitVec.ofNat 4 (f 0x25 1),
      aop := if opk == 4 then .v (BitVec.ofNat 8 (f 0x2C 1)) else .v 0, skp := skp, opt := BitVec.ofNat 3 (f 0x26 1),
      tya := tyOf (f 0x27 1), kst := BitVec.ofNat 13 (f 0x28 2), asrc := BitVec.ofNat 2 (f 0x2A 1), mod := BitVec.ofNat 20 mod }
  let vals := if opk == 4 && mod.testBit 0 then
      (List.range (if mod.testBit 1 then 64 else 128)).map fun i => BitVec.ofNat 32 (s.img base (f 0x10 8 + 4 * i) 4)
    else []
  let bid := f 0x08 2
  let at_ := c.home l bid
  let s32 := match s.block? l.ctx c.idx bid with
    | some b => (b.tile ops.acc.toNat).s32
    | none => false
  { id := id, core := at_, ctx := l.ctx, cluster := c.idx, bid := bid,
    wcore := (match w with | some w => w.core | none => at_), slot := (match w with | some w => w.slot | none => 64),
    form := (match w with | some w => w.form | none => 0), pc := BitVec.ofNat 57 (f 0x00 8), opk := opk, ops := ops,
    a := BitVec.ofNat 64 (f 0x10 8), r := if skp == .z then 0 else BitVec.ofNat 32 o1, vals := vals,
    nbv := if opk == 0 then f 0x2B 1 else (kept.map fun k => k.nbv).getD (freeNbv id),
    uids := (match w with
      | some w => (w.lanes.filter Lane.live).map fun l => l.uid
      | none => []),
    st := if opk == 0 && prog != 0 then .running else .queued, prog := if opk == 8 then prog else 0,
    flags := if opk == 0 && prog != 0 then (kept.map fun k => k.flags).getD (Config.freeByte id &&& flagsFor ops s32) else 0,
    w := s.gt }

/-- One engine entry of an image as it re-enters: with its number, and an `rstrp` with the number it had. -/
structure Reentry where
  op : SavedOp
  was : Option Nat
  deriving DecidableEq, Repr

/-- An engine entry under the number `id`; none for an operation of a copy engine whose warp no section brings back. -/
def State.reentry (s : State) (base : Nat) (l : Launch) (c : Cluster) (was : Nat × Nat) (w : Option Warp) (bs : List Byte) (id : Nat) :
    Option Reentry :=
  let f := fieldOf bs
  if f 0x0C 1 == 0 && f 0x0D 1 != 5 then
    let kept := match s.kept? was c.idx bs 0 with
      | some (.copy k) => some k
      | _ => none
    w.map fun w => { op := .copy (s.copyFrom l c w kept bs id), was := kept.map fun k => k.id }
  else
    let kept := match s.kept? was c.idx bs 0 with
      | some (.mx k) => some k
      | _ => none
    some { op := .mx (s.entryFrom base l c w kept bs id), was := none }

/-- The operation takes its place in its queue. A `pfill` whose chunks are all done has been handed to the copy engine and has ended
there. -/
def State.takeBack (s : State) (l : Launch) (r : Reentry) : State :=
  match r.op with
  | .copy k =>
    { s with copyOps := s.copyOps ++ [k],
             moving := s.moving.map fun (m : Moving) => if r.was == some m.op then { m with op := k.id, ctx := l.ctx } else m }
  | .mx e =>
    match (if e.opk == 8 && e.prog != 0 then s.g5Block e else none) with
    | none => { s with g5 := s.g5 ++ [e] }
    | some b =>
      let k := e.fillOp (bindType (b.bind e.ops.prs.toNat)) .queued e.prog
      if s.fillChunks k ≤ e.prog then
        { s with g5 := s.g5 ++ [{ e with st := .running }],
                 copyOps := s.copyOps ++ [{ k with st := .finished 0 0, probed := true, prog := (k.fillShape b).1 }] }
      else { s with g5 := s.g5 ++ [e] }

/-- Count an operation again in its warp (R195). -/
def State.recount (s : State) (o : SavedOp) : State :=
  let p := match o with
    | .copy c => (OpClass.cp, c.pc, c.uids, c.mask)
    | .mx e => (g5Class e.opk, e.pc, if e.opk == 3 then e.uids else [], 0xFFFFFFFF)
  let op : OutOp :=
    { id := o.id, cls := p.1, left := 1, cpstat := none, w := 0, uids := p.2.2.1, trapAddr := none, pc := p.2.1, mask := p.2.2.2 }
  if p.1 == .none then s
  else s.modWarp o.warp.1 o.warp.2.1 fun w => if w.form == o.warp.2.2 then { w with ops := w.ops ++ [op] } else w

/-- The order in which engine entries queue: that of the image, those of one warp and class in the order of their RANK (R408). -/
def queueOrder (es : List (List Byte)) : List Nat :=
  let all := List.range es.length
  let key := fun (k : Nat) => (fieldOf (es.getD k []) 0x0A 2, fieldOf (es.getD k []) 0x0C 1)
  let mates := fun (k : Nat) => if (key k).1 == 0xFFFF then [k] else all.filter fun j => key j == key k
  all.map fun k => (sortBy (fun j => fieldOf (es.getD j []) 0x0E 2) (mates k)).getD ((mates k).filter fun j => decide (j < k)).length k

/-- The engine entries of a cluster re-enter, numbered and counted in the order of their RANK (R195, R408). -/
def State.reenter (s : State) (base : Nat) (l : Launch) (c : Cluster) (was : Nat × Nat) (slots : List (Option (Nat × Nat)))
    (off n : Nat) : State :=
  let es := (List.range n).map fun k => s.tsRead (base + off + 64 * k) 64
  let order := sortBy (fun k => fieldOf (es.getD k []) 0x0E 2) (List.range n)
  let rs := es.mapIdx fun k bs =>
    let w := ((slots.getD (fieldOf bs 0x0A 2) none).bind fun p => s.warp? p.1 p.2)
    s.reentry base l c was w bs (s.nextId + order.idxOf k)
  let s := { s with nextId := s.nextId + n }
  let s := ((queueOrder es).filterMap fun k => rs.getD k none).foldl (fun s r => s.takeBack l r) s
  (order.filterMap fun k => rs.getD k none).foldl (fun s r => s.recount r.op) s

/-- What the part kept of a cluster's threads and frames comes back to it, and is used up. -/
def State.recall (s : State) (l : Launch) (c : Cluster) (was : Nat × Nat) (uidAt : Seat → Option Nat) : State :=
  let s := (s.shelved was c.idx).foldl (fun (s : State) h => match h.kept with
    | .ack k t => (match uidAt k with
      | some u => { s with outside := { s.outside with unacked := s.outside.unacked ++ [(u, t)] } }
      | none => s)
    | .pend b t same => s.modCluster l.ctx c.idx fun c =>
        { c with cbar := { c.cbar with pend := c.cbar.pend ++ [(b, t, if same then c.cbar.ph else c.cbar.ph - 1)] } }
    | .line n k => { s with lineSlots := s.lineSlots ++ [(.frame l.ctx c.idx n, k)] }
    | _ => s) s
  { s with shelf := s.shelf.filter fun h => !(h.ctx == was.1 && h.gen == was.2 && h.cluster == c.idx) }

/-- Pins of the cluster, each translated again (R338). -/
def State.repinFrom (s : State) (base : Nat) (l : Launch) (c : Cluster) (off : Nat) : State :=
  let f := fieldOf (s.tsRead (base + off) 16)
  let p : Pin := { core := c.coreOf (f 0x0A 1) (f 0x0B 1), ctx := l.ctx, cluster := c.idx, va := f 0 8, size := 65536,
                   count := f 8 2, pte := none, geo := 0 }
  State.repin { s with pins := s.pins ++ [p] } p

/-- Reload a saved cluster onto a rectangle: blocks, warps, operations, pins, baskets, messages; then its log entries are
replayed (R408). A record of its domain that lies outside the ranges of Table 3 then traps (R344). -/
def State.reloadAt (s : State) (r : Restoring) (l : Launch) (off idx : Nat) (o : Nat × Nat × Nat) : State :=
  let base := r.base
  let was := (r.wasCtx, r.wasGen)
  let f := fun (k n : Nat) => s.img base (off + k) n
  let c0 := s.newCluster l idx o
  let dom := if l.reorder then some (s.domainFrom base (f 0x28 8) l) else none
  let back := match dom with
    | some d => d.back
    | none => []
  let n := match dom with
    | some d => d.d.threads.length
    | none => 0
  let pinned := if l.pinf == 0 then [] else
    (List.range (l.cw * l.ch)).foldl (fun m i => (List.range l.pinf).foldl (fun m k =>
      Memory.setN m ((i * 6 + k) * 65536) (s.tsRead (base + f 0x30 8 + (i * l.pinf + k) * 65536) 65536)) m) []
  let c := { c0 with
    cbar := { ph := BitVec.ofNat 32 (f 0x08 4), cnt := f 0x0C 4, ec := .unset, pend := [] }, pinned := pinned, domain := dom.map fun d => d.d,
    visMax := s.img base 0x10 8 + 4098 }
  let blocks := (List.range l.nbid).map fun b => s.blockFrom base l c b (f (0x100 + 8 * b) 8)
  let s := { s.cleanSram l.ctx idx with clusters := s.clusters ++ [c], blocks := s.blocks ++ blocks, nextId := s.nextId + n }
  let s := State.resizeL1s (back.foldl (fun s b => s.spillClear l.spill b) s) l c
  let secs := s.warpSecs base l.nreg (f 0x10 4) (f 0x38 8)
  let byRank := sortBy (fun i => (secs.getD i ⟨0, 0, 0, []⟩).rank) (List.range secs.length)
  let formed := byRank.foldl (fun (a : State × List (Option (Nat × Nat))) i =>
    let r := a.1.reformWarp base l c (secs.getD i ⟨0, 0, 0, []⟩)
    (r.1, setAt a.2 i r.2)) (s, List.replicate secs.length none)
  let s := formed.1
  let s := (List.range l.nbid).foldl (fun s b =>
    let here := s.presentTids l.ctx idx b
    let gone := (List.range l.threads).filter fun t => !here.contains t
    (s.modBlock l.ctx idx b fun bl => { bl with exited := gone }).modCluster l.ctx idx fun c => { c with cexits := c.cexits + gone.length }) s
  let s := s.reenter base l c was formed.2 (f 0x50 8) (f 0x1C 4)
  let s := (List.range (f 0x20 4)).foldl (fun s k => s.repinFrom base l c (f 0x58 8 + 16 * k)) s
  let s := (List.range (f 0x14 4)).foldl (fun s k =>
    let m := s.msgFrom l c (s.tsRead (base + f 0x40 8 + 48 * k) 48)
    State.modCluster { s with msgs := s.msgs ++ [m], nextId := s.nextId + 1 } l.ctx idx fun c =>
      c.setTaken m.src m.dst (c.taken m.src m.dst + 1)) s
  let uidAt := fun (k : Seat) => match k with
    | .lane sec i => ((formed.2.getD sec none).bind fun p => s.warp? p.1 p.2).map fun w => (w.lane i).uid
    | .record u r => (dom.bind fun d => (d.back ++ d.d.threads).find? fun b => b.place == .spill u r).map fun b => b.lane.uid
  let es := (List.range (f 0x18 4)).map fun k => s.tsRead (base + f 0x48 8 + 64 * k) 64
  let ms := es.mapIdx fun k bs => s.mendFrom l c was uidAt k ((es.take k).filter (· == bs)).length bs
  let s := s.recall l c was uidAt
  let s := ms.foldl State.replayOne { s with mends := s.mends ++ ms, nextId := s.nextId + ms.length }
  match dom.bind fun d => d.bad with
  | some at_ => s.spillTrap l.ctx at_
  | none => s

/-- The units that a saved cluster's domain holds until it is placed. -/
def State.savedUnitsOf (s : State) (base : Nat) (l : Launch) (e : Nat × Nat) : List (Nat × Nat) :=
  if l.reorder then
    ((List.range l.spillu).filter fun u => (s.img base (s.img base (e.1 + 0x28) 8 + 16 + u / 8) 1).testBit (u % 8)).map
      fun u => (e.2, u)
  else []

/-- The pages whose move an image's `rstrp` entries have under way belong to the new context from its acceptance on (R228). -/
def State.adopt (s : State) (ctx : Nat) (r : Restoring) : State :=
  let its := fun (m : Moving) => s.shelf.any fun h => h.ctx == r.wasCtx && h.gen == r.wasGen && (match h.kept with
    | .copy c => c.id == m.op
    | _ => false)
  { s with moving := s.moving.map fun (m : Moving) => if its m then { m with ctx := ctx } else m }

/-- A restore request (R408): a new context from the image; its saved clusters are placed as rectangles free up. -/
def State.requestRestore (s : State) (w : Nat) : State :=
  let s := s.startRequest w 3
  let base := s.imageBase
  match s.freeEntry with
  | none => s.endRequest s.hardBit true
  | some ctx =>
    if s.service.recovery || !s.imageArea || !s.imageOk base s.imageRoom then s.endRequest s.hardBit true
    else
      let l := s.imgLaunch base
      let dir := s.imgDirectory base
      let placed := s.imgDone base (l.gx * l.gy)
      let l := { l with placed := placed, done := placed.filter (fun i => !dir.any fun e => e.2 == i), toRestore := dir,
                        savedUnits := dir.flatMap fun e => s.savedUnitsOf base l e }
      let r : Restoring := { ctx := ctx, base := base, wasCtx := s.img base 0x145 1, wasGen := s.img base 0x146 2 }
      let s := { (s.enter l ctx).adopt ctx r with restoring := some r }
      if dir.isEmpty then (s.endRequest s.hardBit false).finishLaunch ctx else s

/-! ### PRQ (R398) -/

/-- A write of PRQ. -/
def State.writePrq (s : State) (w : Word) : State :=
  let op := w.toNat / 2 ^ 18 % 4
  if s.sys.prq.getLsbD 23 then (if op == 2 then s.escalate w.toNat else s)
  else if op == 0 then s
  else if op == 3 then s.requestRestore w.toNat
  else s.requestSave w.toNat op

/-- A PRQ word with its OP field set. -/
def withOp (w : Word) (op : Nat) : Word := (w &&& ~~~0x000C0000#32) ||| BitVec.ofNat 32 (op * 2 ^ 18)

/-- PREEMPT_SOFT (R400): a PRQ write with OP = 1. -/
def execPreemptSoft (w : Word) (s : State) : Result := .next (s.writePrq (withOp w 1))

/-- PREEMPT_HARD (R405): a PRQ write with OP = 2. -/
def execPreemptHard (w : Word) (s : State) : Result := .next (s.writePrq (withOp w 2))

/-- RESTORE (R408): a PRQ write with OP = 3. -/
def execRestore (w : Word) (s : State) : Result := .next (s.writePrq (withOp w 3))

/-! ### Placing (R391, R392) -/

/-- Warps that a saved cluster, its section at `off`, needs on its `i`-th core beside the handler warps: those of its blocks, or those
that come back there, if they are more (R112, R408). -/
def State.savedNeed (s : State) (l : Launch) (off i : Nat) : Nat :=
  match s.restoring with
  | some r =>
    let f := fun (k n : Nat) => s.img r.base (off + k) n
    let back := (s.warpSecs r.base l.nreg (f 0x10 4) (f 0x38 8)).filter fun k =>
      fieldOf k.head 0x05 1 != 2 && fieldOf k.head 0x09 1 * l.cw + fieldOf k.head 0x08 1 == i
    max (l.bpc * l.nw) back.length
  | none => l.bpc * l.nw

/-- The first saved cluster that finds a rectangle (R408). -/
def State.planSaved (s : State) (l : Launch) : List (Nat × Nat) → Option Plan
  | [] => none
  | c :: cs =>
    match s.findRect l c.2 (s.savedNeed l c.1) with
    | some o => some (.reload c.1 c.2 o)
    | none => s.planSaved l cs

/-- The next placement of a launch: saved clusters first. -/
def State.plan (s : State) (l : Launch) : Option Plan :=
  if l.run == .live && !s.stopped && !l.toRestore.isEmpty then s.planSaved l l.toRestore
  else if s.mayPlace l then s.planFrom l ((List.range (l.gx * l.gy)).filter fun i => !l.placed.contains i) else none

/-- A saved cluster is back: when it was the last, the restore completes. -/
def State.reloaded (s : State) (l : Launch) (off idx : Nat) : State :=
  let rest := l.toRestore.filter fun e => e != (off, idx)
  let s := s.modLaunch l.ctx fun l =>
    { l with toRestore := rest, savedUnits := l.savedUnits.filter fun u => u.1 != idx }
  if rest.isEmpty then s.endRequest s.hardBit false else s

/-- Carry out a plan: place, or reload; or post the record of a bitmap fault, which keeps the cluster waiting; or halt the
context. -/
def State.carryOut (s : State) (l : Launch) : Plan → State
  | .place i o => (s.polled l i).placeAt l i o
  | .reload off i o =>
    (match s.restoring with
     | some r => (s.reloadAt r l off i o).reloaded l off i
     | none => s)
  | .fault i va k =>
    (s.modLaunch l.ctx fun l => { l with mapFault := l.mapFault ++ [(2 * i, 0, va)] }).post [s.record l.ctx k 8 0 0 0 0 va 0 0]
  | .violation va => s.takeTrap (s.record l.ctx 3 0 0x07 0 0 0 0 va 0)

/-- CLUSTER_PLACE (R391, R392): the next cluster of a launch, unless a launch served before it has one to place. -/
def execClusterPlace (ctx : Nat) (s : State) : Result :=
  .next (match s.launch? ctx with
    | none => s
    | some l =>
      if s.launches.any fun k => k.before l && (s.plan k).isSome then s
      else
        match s.plan l with
        | none => s
        | some p => s.carryOut l p)

end Sys2Proof.Machine
end

