-- ==== Sys2Proof/Machine/Host.lean ====
section
/-! DEFINITION. The host and the peers: the BAR 2 window (R414), ownership flips (R278, R415), the debug pages and resumption
(R421, R422), and inbound peer accesses (R423, R424). -/

namespace Sys2Proof.Machine

open Sys2Proof

/-! ### Pages as the host and the peers reach them -/

/-- A page of a context that an access from outside reaches. -/
structure Page where
  pte : DWord
  geo : BitVec 128
  va : Nat
  size : Nat
  deriving DecidableEq, Repr

/-- The page of a context's page table that holds an address, if it maps one well formed (R235 to R237). -/
def State.page (s : State) (ctx va : Nat) : Option Page :=
  if 2 ^ 57 ≤ va then none
  else
    match s.walk ctx va with
    | .leaf pte size => some { pte := pte, geo := s.geoEntry ctx (pteWord pte).geo, va := va / size * size, size := size }
    | _ => none

/-- The device address of a byte of a page that lies in a channel; none for a core-pinned page. -/
def Page.place (p : Page) (va : Nat) : Option Nat :=
  let w := pteWord p.pte
  let g := geometry p.geo
  if w.hc == 3 || !w.unusedZero || !g.valid then none else g.place p.size (pteFrame p.pte) (va - p.va)

/-- Is the page sealed (R428)? -/
def State.pageSealed (s : State) (p : Page) (va : Nat) : Bool :=
  pteSeal p.pte || (match p.place va with
    | some d => s.inSealed d
    | none => false)

/-- One piece of an outside access as it reaches memory: context, address, device address, bytes, and the page. -/
structure Reach where
  ctx : Nat
  va : Nat
  dev : Nat
  n : Nat
  page : Page
  deriving DecidableEq, Repr

/-- The pieces of an access, where every page of it passes `ok`; and the state with the sealed frames it met. -/
def State.reach (s : State) (ctx a n : Nat) (ok : Page → Bool) : State × Option (List Reach) :=
  (rangePieces a n).foldl (fun (acc : State × Option (List Reach)) p =>
    match acc.1.page ctx p.1 with
    | none => (acc.1, none)
    | some g =>
      let s := acc.1.sealFrame g.pte g.geo g.size
      match acc.2, g.place p.1 with
      | some rs, some d =>
        if ok g && !s.pageSealed g p.1 then
          (s, some (rs ++ [{ ctx := ctx, va := p.1, dev := s.forward ctx p.1 d, n := p.2, page := g }]))
        else (s, none)
      | _, _ => (s, none)) (s, some [])

/-- Read the pieces at their homes. -/
def State.reachRead (s : State) (rs : List Reach) : State × List Byte :=
  (rs.foldl (fun s r => s.touchLine r.dev r.ctx (pteWord r.page.pte).tag (pteWord r.page.pte).hc false) s, rs.flatMap fun r => s.devRead r.dev r.n)

/-- Write the pieces at their homes, in order; the latest W. -/
def State.reachWrite (s : State) : List Reach → List Byte → Nat → State × Nat
  | [], _, w => (s, w)
  | r :: rs, bs, w =>
    let c := s.completion (.line r.dev)
    State.reachWrite (s.homeWrite (.line r.dev) r.ctx (pteWord r.page.pte).tag (pteWord r.page.pte).hc false 0 (bs.take r.n)) rs (bs.drop r.n)
      (max w c)

/-- What an outside access gets back. -/
def State.answerWith (s : State) (r : Reply) : State := { s with outside := { s.outside with reply := r } }

/-! ### The host window (R414) -/

/-- The address and context of an offset of BAR 2. -/
def State.windowBase (s : State) : Nat × Nat := (s.sys.hwinbase.toNat, s.sys.hwinctx.toNat % 64)

/-- An access that the host window refuses: HOSTVIOL counts it. -/
def State.hostViolation (s : State) : State := { s with sys := { s.sys with hostviol := countUp s.sys.hostviol } }

/-- Is the access within BAR 2, of 64 GiB? -/
def inBar2 (offset n : Nat) : Bool := decide (offset + n ≤ 2 ^ 36)

/-- HOST_WINDOW_READ (R414): of host-owned pages the bytes at their homes; else Unsupported Request. -/
def execHostWindowRead (offset size : Nat) (s : State) : Result :=
  .next (if !inBar2 offset size then s
    else
      match s.reach s.windowBase.2 (s.windowBase.1 + offset) size fun p => pteOwn p.pte with
      | (s, some rs) =>
        let r := s.reachRead rs
        r.1.answerWith (.data r.2)
      | (s, none) => s.hostViolation.answerWith .unsupported)

/-- A host write through the window: performed on host-owned pages, else dropped. -/
def State.windowWrite (s : State) (offset : Nat) (data : List Byte) : State :=
  match s.reach s.windowBase.2 (s.windowBase.1 + offset) data.length fun p => pteOwn p.pte with
  | (s, some rs) => (s.reachWrite rs data 0).1.answerWith .done
  | (s, none) => s.hostViolation.answerWith .dropped

/-- HOST_WINDOW_WRITE (R414). -/
def execHostWindowWrite (offset : Nat) (data : List Byte) (s : State) : Result :=
  .next (if inBar2 offset data.length then s.windowWrite offset data else s)

/-! ### Ownership flips (R278, R415) -/

/-- The page that a flip names, where it may be flipped: mapped and well formed, not core-pinned, not in a heap window, its
owner not the one requested. -/
def State.flippable (s : State) (ctx va : Nat) (toDevice : Bool) : Option Page :=
  match s.page ctx va with
  | none => none
  | some p =>
    if !pteOk p.pte || (pteWord p.pte).hc == 3 || (coveringWindow va (s.bank ctx).heap).isSome || pteOwn p.pte == !toDevice then none
    else some p

/-- A write of OWNF1: a flip begins, or sets ERR; ignored while BUSY. -/
def State.writeOwnf1 (s : State) (w : Word) : State :=
  if s.sys.ownf1.getLsbD 18 then s
  else
    let keep := w &&& 0x0001FFFF
    let set := fun (v : Word) => { s with sys := { s.sys with ownf1 := keep ||| v } }
    match s.named w.toNat with
    | none => set 0x20000
    | some l =>
      match s.flippable l.ctx (fieldAt s.sys.ownf0 56 16) (w.getLsbD 16) with
      | none => set 0x20000
      | some p => { set 0x40000 with flipping := some (l.ctx, p.va, w.getLsbD 16) }

/-- OWNERSHIP_FLIP_TO_HOST (R415): a write of OWNF1 with DIR = 0. -/
def execOwnershipFlipToHost (w : Word) (s : State) : Result := .next (s.writeOwnf1 (w &&& ~~~0x00010000#32))

/-- OWNERSHIP_FLIP_TO_DEVICE (R415): a write of OWNF1 with DIR = 1. -/
def execOwnershipFlipToDevice (w : Word) (s : State) : Result := .next (s.writeOwnf1 (w ||| 0x00010000#32))

/-- Has every copy of global time passed the latest lease granted on the page's lines (R264, R278)? -/
def State.leasesPassed (s : State) (p : Page) : Bool :=
  let g := geometry p.geo
  let passed := fun (e : Nat) => (List.range 385).all fun a => decide (e < s.gtOf a)
  (s.leases.all fun e => !g.holds p.size (pteFrame p.pte) (e.1 * 128) || passed e.2) &&
    g.channels.all fun ch =>
      let e := s.ev.getD (sliceOfChannel ch) 0
      e == 0 || passed e

/-- Is an access to the page under way: a request still to be performed, a fill into an L1, a chunk or vector that an engine has
translated, or an entry of a mend log? -/
def State.pageBusy (s : State) (ctx : Nat) (p : Page) : Bool :=
  let at_ := fun (va : Nat) => decide (p.va ≤ va) && decide (va < p.va + p.size)
  (s.reqs.any fun (r : Req) => r.ctx == ctx && at_ r.va && r.pending) ||
    (s.fills.any fun f => f.ctx == ctx && at_ f.va) || (s.openPieces.any fun p => p.1 == ctx && at_ p.2.va) || s.mends.any fun (m : Mend) => m.ctx == ctx && at_ m.va

/-- May the flip of a page complete (R278, R338, R415)? -/
def State.flipReady (s : State) (ctx : Nat) (p : Page) (toDevice : Bool) : Bool :=
  !(s.moving.any fun m => m.ctx == ctx && decide (m.va < p.va + p.size) && decide (p.va < m.va + m.size)) &&
    !(s.pins.any fun (q : Pin) => q.ctx == ctx && decide (q.va < p.va + p.size) && decide (p.va < q.va + q.size)) &&
    (toDevice || (!s.pageBusy ctx p && s.leasesPassed p))

/-- A PTE with its owner set. -/
def pteOwned (pte : DWord) (host : Bool) : DWord := if host then pte ||| 4 else pte &&& ~~~4#64

/-- End a flip: BUSY clear. -/
def State.flipEnd (s : State) (err : Bool) : State :=
  { s with flipping := none, sys := { s.sys with ownf1 := (s.sys.ownf1 &&& 0x0001FFFF) ||| (if err then 0x20000 else 0) } }

/-- OWNERSHIP_FLIP_COMPLETE (R278, R415): OWN is written at the PTE's home, TLB entries removed, vector 3 raised. A page that
is no longer mapped sets ERR. -/
def execOwnershipFlipComplete (s : State) : Result :=
  .next (match s.flipping with
    | none => s
    | some (ctx, va, toDevice) =>
      match s.page ctx va, s.leafOffset ctx va with
      | some p, some o =>
        if s.flipReady ctx p toDevice then
          let s := s.tsWrite o (natToBytes 8 (pteOwned p.pte (!toDevice)).toNat)
          State.interrupt ((s.tlbDrop ctx p.va (p.va + p.size)).flipEnd false) 3
        else s
      | _, _ => s.flipEnd true)

/-! ### Debug pages (R421, R422, Table 6) -/

/-- The warp that DSEL of a context selects. -/
def State.selected (s : State) (ctx : Nat) : Option Warp :=
  let d := (s.dsel.getD ctx 0).toNat
  match s.warp? (d % 256) (d / 256 % 64) with
  | some w => if w.ctx == ctx then some w else none
  | none => none

/-- Is the context halted by a trap or `hlt`? -/
def Launch.halted (l : Launch) : Bool := l.run == .halted

/-- DTRAP. -/
def State.dtrapBytes (s : State) (l : Launch) : List Byte :=
  let n := (s.warps.filter fun w => w.ctx == l.ctx && w.brk).length
  le 3 l.dtrap.toNat ++ [BitVec.ofNat 8 ((if l.halted then 1 else 0) + (if n != 0 then 2 else 0))] ++ le 4 n

/-- DSTAT. -/
def State.dstatBytes (s : State) (l : Launch) : List Byte :=
  match s.selected l.ctx with
  | none => zeros 8
  | some w => le 8 (1 + (if w.brk || l.halted then 2 else 0) + (if w.brk && !l.halted then 4 else 0))

/-- DWARP and DTHR of a halted warp: the section of the warp and its thread records, STATE 3 and PLIVE 0x7F. -/
def State.debugWarp (s : State) (w : Warp) : List Byte :=
  match s.cluster? w.ctx w.cluster with
  | none => zeros (0x200 + 32 * 0x500)
  | some c =>
    w.headBytes c (w.rank (s.savedWarps c)) ++
      (List.range 32).flatMap fun i =>
        let l := w.lane i
        if l.live then (padTo 0x500 (s.threadBytes w l (s.coreGt w.core) (3, 0) 0x7F 0xFE)).take 0x500 else zeros 0x500

/-- The bytes of a context's debug pages up to the end of DTHR; the rest reads zero. -/
def State.debugBytes (s : State) (ctx : Nat) : List Byte :=
  match s.launch? ctx with
  | none => []
  | some l =>
    padTo 0x1000
      (s.dtrapBytes l ++ le 8 ((s.dsel.getD ctx 0).toNat % 2 ^ 14) ++ zeros 8 ++ s.dstatBytes l) ++
      (match s.selected ctx with
       | some w => if w.brk || l.halted then s.debugWarp w else []
       | none => [])

/-- Bytes read from a context's debug pages. -/
def State.debugRead (s : State) (ctx offset n : Nat) : List Byte := padTo n (((s.debugBytes ctx).drop offset).take n)

/-- Overwrite byte `j` of a number. -/
def withByte (v j : Nat) (b : Byte) : Nat := v - v / 256 ^ j % 256 * 256 ^ j + b.toNat * 256 ^ j

/-- Write byte `r` of a lane's thread record: PC, PRED or VREG. -/
def Lane.poke (l : Lane) (r : Nat) (b : Byte) : Lane :=
  if !l.live then l
  else if r < 8 then { l with pc := BitVec.ofNat 57 (withByte l.pc.toNat r b) }
  else if r == 0x2C then { l with p := b }
  else if 0xC0 ≤ r && decide (r < 0xC0 + 4 * l.v.length) then
    { l with v := modAt l.v ((r - 0xC0) / 4) fun w => BitVec.ofNat 32 (withByte w.toNat ((r - 0xC0) % 4) b) }
  else l

/-- Write one byte of the window of a warp halted at a breakpoint: KREG, or a field of a thread record. A lane whose PC is written no
longer stands where a transfer brought it: its resumption judges the PC by R25 alone. -/
def Warp.poke (w : Warp) (o : Nat) (b : Byte) : Warp :=
  if 0x1020 ≤ o && o < 0x10A0 then
    { w with k := modAt w.k ((o - 0x1020) / 4) fun v => BitVec.ofNat 32 (withByte v.toNat ((o - 0x1020) % 4) b) }
  else if 0x1200 ≤ o && o < 0xB200 then
    let i := (o - 0x1200) / 0x500
    let r := (o - 0x1200) % 0x500
    { w.modLane i fun l => l.poke r b with chk := if r < 8 then w.chk.filter fun c => c.1 != i else w.chk }
  else w

/-- May the window of a context be written? It names the warp. -/
def State.writable (s : State) (ctx : Nat) : Option Warp :=
  match s.launch? ctx, s.selected ctx with
  | some l, some w => if w.brk && !l.halted then some w else none
  | _, _ => none

/-- A warp resumes (R422): a lane whose PC is not valid traps bad-target. -/
def State.resumeWarp (s : State) (w : Warp) : State :=
  let s := s.setWarp (w.resume s.cycle)
  match (List.range 32).find? fun i => (w.lane i).live && !validPc (w.lane i).pc with
  | some i =>
    let pc := (w.lane i).pc.toNat
    s.takeTrap (s.record w.ctx 3 0 0x03 w.core w.slot i pc pc (1#32 <<< i))
  | none => s

/-- Does the context run, so that its warps may be resumed? -/
def State.resumable (s : State) (ctx : Nat) : Bool :=
  match s.launch? ctx with
  | some l => !l.halted
  | none => false

/-- Bit 0 of DRES. -/
def State.resumeSelected (s : State) (ctx : Nat) : State :=
  match s.selected ctx with
  | some w => if w.brk && s.resumable ctx then s.resumeWarp w else s
  | none => s

/-- Bit 1 of DRES: every warp of the context that is halted at a breakpoint, until one traps. -/
def State.resumeAll (s : State) (ctx : Nat) : State :=
  (s.warps.filter fun w => w.ctx == ctx && w.brk).foldl (fun s w => if s.resumable ctx then s.resumeWarp w else s) s

/-- One byte written to the debug pages. -/
def State.debugByte (s : State) (ctx o : Nat) (b : Byte) : State :=
  if (s.launch? ctx).isNone then s
  else if 8 ≤ o && o < 16 then
    { s with dsel := modAt s.dsel ctx fun d => BitVec.ofNat 64 (withByte d.toNat (o - 8) b % 2 ^ 14) }
  else if o == 16 then
    let s := if b.getLsbD 0 then s.resumeSelected ctx else s
    if b.getLsbD 1 then s.resumeAll ctx else s
  else
    match s.writable ctx with
    | some w => s.setWarp (w.poke o b)
    | none => s

/-- A host write to the debug pages, byte by byte upwards. -/
def State.debugWrite (s : State) (ctx : Nat) : Nat → List Byte → State
  | _, [] => s
  | o, b :: bs => State.debugWrite (s.debugByte ctx o b) ctx (o + 1) bs

/-- DEBUG_RESUME_WARP (R422). -/
def execDebugResumeWarp (ctx : Nat) (s : State) : Result := .next (s.resumeSelected ctx)

/-- DEBUG_RESUME_ALL (R422). -/
def execDebugResumeAll (ctx : Nat) (s : State) : Result := .next (s.resumeAll ctx)

/-- DEBUG_WINDOW_WRITE (R421, R422). -/
def execDebugWindowWrite (ctx offset : Nat) (data : List Byte) (s : State) : Result := .next (s.debugWrite ctx offset data)

/-! ### Peers (R423, R424) -/

/-- Registers of a port. -/
def State.port (s : State) (n : Nat) : PortRegs := s.sys.ports.getD n PortRegs.reset

/-- The context of an inbound access that lies in its port's window: a live one that CTX and GEN name. -/
def State.admits (s : State) (n a len : Nat) : Option Launch :=
  let p := s.port n
  if fieldAt p.base 56 16 ≤ a ∧ a + len ≤ fieldAt p.limit 56 16 ∧ a < fieldAt p.limit 56 16 then s.named p.ctx.toNat else none

/-- The pages of an inbound access, where each is device-owned and permits it. -/
def State.inbound (s : State) (n a len : Nat) (write : Bool) : State × Option (List Reach) :=
  match s.admits n a len with
  | none => (s, none)
  | some l => s.reach l.ctx a len fun p => !pteOwn p.pte && (!write || pteWr p.pte)

/-- A dropped inbound access: PEERDROP counts it. -/
def State.peerDropped (s : State) : State :=
  State.answerWith { s with sys := { s.sys with peerdrop := countUp s.sys.peerdrop } } .dropped

/-- PEER_INBOUND_WRITE (R424): performed at its home; its acknowledgement waits until global time has passed W. -/
def execPeerInboundWrite (port addr : Nat) (data : List Byte) (s : State) : Result :=
  .next (if !s.outside.linkUp.getLsbD port then s
    else
      match s.inbound port addr data.length true with
      | (s, some rs) =>
        let r := s.reachWrite rs data 0
        State.answerWith { r.1 with outside := { r.1.outside with acks := r.1.outside.acks ++ [(port, r.2)] } } .done
      | (s, none) => s.peerDropped)

/-- PEER_INBOUND_READ (R424). -/
def execPeerInboundRead (port addr size : Nat) (s : State) : Result :=
  .next (if !s.outside.linkUp.getLsbD port then s
    else
      match s.inbound port addr size false with
      | (s, some rs) =>
        let r := s.reachRead rs
        r.1.answerWith (.data r.2)
      | (s, none) => s.peerDropped)

/-- Acknowledge the inbound writes whose W the I/O die's global time has passed (R424). -/
def State.acknowledge (s : State) : State :=
  { s with outside := { s.outside with acks := s.outside.acks.filter fun a => decide (s.gtOf 384 ≤ a.2) } }

/-- The peer address of the chunk that stands next, of a running copy that goes through a port. -/
def CopyOp.peerAt (c : CopyOp) (port : Nat) : Option Nat :=
  let sp := c.spaces
  let sh := c.shape
  let t0 := c.prog * 4096
  let t1 := min (sh.1 * sh.2.1) (t0 + 4096)
  let segs := (if sp.1 == 2 then segments (c.o1.toNat : Int) sh.2.2.1 sh.2.1 t0 t1 else []) ++
    if sp.2 == 2 then segments (c.o0.toNat : Int) sh.2.2.2 sh.2.1 t0 t1 else []
  (segs.find? fun (g : Int × Nat) => peerPort g.1 == port).map fun (g : Int × Nat) => (g.1 % (2 ^ 57 : Nat)).toNat

/-- Is the copy under way? -/
def CopyOp.underWay (c : CopyOp) : Bool :=
  c.opk == 0 && (match c.st with
    | .running => true
    | .faulted _ => true
    | _ => false)

/-- PEER_LINK_DOWN (R423, R331): the copies under way through the port end with 0x47. -/
def execPeerLinkDown (port : Nat) (s : State) : Result :=
  let s := { s with outside := { s.outside with linkUp := s.outside.linkUp &&& ~~~(1#8 <<< port) } }
  .next ((s.copyOps.filter fun (c : CopyOp) => c.underWay).foldl (fun s c =>
    match c.peerAt port with
    | some a => s.failCopy c 0x47 a
    | none => s) s)

end Sys2Proof.Machine
end

