-- ==== Sys2Proof/Machine/Service.lean ====
section
/-! DEFINITION. Rilcia and the security block: the mailbox and its commands (R425 to R430), resets (R4, R259, R425), errors
and retirement (R431, R433), the black box (R434), the governor and the thermal stop (R435). -/

namespace Sys2Proof.Machine

open Sys2Proof

/-! ### The mailbox (R429, Tables 8 and 9) -/

/-- A write of MBDOOR: a request begins; ignored while BUSY. -/
def State.writeMbdoor (s : State) (w : Word) : State :=
  if s.sys.mbstat.getLsbD 0 then s
  else { s with sys := { s.sys with mbdoor := w, mbstat := (s.sys.mbstat &&& 0xFFFF0000) ||| 1 } }

/-- A field of the request buffer. -/
def Service.req (v : Service) (o n : Nat) : Nat := bytesToNat (v.request.getN o n)

/-- CMD, LEN and TAG of the request's header. -/
def Service.cmd (v : Service) : Nat := v.req 0 4
def Service.len (v : Service) : Nat := v.req 4 4
def Service.tag (v : Service) : Nat := v.req 8 4

/-- A field of the payload. -/
def Service.arg (v : Service) (o n : Nat) : Nat := v.req (16 + o) n

/-- Write the response, set DONE, clear BUSY, raise vector 5. -/
def State.respond (s : State) (status : Nat) (payload : List Byte) : State :=
  let head := le 4 status ++ le 4 payload.length ++ le 4 s.service.tag ++ le 4 0
  State.interrupt { s with
    service := { s.service with response := s.service.response.setN 0 (head ++ payload) },
    sys := { s.sys with mbstat := BitVec.ofNat 32 (s.service.tag % 65536 * 65536 + 2) } } 5

/-- Is CMD one of Table 10? -/
def listed (cmd : Nat) : Bool := decide (1 ≤ cmd) && decide (cmd ≤ 7)

/-- Serve the request that waits, if it is the command given; `attest` also answers for a CMD that is not in Table 10. The
header is judged first, then recovery, then the length of the payload. -/
def State.serveCmd (s : State) (cmd len : Nat) (body : State → State) : State :=
  let v := s.service
  if !s.sys.mbstat.getLsbD 0 || !(v.cmd == cmd || (cmd == 1 && !listed v.cmd)) then s
  else if 32752 < v.len || v.tag != s.sys.mbdoor.toNat then s.respond 2 []
  else if v.recovery && v.cmd != 6 && v.cmd != 7 then s.respond 7 []
  else if v.cmd != cmd then s.respond 1 []
  else if v.len != len then s.respond 2 []
  else body s

/-! ### Identity and attestation (R426, Table 11) -/

/-- Bytes of a signature, numbered. -/
def sigBytes (n : Nat) (f : Nat → Byte) : List Byte := (List.range n).map f

/-- An ECDSA P-384 signature over the SHA-384 of bytes. -/
def State.ecdsa (s : State) (k : Nat) (bs : List Byte) : List Byte := sigBytes 96 (Config.ecdsaByte (s.nextId + k) (sha384 bs))

/-- FWMEAS: SHA-384 of the running image. -/
def Service.fwmeas (v : Service) : List Byte := if v.firmware.isEmpty then sigBytes 48 Config.firmwareByte else sha384 v.firmware

/-- SEQ of the latest `cpseal` record, all ones when none. -/
def Service.latest (v : Service) : Nat := if v.seq == 0 then 2 ^ 64 - 1 else v.seq - 1

/-- The report without its last two signatures: 0x410 bytes. -/
def State.reportHead (s : State) : List Byte :=
  let v := s.service
  let pub := sigBytes 48 (Config.lmsPublicByte v.boots)
  le 48 (v.arg 0 48) ++ le 8 Config.devId.toNat ++ v.fwmeas ++
    ((List.range 16).flatMap fun k => le 48 (v.measurement k).toNat) ++ le 8 v.latest ++
    le 16 v.headTag.toNat ++ pub ++ s.ecdsa 0 (pub ++ le 8 Config.devId.toNat)

/-- The report; it spends a leaf of the per-boot tree. -/
def State.attest (s : State) : State :=
  if 2 ^ 15 ≤ s.service.leaves then s.respond 3 []
  else
    let head := s.reportHead
    let report := head ++ s.ecdsa 1 head ++ sigBytes 1620 (Config.lmsByte s.service.boots s.service.leaves head)
    State.respond { s with nextId := s.nextId + 2, service := { s.service with leaves := s.service.leaves + 1 } } 0 report

/-- ATTEST (R426). -/
def execAttest (s : State) : Result := .next (s.serveCmd 1 48 State.attest)

/-! ### Code slots (R427) -/

/-- Register a range in the lowest free slot. -/
def State.regcode (s : State) : State :=
  let v := s.service
  let va := v.arg 0 8
  let len := v.arg 8 8
  if va % 64 != 0 || len % 64 != 0 || len < 64 || 2 ^ 28 < len || 2 ^ 57 < va + len then s.respond 2 []
  else
    match ((List.range 14).map (· + 1)).find? fun k => !(v.slots.any fun c => c.slot == k) with
    | none => s.respond 4 []
    | some k =>
      let c : CodeSlot := { slot := k, va := va, len := len, digest := BitVec.ofNat 384 (v.arg 16 48) }
      State.respond { s with service := { v with slots := v.slots ++ [c] } } 0 (le 4 k)

/-- REGCODE (R427). -/
def execRegcode (s : State) : Result := .next (s.serveCmd 2 64 State.regcode)

/-- Free a slot; launches accepted earlier keep its number. -/
def State.unregcode (s : State) : State :=
  let v := s.service
  let k := v.arg 0 4
  if v.slots.any fun c => c.slot == k then
    State.respond { s with service := { v with slots := v.slots.filter fun c => c.slot != k } } 0 []
  else s.respond 5 []

/-- UNREGCODE (R430). -/
def execUnregcode (s : State) : Result := .next (s.serveCmd 3 4 State.unregcode)

/-! ### The chain head and sealed frames (R340, R428) -/

/-- Sign SEQ and TAG of the latest record. -/
def State.signhead (s : State) : State :=
  let v := s.service
  if v.seq == 0 then s.respond 5 []
  else
    let head := le 8 v.latest ++ le 16 v.headTag.toNat
    State.respond { s with nextId := s.nextId + 1 } 0 (head ++ zeros 8 ++ s.ecdsa 0 head)

/-- SIGNHEAD (R340, R430). -/
def execSignhead (s : State) : Result := .next (s.serveCmd 4 0 State.signhead)

/-- Zero a frame (base, geometry, size): its bytes, in the slices and the channels; poison marks and measurement slots of its lines
go. -/
def State.zeroFrame (s : State) (f : Nat × BitVec 128 × Nat) : State :=
  let mine := fun (dev : Nat) => (geometry f.2.1).holds f.2.2 f.1 dev
  { s with
    hbm := s.hbm.filter fun c => !mine c.1,
    l2 := s.l2.map fun (k : L2Line) => if mine (k.line * 128) then { k with data := zeros 128, dirty := true } else k,
    poison := s.poison.filter fun q => !mine (q * 32),
    lineSlots := s.lineSlots.filter fun e => match e.1 with
      | .line la => !mine (la * 128)
      | _ => true }

/-- Unseal the frame of a page: every frame of the map that its first byte lies in is zeroed and leaves the map. A page whose
placement word no geometry gives a place does not translate. -/
def State.unseal (s : State) : State :=
  let v := s.service
  match s.named (v.arg 0 1 % 64 + 64 * (v.arg 2 2 % 1024)) with
  | none => s.respond 2 []
  | some l =>
    match s.page l.ctx (v.arg 8 8) with
    | none => s.respond 2 []
    | some p =>
      match p.place p.va with
      | none => s.respond (if (pteWord p.pte).hc == 3 then 5 else 2) []
      | some d =>
        let holds := fun (f : Nat × BitVec 128 × Nat) => (geometry f.2.1).holds f.2.2 f.1 d
        if s.sealedFrames.any holds then
          State.respond { (s.sealedFrames.filter holds).foldl State.zeroFrame (s.zeroFrame (pteFrame p.pte, p.geo, p.size)) with
            sealedFrames := s.sealedFrames.filter fun f => !holds f } 0 []
        else s.respond 5 []

/-- UNSEAL (R428). -/
def execUnseal (s : State) : Result := .next (s.serveCmd 5 16 State.unseal)

/-! ### The black box and firmware (R425, R434) -/

/-- The 64 bytes of a record. -/
def BoxRec.bytes (b : BoxRec) : List Byte :=
  le 8 b.gt ++ le 2 (Config.boxKind b.kind).toNat ++ le 2 b.source ++ (List.range 52).map fun i => Config.freeByte (b.data + i)

/-- Records from the oldest. -/
def State.bbread (s : State) : State :=
  let v := s.service
  let n := v.arg 4 4
  if n == 0 || 511 < n then s.respond 2 [] else s.respond 0 (((v.box.drop (v.arg 0 4)).take n).flatMap BoxRec.bytes)

/-- BBREAD (R434). -/
def execBbread (s : State) : Result := .next (s.serveCmd 6 8 State.bbread)

/-- Does an image pass the checks of R425? -/
def Service.accepts (v : Service) (img : List Byte) : Bool := Config.imageSigned img && decide (v.rollback ≤ Config.imageVersion img)

/-- Read an image from the host, check it and store it. -/
def State.fwload (s : State) : State :=
  let v := s.service
  let a := v.arg 0 8
  let n := v.arg 8 8
  if n == 0 || 2 ^ 26 < n || !s.hostOk a n then s.respond 2 []
  else
    let img := s.outside.host.getN a n
    if v.accepts img then State.respond { s with service := { v with stored := img } } 0 [] else s.respond 6 []

/-- FWLOAD (R425, R430). -/
def execFwload (s : State) : Result := .next (s.serveCmd 7 16 State.fwload)

/-! ### Resets (R4, R259, R425; assumption 18) -/

/-- What lies outside the part stays; nothing that was under way is left. -/
def Outside.kept (o : Outside) : Outside := { o with unacked := [], acks := [], reply := .none }

/-- The boot ROM: a stored image that passes the checks starts; one that fails leaves the part in recovery. -/
def Service.boot (v : Service) : Service :=
  let base := { Service.reset with firmware := v.firmware, stored := v.stored, rollback := v.rollback, recovery := v.recovery,
                                   boots := v.boots + 1 }
  if v.stored.isEmpty then base
  else if v.accepts v.stored then { base with firmware := v.stored, recovery := false }
  else { base with recovery := true }

/-- A core group leaves service (R433): its bit of SVCSTAT clears, replace-me sets. -/
def State.outOfService (s : State) (g : Nat) : State :=
  if 24 ≤ g || s.retired.contains g then s
  else { s with retired := s.retired ++ [g], sys := { s.sys with svcstat := (s.sys.svcstat &&& ~~~(1#32 <<< g)) ||| 0x80000000 } }

/-- The lowest core of a group. -/
def groupCore (g : Nat) : Nat := coreAt (g / 12) (2 * (g % 12 / 3)) (4 * (g % 3))

/-- Retire a group, with its black-box record (R433, R434); one retired before stays as it is. -/
def State.retireGroup (s : State) (g : Nat) : State :=
  if 24 ≤ g || s.retired.contains g then s else (s.outOfService g).blackBox 1 (groupCore g)

/-- COLD_RESET (R4): every register takes its reset value, global time starts at 0, and the groups that the fuse map marks are retired
(R433), each with its record after the reset's (R434). The model's own fields go on. -/
def execColdReset (s : State) : Result :=
  .next (s.outside.fuses.foldl State.retireGroup (State.blackBox { State.reset with
    cycle := s.cycle, skews := s.skews, service := s.service.boot, outside := s.outside.kept, nextId := s.nextId,
    issues := s.issues, rr := s.rr, schedule := s.schedule } 4 0))

/-- The counters, which only cold reset clears (R416), and what the parts in service and their clocks stand at. -/
def SysRegs.warm (r : SysRegs) : SysRegs :=
  { SysRegs.reset with frlate := r.frlate, corrcnt := r.corrcnt, unccnt := r.unccnt, msgdrop := r.msgdrop,
                       hostviol := r.hostviol, peerdrop := r.peerdrop, pinover := r.pinover, svcstat := r.svcstat,
                       clkstat := r.clkstat }

/-- WARM_RESET (R259, R434): global time, generations, memory, the security block's state and the black box stay. -/
def execWarmReset (s : State) : Result :=
  let t := s.l2.foldl State.evict s
  .next (State.blackBox { State.reset with
    gt := s.gt, cycle := s.cycle, skews := s.skews, sys := s.sys.warm, gens := s.gens, hbm := t.hbm, leases := s.leases,
    ev := s.ev, poison := s.poison, sealedFrames := s.sealedFrames,
    lineSlots := s.lineSlots.filter fun e => match e.1 with
      | .line _ => true
      | _ => false,
    retired := s.retired,
    service := s.service, outside := s.outside.kept, nextId := s.nextId, issues := s.issues, rr := s.rr,
    schedule := s.schedule } 4 0)

/-! ### Errors and retirement (R431, R433) -/

/-- SOFT_ERROR_CORRECTED (R431). -/
def execSoftErrorCorrected (s : State) : Result := .next { s with sys := { s.sys with corrcnt := countUp s.sys.corrcnt } }

/-- The byte that an error site names, if it holds memory; and the core or slice that it lies at. -/
def State.site (s : State) : ErrorSite → Option Target × Nat
  | .memory k => (if k < 384 * 2 ^ 26 then some (.line (k * 32)) else none, sliceOf (k * 32) % 192)
  | .blockSram c k b o =>
    (match s.block? c k b with
     | some bl => (if o * 32 < bl.size then some (.sram c k b (o * 32)) else none, bl.home)
     | none => (none, 0))
  | .frame c k o =>
    (match s.cluster? c k with
     | some _ => (some (.frame c k (o * 32)), (s.targetCore (.frame c k (o * 32))).getD 0)
     | none => (none, 0))
  | .press c k b o =>
    (match s.block? c k b, s.launch? c with
     | some bl, some l => (if o * 32 < 128 * l.region then some (.mx c k b (o * 32)) else none, bl.home)
     | _, _ => (none, 0))
  | .tile c k b t o =>
    (match s.block? c k b with
     | some bl => (if t < bl.tiles.length ∧ o < 1024 then some (.mx c k b (2 ^ 32 + t * 2 ^ 15 + o * 32)) else none, bl.home)
     | none => (none, 0))
  | .other core => (none, core)

/-- UNCORRECTABLE_ERROR (R431, R434): a sector of memory is marked; an error in an SRAM that holds none, or a copy of one, is counted
and recorded (assumption 69). -/
def execUncorrectableError (at_ : ErrorSite) (s : State) : Result :=
  let p := s.site at_
  let s := { s with sys := { s.sys with unccnt := countUp s.sys.unccnt } }
  .next (State.blackBox (match p.1 with
    | some t => s.markBad t
    | none => s) 2 p.2)

/-- Does a context have a placed cluster in a group? -/
def State.inGroup (s : State) (l : Launch) (g : Nat) : Bool :=
  s.clusters.any fun c => c.ctx == l.ctx && !c.retired && (c.cores l).any fun k => groupOf k == g

/-- The slices of a group hold no line any more; slice-pinned lines count as pin overflows. -/
def State.emptySlices (s : State) (g : Nat) : State :=
  (s.l2.filter fun (k : L2Line) => groupOf (sliceOf (k.line * 128)) == g).foldl (fun s k =>
    let s := s.evict k
    if k.locked.isSome then s.pinOverflow (sliceOf (k.line * 128)) else s) s

/-- CORE_GROUP_RETIRE (R433). -/
def execCoreGroupRetire (group : Nat) (s : State) : Result :=
  .next (if 24 ≤ group || s.retired.contains group then s
    else
      let s := (s.launches.filter fun (l : Launch) => s.inGroup l group).foldl (fun s l => State.killContext s l.ctx) s
      (s.emptySlices group).retireGroup group)

/-! ### Power and cooling (R435) -/

/-- CLOCK_GOVERNOR_STEP (R435): a multiple of 25 MHz from 800 to 2,100 MHz. -/
def execClockGovernorStep (die mhz : Nat) (s : State) : Result :=
  .next (if 2 ≤ die || mhz < 800 || 2100 < mhz || mhz % 25 != 0 then s
    else
      let v := (s.sys.clkstat &&& ~~~(0xFFFF#32 <<< (16 * die))) ||| (BitVec.ofNat 32 mhz <<< (16 * die))
      { s with sys := { s.sys with clkstat := v } })

/-- Is it an event of the dies, which none performs once both are stopped (R435)? What Rilcia serves, resets, errors, the governor and
the driver's register writes go on. -/
def onDies : Instr → Bool
  | .parityRefetch _ _ | .fairnessTimerExpiry _ _ | .watchdogExpiry _ _ | .snoozeExpiry _ _ | .rejectionAgeLimit _
  | .loadDataReturn _ | .homeWritePerform _ | .writeCompletionReturn _ | .fencePass _ _ | .l1FillServe _ _ | .leaseExpiry _ _
  | .sliceEviction _ | .tlbWalk _ _ _ | .group5EntryStart _ | .mmaKstep _ | .group5EntryComplete _ | .copyOpStart _ | .cpChunk _
  | .gatherProbePass _ | .gatherVector _ | .cpsealRecordWrite _ | .rstrpStart _ | .rstrpLineCopy _ | .rstrpPageShootdown _
  | .rstrpReturnEntry _ | .discardSliceWalk _ _ | .copyOpRetire _ | .sorterRunAccept _ _ | .basketEmit _ _ _ _ | .drainEmission _ _ _
  | .spillReadback _ _ _ | .basketAgeExpiry _ _ _ _ | .sortqReply _ _ | .domainStuck _ _ | .messageArrival _ | .handlerWarpForm _
  | .launchAccept | .clusterPlace _ | .blockRetire _ _ _ | .clusterRetire _ _ | .cmapBitSet _ _ | .engineStopAck _ | .contextSave
  | .hostWindowRead _ _ | .hostWindowWrite _ _ | .ownershipFlipComplete | .peerInboundWrite _ _ _ | .peerInboundRead _ _ _
  | .constantCacheFill _ _ _ | .instructionFetch _ _ _ | .wringerArrival _ => true
  | _ => false

/-- May the part perform the event: the dies run, or it is none of theirs? -/
def State.allows (s : State) (i : Instr) : Bool := !(s.stopped && onDies i)

/-- THERMAL_SHUTDOWN (R435): both dies stop, and nothing that they do goes on (`State.allows`). -/
def execThermalShutdown (s : State) : Result := .next (State.blackBox { s with stopped := true } 3 0)

end Sys2Proof.Machine
end

