-- ==== Sys2Proof/Machine/System.lean ====
section
/-! DEFINITION. System registers (R416 to R419, Table 4 of 19_system), `sysrd`, `syswr`, `tlbinv`, `cinv`, `gtime` and `hlt`
(R240, R241, R260, R418 to R420), register writes by the driver, and BAR 0 (R413). -/

namespace Sys2Proof.Machine

open Sys2Proof

/-! ### Reading -/

/-- A register of port `n / 4`. -/
def PortRegs.read (p : PortRegs) (i : Nat) : Nat := if i == 0 then p.base.toNat else if i == 1 then p.limit.toNat else p.ctx.toNat

/-- A register of a launch queue. -/
def QRegs.read (q : QRegs) (i : Nat) : Nat :=
  if i == 0 then q.base.toNat else if i == 1 then q.size.toNat else if i == 2 then q.wr.toNat
  else if i == 3 then q.rd.toNat else q.ctl.toNat

/-- A register of a heap window. -/
def HeapRegs.read (h : HeapRegs) (i : Nat) : Nat :=
  if i == 0 then h.base.toNat else if i == 1 then h.limit.toNat else if i == 2 then h.off.toNat
  else if i == 3 then h.geo.toNat else h.ctl.toNat

/-- A register of a context's bank, by number. -/
def CtxRegs.read (b : CtxRegs) (n : Nat) : Nat :=
  if n == 0x400 then b.ptroot.toNat else if n == 0x401 then b.gtbase.toNat else if n == 0x402 then b.bsbase.toNat
  else (b.heap.getD ((n - 0x408) / 8) HeapRegs.reset).read (n % 8)

/-- The device-wide registers that stand alone, in the order of their numbers. -/
def SysRegs.table (r : SysRegs) (gtnow : Nat) : List (Nat × Nat) :=
  [(0x000, r.nbv.toNat), (0x001, r.lease.toNat), (0x002, r.bage.toNat), (0x003, r.fairt.toNat), (0x004, r.wdog.toNat),
   (0x005, r.dbgctl.toNat), (0x006, r.slpin.toNat), (0x007, r.pdeadline.toNat), (0x010, r.tsbase.toNat),
   (0x011, r.tssize.toNat), (0x012, r.tsloc.toNat), (0x013, r.tsgeo.toNat), (0x018, r.frbase.toNat),
   (0x019, r.frsize.toNat), (0x01A, r.frtail.toNat), (0x01B, r.frhead.toNat), (0x01C, r.frstat.toNat),
   (0x01D, r.frlate.toNat), (0x01E, r.frans0.toNat), (0x01F, r.frans1.toNat), (0x020, r.prq.toNat),
   (0x021, r.pimg.toNat), (0x022, r.pisz.toNat), (0x028, r.ownf0.toNat), (0x029, r.ownf1.toNat),
   (0x02A, r.hwinbase.toNat), (0x02B, r.hwinctx.toNat), (0x02C, r.kill.toNat), (0x02D, r.crst.toNat),
   (0x030, r.corrcnt.toNat), (0x031, r.unccnt.toNat), (0x032, r.msgdrop.toNat), (0x033, r.hostviol.toNat),
   (0x034, r.peerdrop.toNat), (0x035, r.svcstat.toNat), (0x036, r.clkstat.toNat), (0x038, gtnow),
   (0x039, r.mbdoor.toNat), (0x03A, r.mbstat.toNat)]

/-- The value of a register, for a context's bank (R416, R417). -/
def State.readReg (s : State) (ctx n : Nat) : Nat :=
  if n < 0x040 then
    (match (s.sys.table (s.gtOf 384)).find? fun e => e.1 == n with
     | some e => e.2
     | none => 0)
  else if n < 0x060 then (s.port ((n - 0x040) / 4)).read (n % 4)
  else if n < 0x400 then (s.queueRegs ((n - 0x100) / 8)).read (n % 8)
  else if n < 0x600 then (s.bank ctx).read n
  else (s.sys.pinover.getD (n - 0x600) 0).toNat

/-! ### Writing -/

/-- A value with the bits outside [lo, hi] ignored (R4). -/
def field64 (v : DWord) (hi lo : Nat) : DWord := BitVec.ofNat 64 (fieldAt v hi lo)
def field32 (v : DWord) (hi lo : Nat) : Word := BitVec.ofNat 32 (fieldAt v hi lo)

/-- A write of NBV: 0 changes nothing (R146). -/
def State.writeNbv (s : State) (v : DWord) : State :=
  if v.toNat % 4 == 0 then s else { s with sys := { s.sys with nbv := field32 v 1 0 } }

/-- Unlock the lines beyond the ways reserved in their set: the latest of the list (assumption 19). -/
def unlockExtra (ways : Nat) : List L2Line → List L2Line
  | [] => []
  | k :: ks =>
    let ks := unlockExtra ways ks
    let same := ks.filter fun (l : L2Line) =>
      l.locked.isSome && sliceOf (l.line * 128) == sliceOf (k.line * 128) && l2SetOf l.line == l2SetOf k.line
    (if k.locked.isSome && decide (ways ≤ same.length) then { k with locked := none } else k) :: ks

/-- A write of SLPIN: lines in the ways given up are unlocked (R216). -/
def State.writeSlpin (s : State) (v : DWord) : State :=
  let s := { s with sys := { s.sys with slpin := field32 v 3 0 } }
  { s with l2 := unlockExtra s.sys.ways s.l2 }

/-- A write of a register of table space or of the ring's base: records that waited may now be written (R252, R465). -/
def State.writeSpace (s : State) (r : SysRegs) : State := State.flushRecs { s with sys := r }

/-- A write of a register of a port. -/
def PortRegs.write (p : PortRegs) (i : Nat) (v : DWord) : PortRegs :=
  if i == 0 then { p with base := field64 v 56 16 } else if i == 1 then { p with limit := field64 v 56 16 }
  else { p with ctx := field32 v 15 0 }

/-- A write of a register of a queue. -/
def QRegs.write (q : QRegs) (i : Nat) (v : DWord) : QRegs :=
  if i == 0 then { q with base := field64 v 39 8 } else if i == 1 then { q with size := field32 v 3 0 }
  else if i == 2 then { q with wr := field32 v 31 0 } else { q with ctl := field32 v 1 0 }

/-- A write of a register of a heap window. -/
def HeapRegs.write (h : HeapRegs) (i : Nat) (v : DWord) : HeapRegs :=
  if i == 0 then { h with base := field64 v 56 16 } else if i == 1 then { h with limit := field64 v 56 16 }
  else if i == 2 then { h with off := field64 v 30 0 } else if i == 3 then { h with geo := field32 v 31 6 }
  else { h with ctl := field32 v 1 0 }

/-- A write of a register of a context's bank. The spec gives no bit places for GTBASE and BSBASE; those that their alignments
leave are kept (assumption 70). -/
def CtxRegs.write (b : CtxRegs) (n : Nat) (v : DWord) : CtxRegs :=
  if n == 0x400 then { b with ptroot := field64 v 39 21 } else if n == 0x401 then { b with gtbase := field64 v 56 10 }
  else if n == 0x402 then { b with bsbase := field64 v 56 19 }
  else { b with heap := modAt b.heap ((n - 0x408) / 8) fun h => h.write (n % 8) v }

/-- A write of a device-wide register that stands alone, as its own rule states. -/
def State.writeAlone (s : State) (n : Nat) (v : DWord) : State :=
  let r := s.sys
  match n with
  | 0x000 => s.writeNbv v
  | 0x001 => { s with sys := { r with lease := field32 v 3 0 } }
  | 0x002 => { s with sys := { r with bage := field32 v 15 0 } }
  | 0x003 => { s with sys := { r with fairt := field32 v 15 0, fairWas := (s.cycle, r.fairt) :: r.fairWas } }
  | 0x004 => { s with sys := { r with wdog := field32 v 5 0, wdogWas := (s.cycle, r.wdog) :: r.wdogWas } }
  | 0x005 => { s with sys := { r with dbgctl := field32 v 1 0 } }
  | 0x006 => s.writeSlpin v
  | 0x007 => { s with sys := { r with pdeadline := field32 v 23 0 } }
  | 0x010 => s.writeSpace { r with tsbase := field64 v 56 16 }
  | 0x011 => s.writeSpace { r with tssize := field64 v 40 16 }
  | 0x012 => s.writeSpace { r with tsloc := field64 v 30 0 }
  | 0x013 => s.writeSpace { r with tsgeo := field64 v 63 12 }
  | 0x018 => s.writeSpace { r with frbase := field64 v 39 5 }
  | 0x019 => s.writeFrsize (field32 v 31 0)
  | 0x01B => s.writeFrhead (field32 v 31 0)
  | 0x01C => s.writeFrstat (field32 v 31 0)
  | 0x01E => { s with sys := { r with frans0 := field64 v 56 16 ||| field64 v 1 0 } }
  | 0x01F => s.frans v (v.getLsbD 16)
  | 0x020 => s.writePrq (field32 v 31 0)
  | 0x021 => { s with sys := { r with pimg := field64 v 39 12 } }
  | 0x022 => { s with sys := { r with pisz := field32 v 31 0 } }
  | 0x028 => { s with sys := { r with ownf0 := field64 v 56 16 } }
  | 0x029 => s.writeOwnf1 (field32 v 31 0)
  | 0x02A => { s with sys := { r with hwinbase := v } }
  | 0x02B => { s with sys := { r with hwinctx := field32 v 5 0 } }
  | 0x02C => s.writeKill (field32 v 31 0)
  | 0x02D => s.writeCrst v
  | 0x039 => s.writeMbdoor (field32 v 31 0)
  | _ => s

/-- A write of a register that may be written (R416, R419). One of the heap window is in force at once (R234; DESIGN CHOICE,
assumption 93). -/
def State.writeReg (s : State) (ctx n : Nat) (v : DWord) : State :=
  if n < 0x040 then s.writeAlone n v
  else if n < 0x060 then { s with sys := { s.sys with ports := modAt s.sys.ports ((n - 0x040) / 4) fun p => p.write (n % 4) v } }
  else if n < 0x400 then s.modQueue ((n - 0x100) / 8) fun q => q.write (n % 8) v
  else { s with banks := modAt s.banks ctx fun b => b.write n v }

/-- The same, of any number: unassigned numbers and read-only registers are left alone. -/
def State.driverWrite (s : State) (ctx n : Nat) (v : DWord) : State :=
  match sysInfo n with
  | some i => if i.ro then s else s.writeReg ctx n v
  | none => s

/-- NBV_WRITE (R146). -/
def execNbvWrite (w : Word) (s : State) : Result := .next (s.driverWrite 0 0x000 (w.zeroExtend 64))

/-- LEASE_WRITE (R265). -/
def execLeaseWrite (w : Word) (s : State) : Result := .next (s.driverWrite 0 0x001 (w.zeroExtend 64))

/-- SLPIN_WRITE (R216). -/
def execSlpinWrite (w : Word) (s : State) : Result := .next (s.driverWrite 0 0x006 (w.zeroExtend 64))

/-- SYSTEM_REGISTER_WRITE (R416). -/
def execSystemRegisterWrite (reg : BitVec 12) (ctx : Nat) (w : DWord) (s : State) : Result :=
  .next (s.driverWrite ctx reg.toNat w)

/-! ### sysrd, syswr (R418, R419) -/

/-- Registers of the operand: a pair for n64. -/
def sysRegs (o : ROps) : Nat := o.ty.regs

def execSysrd (g : Guard) (o : ROps) (s : State) : Result :=
  issue g s [(o.d, sysRegs o)] (fun _ => true) true fun x =>
    let v := x.s.readReg x.w.ctx o.mod.toNat
    x.next x.s (x.w.write o.d (sysRegs o) (x.ex.map fun i => (i, v)))

/-- The instruction completes, and the write then takes effect as its register's rule states. -/
def execSyswr (g : Guard) (o : ROps) (s : State) : Result :=
  issue g s [(o.a, sysRegs o)] (fun _ => true) true fun x =>
    if x.ex.isEmpty then x.next x.s x.w
    else x.released 2 ((x.next x.s x.w).writeReg x.w.ctx o.mod.toNat (BitVec.ofNat 64 (x.read x.lead o.a (sysRegs o))))

/-! ### tlbinv and cinv (R240, R241) -/

/-- What a `tlbinv` selects: every context or one, and a range of addresses. -/
structure InvSel where
  all : Bool
  ctx : Nat
  lo : Nat
  hi : Nat
  deriving DecidableEq, Repr

/-- Does it select a byte of a context? -/
def InvSel.hits (k : InvSel) (ctx va : Nat) : Bool := (k.all || k.ctx == ctx) && decide (k.lo ≤ va) && decide (va < k.hi)

/-- Remove the entries selected: those whose pages overlap the range. -/
def State.dropSel (s : State) (k : InvSel) : State :=
  { s with tlbs := s.tlbs.filter fun t =>
      !((k.all || t.ctx == k.ctx) && decide (k.lo < k.hi) && decide (t.va < k.hi) && decide (k.lo < t.va + t.size)) }

/-- The pages whose entries the selection removes: context, first address, last plus one. -/
def State.pagesHit (s : State) (k : InvSel) : List (Nat × Nat × Nat) :=
  ((s.tlbs.filter fun t => (k.all || t.ctx == k.ctx) && decide (k.lo < k.hi) && decide (t.va < k.hi) && decide (k.lo < t.va + t.size)).map
    fun t => (t.ctx, t.va, t.va + t.size)).dedup

/-- Have the accesses before `upto` that translated with a removed entry, or that the selection names, been performed? -/
def State.drained (s : State) (k : InvSel) (upto : Nat) (pages : List (Nat × Nat × Nat)) : Bool :=
  let hits := fun (ctx va : Nat) => k.hits ctx va || pages.any fun p => p.1 == ctx && decide (p.2.1 ≤ va) && decide (va < p.2.2)
  !(s.reqs.any fun (r : Req) => decide (r.id < upto) && r.pending && hits r.ctx r.va) &&
    !(s.fills.any fun f => decide (f.id < upto) && hits f.ctx f.va) && !(s.openPieces.any fun p => hits p.1 p.2.va) &&
    !(s.cwaits.any fun (c : CWait) => c.dev.isSome && hits c.ctx c.va)

/-- The entries go at the first issue; the path is held until the accesses under way then are performed. -/
def Iss.invalidate (x : Iss) (k : InvSel) : State :=
  if x.ex.isEmpty then x.next x.s x.w
  else
    match (match x.w.holdAt x.pc with
      | some (.drain act upto pages) => if act == maskOf x.act then some (upto, pages) else none
      | _ => none) with
    | some d => if x.s.drained k d.1 d.2 then x.next x.s x.w else x.hold
    | none =>
      let s := x.s.dropSel k
      let pages := x.s.pagesHit k
      if s.drained k s.nextId pages then x.next s x.w
      else s.modWarp x.w.core x.w.slot fun w => w.setHold x.pc (.drain (maskOf x.act) s.nextId pages)

def execTlbinvCtx (g : Guard) (_o : ROps) (s : State) : Result :=
  issue g s [] (fun _ => true) true fun x => x.invalidate { all := false, ctx := x.w.ctx, lo := 0, hi := 2 ^ 57 }

def execTlbinvRange (g : Guard) (o : ROps) (s : State) : Result :=
  issue g s ([(o.a, 2)] ++ o.b.use 1) (fun _ => true) true fun x =>
    let lo := x.read x.lead o.a 2 / 65536 * 65536
    x.invalidate { all := false, ctx := x.w.ctx, lo := lo, hi := lo + 65536 * (x.readB x.lead o.b 1 % 2 ^ 20) }

def execTlbinvAll (g : Guard) (_o : ROps) (s : State) : Result :=
  issue g s [] (fun _ => true) true fun x => x.invalidate { all := true, ctx := 0, lo := 0, hi := 2 ^ 57 }

def execCinv (g : Guard) (o : ROps) (s : State) : Result :=
  issue g s [] (fun _ => true) true fun x =>
    if x.ex.isEmpty then x.next x.s x.w
    else
      x.next { x.s with icache := if o.mod.getLsbD 0 then [] else x.s.icache,
                        ccache := if o.mod.getLsbD 1 then [] else x.s.ccache } x.w

/-! ### gtime (R260), hlt (R420) -/

/-- The path waits while its core's copy of GT, which may lag another core's by 2 ns (R259), lies below what a lane has already
been given (R260; assumption 6). -/
def execGtime (g : Guard) (o : ROps) (s : State) : Result :=
  issue g s [(o.d, 2)] (fun _ => true) false fun x =>
    let t := x.s.coreGt x.w.core
    if x.ex.any fun i => decide (t < (x.lane i).seenGt) then x.hold
    else x.next x.s ((x.w.write o.d 2 (x.ex.map fun i => (i, t))).modLanes x.ex fun _ l => { l with seenGt := t })

/-- The context halts with no trap code and no record; byte 1 of the trap word holds n, and vector 6 is raised. -/
def execHlt (g : Guard) (o : ROps) (s : State) : Result :=
  issue g s [] (fun _ => true) true fun x =>
    if x.ex.isEmpty then x.next x.s x.w
    else
      let s := x.s.modLaunch x.w.ctx fun l => { l with dtrap := setByte l.dtrap 1 (o.mod.extractLsb' 0 8).toNat }
      let s := State.interrupt (s.halt x.w.ctx) 6
      { s with issues := s.issues + 1 }

/-! ### BAR 0 (R413, Table 1) -/

/-- The register at an offset of BAR 0, with its context: device-wide ones, then the banks. -/
def barReg (o : Nat) : Option (Nat × Nat) :=
  let n := if o < 0x100000 then o / 8 else 0x400 + (o - 0x100000) % 0x10000 / 8
  let banked := decide (0x400 ≤ n) && decide (n < 0x600)
  if o < 0x500000 && (sysInfo n).isSome && banked == decide (0x100000 ≤ o) then some ((o - 0x100000) / 0x10000, n) else none

/-- One byte read through BAR 0; what the spec assigns nothing to reads zero. -/
def State.barByte (s : State) (o : Nat) : Byte :=
  if o < 0x500000 then
    match barReg o with
    | some r => BitVec.ofNat 8 (s.readReg r.1 r.2 / 256 ^ (o % 8))
    | none => 0
  else if 0x7F0000 ≤ o && o < 0x7F8000 then s.service.request.get (o - 0x7F0000)
  else if 0x7F8000 ≤ o && o < 0x800000 then s.service.response.get (o - 0x7F8000)
  else if 0x800000 ≤ o && o < 0x1800000 then
    (s.debugRead ((o - 0x800000) / 0x40000) ((o - 0x800000) % 0x40000) 1).headD 0
  else 0

/-- A host read of BAR 0. -/
def State.barRead (s : State) (o n : Nat) : State := s.answerWith (.data ((List.range n).map fun i => s.barByte (o + i)))

/-- A host write of BAR 0: a register, written whole; the request buffer; the debug pages. -/
def State.barWrite (s : State) (o : Nat) (data : List Byte) : State :=
  if o < 0x500000 then
    match barReg o with
    | some r =>
      let need := match sysInfo r.2 with
        | some i => if i.wide then 8 else 4
        | none => 8
      if o % 8 == 0 && decide (need ≤ data.length) then s.driverWrite r.1 r.2 (BitVec.ofNat 64 (bytesToNat (data.take need)))
      else s
    | none => s
  else if 0x7F0000 ≤ o && o + data.length ≤ 0x7F8000 then
    { s with service := { s.service with request := s.service.request.setN (o - 0x7F0000) data } }
  else if 0x800000 ≤ o && o < 0x1800000 then s.debugWrite ((o - 0x800000) / 0x40000) ((o - 0x800000) % 0x40000) data
  else s

end Sys2Proof.Machine
end

