-- ==== Sys2Proof/Machine/Dispatch.lean ====
section
/-! DEFINITION. Dispatch: one arm per instruction and event, each a direct call of its meaning. -/

namespace Sys2Proof.Machine

open Sys2Proof

/-- The meaning of an instruction row at the issue of the path that `State.issuing` names, and of an event row of the part, the
driver and the surroundings. -/
def exec (i : Instr) (s : State) : Host.Outcome State Fault Refusal :=
  match i with
  | .add g o => Sys2Proof.Machine.execAdd g o s
  | .sub g o => Sys2Proof.Machine.execSub g o s
  | .mul g o => Sys2Proof.Machine.execMul g o s
  | .mulhi g o => Sys2Proof.Machine.execMulhi g o s
  | .mad g o => Sys2Proof.Machine.execMad g o s
  | .madhi g o => Sys2Proof.Machine.execMadhi g o s
  | .min g o => Sys2Proof.Machine.execMin g o s
  | .max g o => Sys2Proof.Machine.execMax g o s
  | .abs g o => Sys2Proof.Machine.execAbs g o s
  | .neg g o => Sys2Proof.Machine.execNeg g o s
  | .sad g o => Sys2Proof.Machine.execSad g o s
  | .dot4 g o => Sys2Proof.Machine.execDot4 g o s
  | .lea g o => Sys2Proof.Machine.execLea g o s
  | .and g o => Sys2Proof.Machine.execAnd g o s
  | .or g o => Sys2Proof.Machine.execOr g o s
  | .xor g o => Sys2Proof.Machine.execXor g o s
  | .bitop g o => Sys2Proof.Machine.execBitop g o s
  | .shl g o => Sys2Proof.Machine.execShl g o s
  | .shr g o => Sys2Proof.Machine.execShr g o s
  | .sra g o => Sys2Proof.Machine.execSra g o s
  | .rotl g o => Sys2Proof.Machine.execRotl g o s
  | .rotr g o => Sys2Proof.Machine.execRotr g o s
  | .clz g o => Sys2Proof.Machine.execClz g o s
  | .ctz g o => Sys2Proof.Machine.execCtz g o s
  | .popc g o => Sys2Proof.Machine.execPopc g o s
  | .brev g o => Sys2Proof.Machine.execBrev g o s
  | .bfx g o => Sys2Proof.Machine.execBfx g o s
  | .bfi g o => Sys2Proof.Machine.execBfi g o s
  | .sel g o => Sys2Proof.Machine.execSel g o s
  | .mov g o => Sys2Proof.Machine.execMov g o s
  | .movi g o => Sys2Proof.Machine.execMovi g o s
  | .addi g o => Sys2Proof.Machine.execAddi g o s
  | .shfl g o => Sys2Proof.Machine.execShfl g o s
  | .voteAny g o => Sys2Proof.Machine.execVoteAny g o s
  | .voteAll g o => Sys2Proof.Machine.execVoteAll g o s
  | .voteMask g o => Sys2Proof.Machine.execVoteMask g o s
  | .matchAny g o => Sys2Proof.Machine.execMatchAny g o s
  | .matchAll g o => Sys2Proof.Machine.execMatchAll g o s
  | .rdlane g o => Sys2Proof.Machine.execRdlane g o s
  | .wscan g o => Sys2Proof.Machine.execWscan g o s
  | .wred g o => Sys2Proof.Machine.execWred g o s
  | .fadd g o => Sys2Proof.Machine.execFadd g o s
  | .fsub g o => Sys2Proof.Machine.execFsub g o s
  | .fmul g o => Sys2Proof.Machine.execFmul g o s
  | .ffma g o => Sys2Proof.Machine.execFfma g o s
  | .fmin g o => Sys2Proof.Machine.execFmin g o s
  | .fmax g o => Sys2Proof.Machine.execFmax g o s
  | .frcp g o => Sys2Proof.Machine.execFrcp g o s
  | .frsq g o => Sys2Proof.Machine.execFrsq g o s
  | .fsqrt g o => Sys2Proof.Machine.execFsqrt g o s
  | .fex2 g o => Sys2Proof.Machine.execFex2 g o s
  | .flg2 g o => Sys2Proof.Machine.execFlg2 g o s
  | .fsin g o => Sys2Proof.Machine.execFsin g o s
  | .fcos g o => Sys2Proof.Machine.execFcos g o s
  | .frnd g o => Sys2Proof.Machine.execFrnd g o s
  | .fscale g o => Sys2Proof.Machine.execFscale g o s
  | .fdot2 g o => Sys2Proof.Machine.execFdot2 g o s
  | .fclass g o => Sys2Proof.Machine.execFclass g o s
  | .fclassTake g o => Sys2Proof.Machine.execFclassTake g o s
  | .cvt g o => Sys2Proof.Machine.execCvt g o s
  | .pack2 g o => Sys2Proof.Machine.execPack2 g o s
  | .dtdec g o => Sys2Proof.Machine.execDtdec g o s
  | .dtenc g o => Sys2Proof.Machine.execDtenc g o s
  | .icmp g o => Sys2Proof.Machine.execIcmp g o s
  | .fcmp g o => Sys2Proof.Machine.execFcmp g o s
  | .pset g o => Sys2Proof.Machine.execPset g o s
  | .btst g o => Sys2Proof.Machine.execBtst g o s
  | .pmovToReg g o => Sys2Proof.Machine.execPmovToReg g o s
  | .pmovToPred g o => Sys2Proof.Machine.execPmovToPred g o s
  | .ld g o => Sys2Proof.Machine.execLd g o s
  | .st g o => Sys2Proof.Machine.execSt g o s
  | .ldc g o => Sys2Proof.Machine.execLdc g o s
  | .atom g o => Sys2Proof.Machine.execAtom g o s
  | .red g o => Sys2Proof.Machine.execRed g o s
  | .pref g o => Sys2Proof.Machine.execPref g o s
  | .bra g o => Sys2Proof.Machine.execBra g o s
  | .brx g o => Sys2Proof.Machine.execBrx g o s
  | .call g o => Sys2Proof.Machine.execCall g o s
  | .ret g o => Sys2Proof.Machine.execRet g o s
  | .loop g o => Sys2Proof.Machine.execLoop g o s
  | .loopExit g o => Sys2Proof.Machine.execLoopExit g o s
  | .exit g o => Sys2Proof.Machine.execExit g o s
  | .joinEnrol g o => Sys2Proof.Machine.execJoinEnrol g o s
  | .joinWait g o => Sys2Proof.Machine.execJoinWait g o s
  | .joinLeave g o => Sys2Proof.Machine.execJoinLeave g o s
  | .yield g o => Sys2Proof.Machine.execYield g o s
  | .nop g o => Sys2Proof.Machine.execNop g o s
  | .brk g o => Sys2Proof.Machine.execBrk g o s
  | .wait g o => Sys2Proof.Machine.execWait g o s
  | .fence g o => Sys2Proof.Machine.execFence g o s
  | .barArrive g o => Sys2Proof.Machine.execBarArrive g o s
  | .barWait g o => Sys2Proof.Machine.execBarWait g o s
  | .barSync g o => Sys2Proof.Machine.execBarSync g o s
  | .cbarArrive g o => Sys2Proof.Machine.execCbarArrive g o s
  | .cbarWait g o => Sys2Proof.Machine.execCbarWait g o s
  | .cbarSync g o => Sys2Proof.Machine.execCbarSync g o s
  | .sringPost g o => Sys2Proof.Machine.execSringPost g o s
  | .sringWait g o => Sys2Proof.Machine.execSringWait g o s
  | .rgn g o => Sys2Proof.Machine.execRgn g o s
  | .ppoint g o => Sys2Proof.Machine.execPpoint g o s
  | .trap g o => Sys2Proof.Machine.execTrap g o s
  | .launch g o => Sys2Proof.Machine.execLaunch g o s
  | .snooze g o => Sys2Proof.Machine.execSnooze g o s
  | .mma g o => Sys2Proof.Machine.execMma g o s
  | .tfill g o => Sys2Proof.Machine.execTfill g o s
  | .tfillId g o => Sys2Proof.Machine.execTfillId g o s
  | .tld g o => Sys2Proof.Machine.execTld g o s
  | .tst g o => Sys2Proof.Machine.execTst g o s
  | .tmovGet g o => Sys2Proof.Machine.execTmovGet g o s
  | .tmovPut g o => Sys2Proof.Machine.execTmovPut g o s
  | .tmask g o => Sys2Proof.Machine.execTmask g o s
  | .pbind g o => Sys2Proof.Machine.execPbind g o s
  | .pfill g o => Sys2Proof.Machine.execPfill g o s
  | .tbind g o => Sys2Proof.Machine.execTbind g o s
  | .cp g o => Sys2Proof.Machine.execCp g o s
  | .cp2d g o => Sys2Proof.Machine.execCp2d g o s
  | .gath g o => Sys2Proof.Machine.execGath g o s
  | .scat g o => Sys2Proof.Machine.execScat g o s
  | .probe g o => Sys2Proof.Machine.execProbe g o s
  | .unpin g o => Sys2Proof.Machine.execUnpin g o s
  | .rstrp g o => Sys2Proof.Machine.execRstrp g o s
  | .discard g o => Sys2Proof.Machine.execDiscard g o s
  | .cpseal g o => Sys2Proof.Machine.execCpseal g o s
  | .sortw g o => Sys2Proof.Machine.execSortw g o s
  | .sortqKey g o => Sys2Proof.Machine.execSortqKey g o s
  | .sortqAll g o => Sys2Proof.Machine.execSortqAll g o s
  | .sortd g o => Sys2Proof.Machine.execSortd g o s
  | .sortdKey g o => Sys2Proof.Machine.execSortdKey g o s
  | .sortc g o => Sys2Proof.Machine.execSortc g o s
  | .sortcJoin g o => Sys2Proof.Machine.execSortcJoin g o s
  | .msend g o => Sys2Proof.Machine.execMsend g o s
  | .mdone g o => Sys2Proof.Machine.execMdone g o s
  | .sysrd g o => Sys2Proof.Machine.execSysrd g o s
  | .syswr g o => Sys2Proof.Machine.execSyswr g o s
  | .tlbinvCtx g o => Sys2Proof.Machine.execTlbinvCtx g o s
  | .tlbinvRange g o => Sys2Proof.Machine.execTlbinvRange g o s
  | .tlbinvAll g o => Sys2Proof.Machine.execTlbinvAll g o s
  | .cinv g o => Sys2Proof.Machine.execCinv g o s
  | .gtime g o => Sys2Proof.Machine.execGtime g o s
  | .hlt g o => Sys2Proof.Machine.execHlt g o s
  | .parityRefetch core slot => Sys2Proof.Machine.execParityRefetch core slot s
  | .fairnessTimerExpiry core slot => Sys2Proof.Machine.execFairnessTimerExpiry core slot s
  | .watchdogExpiry core slot => Sys2Proof.Machine.execWatchdogExpiry core slot s
  | .snoozeExpiry core slot => Sys2Proof.Machine.execSnoozeExpiry core slot s
  | .rejectionAgeLimit core => Sys2Proof.Machine.execRejectionAgeLimit core s
  | .loadDataReturn req => Sys2Proof.Machine.execLoadDataReturn req s
  | .homeWritePerform req => Sys2Proof.Machine.execHomeWritePerform req s
  | .writeCompletionReturn req => Sys2Proof.Machine.execWriteCompletionReturn req s
  | .fencePass core slot => Sys2Proof.Machine.execFencePass core slot s
  | .l1FillServe core line => Sys2Proof.Machine.execL1FillServe core line s
  | .leaseExpiry core line => Sys2Proof.Machine.execLeaseExpiry core line s
  | .sliceEviction line => Sys2Proof.Machine.execSliceEviction line s
  | .tlbWalk core ctx va => Sys2Proof.Machine.execTlbWalk core ctx va s
  | .fransSuccess w => Sys2Proof.Machine.execFransSuccess w s
  | .fransFailure w => Sys2Proof.Machine.execFransFailure w s
  | .frheadWrite w => Sys2Proof.Machine.execFrheadWrite w s
  | .frsizeWrite w => Sys2Proof.Machine.execFrsizeWrite w s
  | .frstatOvfClear => Sys2Proof.Machine.execFrstatOvfClear s
  | .nbvWrite w => Sys2Proof.Machine.execNbvWrite w s
  | .leaseWrite w => Sys2Proof.Machine.execLeaseWrite w s
  | .slpinWrite w => Sys2Proof.Machine.execSlpinWrite w s
  | .systemRegisterWrite reg ctx w => Sys2Proof.Machine.execSystemRegisterWrite reg ctx w s
  | .group5EntryStart core => Sys2Proof.Machine.execGroup5EntryStart core s
  | .mmaKstep core => Sys2Proof.Machine.execMmaKstep core s
  | .group5EntryComplete core => Sys2Proof.Machine.execGroup5EntryComplete core s
  | .copyOpStart core => Sys2Proof.Machine.execCopyOpStart core s
  | .cpChunk op => Sys2Proof.Machine.execCpChunk op s
  | .gatherProbePass op => Sys2Proof.Machine.execGatherProbePass op s
  | .gatherVector op => Sys2Proof.Machine.execGatherVector op s
  | .cpsealRecordWrite op => Sys2Proof.Machine.execCpsealRecordWrite op s
  | .rstrpStart op => Sys2Proof.Machine.execRstrpStart op s
  | .rstrpLineCopy op => Sys2Proof.Machine.execRstrpLineCopy op s
  | .rstrpPageShootdown op => Sys2Proof.Machine.execRstrpPageShootdown op s
  | .rstrpReturnEntry op => Sys2Proof.Machine.execRstrpReturnEntry op s
  | .discardSliceWalk op slice => Sys2Proof.Machine.execDiscardSliceWalk op slice s
  | .copyOpRetire op => Sys2Proof.Machine.execCopyOpRetire op s
  | .sorterRunAccept core slot => Sys2Proof.Machine.execSorterRunAccept core slot s
  | .basketEmit ctx cluster stage key => Sys2Proof.Machine.execBasketEmit ctx cluster stage key s
  | .drainEmission ctx cluster stage => Sys2Proof.Machine.execDrainEmission ctx cluster stage s
  | .spillReadback ctx cluster arr => Sys2Proof.Machine.execSpillReadback ctx cluster arr s
  | .basketAgeExpiry ctx cluster stage key => Sys2Proof.Machine.execBasketAgeExpiry ctx cluster stage key s
  | .sortqReply core slot => Sys2Proof.Machine.execSortqReply core slot s
  | .domainStuck ctx cluster => Sys2Proof.Machine.execDomainStuck ctx cluster s
  | .messageArrival msg => Sys2Proof.Machine.execMessageArrival msg s
  | .handlerWarpForm core => Sys2Proof.Machine.execHandlerWarpForm core s
  | .clusterReset w => Sys2Proof.Machine.execClusterReset w s
  | .kill w => Sys2Proof.Machine.execKill w s
  | .hostQueuePublish queue wr => Sys2Proof.Machine.execHostQueuePublish queue wr s
  | .launchAccept => Sys2Proof.Machine.execLaunchAccept s
  | .clusterPlace ctx => Sys2Proof.Machine.execClusterPlace ctx s
  | .blockRetire ctx cluster bid => Sys2Proof.Machine.execBlockRetire ctx cluster bid s
  | .clusterRetire ctx cluster => Sys2Proof.Machine.execClusterRetire ctx cluster s
  | .cmapBitSet ctx cluster => Sys2Proof.Machine.execCmapBitSet ctx cluster s
  | .preemptSoft w => Sys2Proof.Machine.execPreemptSoft w s
  | .preemptHard w => Sys2Proof.Machine.execPreemptHard w s
  | .restore w => Sys2Proof.Machine.execRestore w s
  | .engineStopAck engine => Sys2Proof.Machine.execEngineStopAck engine s
  | .pdeadlineExpiry => Sys2Proof.Machine.execPdeadlineExpiry s
  | .contextSave => Sys2Proof.Machine.execContextSave s
  | .debugResumeWarp ctx => Sys2Proof.Machine.execDebugResumeWarp ctx s
  | .debugResumeAll ctx => Sys2Proof.Machine.execDebugResumeAll ctx s
  | .debugWindowWrite ctx offset data => Sys2Proof.Machine.execDebugWindowWrite ctx offset data s
  | .hostWindowRead offset size => Sys2Proof.Machine.execHostWindowRead offset size s
  | .hostWindowWrite offset data => Sys2Proof.Machine.execHostWindowWrite offset data s
  | .ownershipFlipToHost w => Sys2Proof.Machine.execOwnershipFlipToHost w s
  | .ownershipFlipToDevice w => Sys2Proof.Machine.execOwnershipFlipToDevice w s
  | .ownershipFlipComplete => Sys2Proof.Machine.execOwnershipFlipComplete s
  | .peerInboundWrite port addr data => Sys2Proof.Machine.execPeerInboundWrite port addr data s
  | .peerInboundRead port addr size => Sys2Proof.Machine.execPeerInboundRead port addr size s
  | .peerLinkDown port => Sys2Proof.Machine.execPeerLinkDown port s
  | .attest => Sys2Proof.Machine.execAttest s
  | .regcode => Sys2Proof.Machine.execRegcode s
  | .unregcode => Sys2Proof.Machine.execUnregcode s
  | .signhead => Sys2Proof.Machine.execSignhead s
  | .unseal => Sys2Proof.Machine.execUnseal s
  | .bbread => Sys2Proof.Machine.execBbread s
  | .fwload => Sys2Proof.Machine.execFwload s
  | .coldReset => Sys2Proof.Machine.execColdReset s
  | .warmReset => Sys2Proof.Machine.execWarmReset s
  | .softErrorCorrected => Sys2Proof.Machine.execSoftErrorCorrected s
  | .uncorrectableError site => Sys2Proof.Machine.execUncorrectableError site s
  | .coreGroupRetire group => Sys2Proof.Machine.execCoreGroupRetire group s
  | .clockGovernorStep die mhz => Sys2Proof.Machine.execClockGovernorStep die mhz s
  | .thermalShutdown => Sys2Proof.Machine.execThermalShutdown s
  | .constantCacheFill core ctx line => Sys2Proof.Machine.execConstantCacheFill core ctx line s
  | .instructionFetch core ctx line => Sys2Proof.Machine.execInstructionFetch core ctx line s
  | .wringerArrival msg => Sys2Proof.Machine.execWringerArrival msg s

end Sys2Proof.Machine
end

