-- ==== Sys2Proof/Machine/Step.lean ====
section
/-! DEFINITION. One step of the part and its surroundings: the turn that the schedule names, or the default one (assumption 2);
the choice of a warp by a quadrant (R82); fetching, checking and executing its instruction (R31). -/

namespace Sys2Proof.Machine

open Sys2Proof

/-! ### Issue (R31, R82) -/

/-- The view of the path that stands to issue in a slot, every active lane executing. -/
def State.standing (s : State) (core slot : Nat) : Option Iss :=
  ({ s with issuing := some (core, slot) } : State).iss ⟨0xFF, 0, 0, 0⟩

/-- A trap at check 4: ADDR is the address of the transfer, AUX the target (R34, R35). -/
def Iss.badTarget (x : Iss) (target : VAddr) (source : Nat) : State :=
  { x.s.takeTrap (x.s.record x.w.ctx 3 0 0x03 x.w.core x.w.slot x.lead source target.toNat (maskOf x.ex)) with
    issues := x.s.issues + 1 }

/-- What an instruction of a line fetched once more leaves (R32). -/
def correctedResult (ctx : Nat) : Result → Result
  | .next t => .next (t.corrected ctx)
  | r => r

/-- The warp of a slot tries to issue: it fetches, checks and executes its current path's instruction. -/
def State.tryWarp (s : State) (core slot : Nat) : Result :=
  match (s.steer core slot).standing core slot with
  | none => .next s
  | some x =>
    match x.fetch with
    | .miss => .next (x.askFetch [])
    | .trap code aux => .next { x.s.takeTrap (x.guarded.trapRec code aux x.guarded.lead) with issues := s.issues + 1 }
    | .parity => exec (.parityRefetch core slot) x.s
    | .illegalLine => .next (x.guarded.trap 0x02)
    | .badTarget target source => .next (x.guarded.badTarget target source)
    | .illegal => .next (x.guarded.trap 0x01)
    | .ok i => if x.refetched then correctedResult x.w.ctx (exec i x.cleared) else exec i x.s

/-- Warps in the order in which a quadrant chooses: those with an age of 64 first, then by formation (R82). -/
def Warp.rankKey (w : Warp) : Nat × Nat := (if w.ages.any fun a => decide (64 ≤ a.2) then 0 else 1, w.form)

/-- Insert by that order. -/
def insertRanked (w : Warp) : List Warp → List Warp
  | [] => [w]
  | v :: vs =>
    let a := w.rankKey
    let b := v.rankKey
    if a.1 < b.1 ∨ (a.1 = b.1 ∧ a.2 < b.2) then w :: v :: vs else v :: insertRanked w vs

/-- The warp slots of a quadrant, in that order. -/
def State.candidates (s : State) (core quad : Nat) : List Nat :=
  ((s.warps.filter fun w => w.core == core && w.slot / 16 == quad).foldl (fun l w => insertRanked w l) []).map fun w => w.slot

/-- The first that is ready issues; the others leave what their tries leave. -/
def issueFrom (core : Nat) : List Nat → State → Result
  | [], s => .next s
  | slot :: rest, s =>
    match s.tryWarp core slot with
    | .next t => if t.issues == s.issues then issueFrom core rest t else .next t
    | r => r

/-! ### The default turn (assumption 2) -/

/-- The steps of the part that the state gives occasion for. -/
def State.warpOffers (s : State) : List Instr :=
  s.warps.flatMap fun w =>
    [.snoozeExpiry w.core w.slot, .sortqReply w.core w.slot, .sorterRunAccept w.core w.slot,
     .fairnessTimerExpiry w.core w.slot, .watchdogExpiry w.core w.slot]

def State.memoryOffers (s : State) : List Instr :=
  (s.reqs.flatMap fun (r : Req) => [.homeWritePerform r.id, .loadDataReturn r.id, .writeCompletionReturn r.id]) ++
    (s.fills.map fun f => .l1FillServe f.core f.line) ++
    (s.cwaits.map fun (c : CWait) =>
      if c.fetch then .instructionFetch c.core c.ctx c.line else .constantCacheFill c.core c.ctx c.line) ++
    (s.packets.map fun (p : Packet) => .wringerArrival p.id) ++ s.msgs.map fun (m : Msg) => .messageArrival m.id

def State.engineOffers (s : State) : List Instr :=
  ((s.g5.map fun (e : G5Entry) => e.core).dedup.flatMap fun k => [.group5EntryComplete k, .group5EntryStart k, .mmaKstep k]) ++
    s.copyOps.flatMap fun (c : CopyOp) =>
      [.copyOpRetire c.id, .copyOpStart c.core, .cpChunk c.id, .gatherProbePass c.id, .gatherVector c.id,
       .cpsealRecordWrite c.id, .rstrpStart c.id, .rstrpReturnEntry c.id, .rstrpPageShootdown c.id, .rstrpLineCopy c.id] ++
        if c.opk == 7 then c.slices.map fun k => .discardSliceWalk c.id k else []

def State.clusterOffers (s : State) : List Instr :=
  s.clusters.flatMap fun c =>
    (match c.domain with
     | none => []
     | some d =>
       (d.threads.map fun b => .basketAgeExpiry c.ctx c.idx b.stage b.lane.key.toNat) ++
         (d.threads.flatMap fun b =>
           [.spillReadback c.ctx c.idx b.arr.toNat, .basketEmit c.ctx c.idx b.stage b.lane.key.toNat,
            .drainEmission c.ctx c.idx b.stage]) ++
         [.domainStuck c.ctx c.idx]) ++
      (match s.launch? c.ctx with
       | some l => (c.cores l).flatMap fun k => [.handlerWarpForm k, .rejectionAgeLimit k]
       | none => []) ++
      [.clusterRetire c.ctx c.idx, .cmapBitSet c.ctx c.idx]

def State.launchOffers (s : State) : List Instr :=
  (s.blocks.map fun (b : Block) => .blockRetire b.ctx b.cluster b.bid) ++ [.launchAccept] ++
    s.launches.map fun (l : Launch) => .clusterPlace l.ctx

def State.serviceOffers (s : State) : List Instr :=
  (match s.preempt with
   | none => []
   | some p => (match s.launch? p.ctx with
     | some l => (s.enginesOf l).map fun e => .engineStopAck e
     | none => []) ++ [.pdeadlineExpiry, .contextSave]) ++
    (if s.flipping.isSome then [.ownershipFlipComplete] else []) ++
    (if s.sys.mbstat.getLsbD 0 then [.attest, .regcode, .unregcode, .signhead, .unseal, .bbread, .fwload] else [])

def State.offers (s : State) : List Instr :=
  (s.memoryOffers ++ s.engineOffers ++ s.warpOffers ++ s.clusterOffers ++ s.launchOffers ++ s.serviceOffers).filter s.allows

/-- The first of them that changes anything. -/
def State.firstOffer (s : State) : List Instr → Option State
  | [] => none
  | e :: es =>
    match exec e s with
    | .next t => if t = s then s.firstOffer es else some t
    | _ => s.firstOffer es

/-- The quadrant that issues next: of those that hold a warp, the first at or after the rotation. -/
def State.nextQuad (s : State) : Option Nat :=
  (s.warps.map fun w => w.core * 4 + w.slot / 16).foldl (fun (best : Option Nat) q =>
    match best with
    | none => some q
    | some b => if (q + 768 - s.rr) % 768 < (b + 768 - s.rr) % 768 then some q else best) none

/-- The default turn: the first step that the state gives occasion for, else an issue. -/
def State.defaultTurn (s : State) : Result :=
  match s.firstOffer s.offers with
  | some t => .next t
  | none =>
    match s.nextQuad with
    | none => .next s
    | some q => issueFrom (q / 4) (s.candidates (q / 4) (q % 4)) { s with rr := (q + 1) % 768 }

/-! ### The step -/

/-- Is the constructor an event row, a step that no word encodes? -/
def isEvent (i : Instr) : Bool := i.body.isNone

/-- Carry out a turn's act. -/
def State.act (s : State) : Act → Result
  | .issue core quad => issueFrom core (s.candidates core quad) s
  | .event i => if isEvent i && s.allows i then exec i s else .next s
  | .barRead o n => .next (s.barRead o n)
  | .barWrite o data => .next (s.barWrite o data)
  | .hostMemory a data => .next { s with outside := { s.outside with host := s.outside.host.setN a data } }
  | .linkUp port => .next { s with outside := { s.outside with linkUp := s.outside.linkUp ||| (1#8 <<< port) } }
  | .part op => .next (s.doPart op)
  | .replace r => .next (if s.stopped then s else s.letGo r)
  | .idle => .next s

/-- Let time pass. -/
def State.pass (s : State) (ns cycles : Nat) : State := { s with gt := s.gt + ns, cycle := s.cycle + cycles }

/-- What the part notices after every act: quiescence and progress of the domains (R354, R360), a soft save that may begin
(R403), acknowledgements due (R424). -/
def State.noticed (s t : State) : State := State.acknowledge ((State.observe s t).beginSave)

/-- The end of a turn. -/
def State.turnEnd (s : State) : Result → Result
  | .next t => .next { s.noticed t with issuing := none }
  | r => r

/-- One step: the head of the schedule, or with none the default turn after 1 ns and one core cycle. -/
def step (s : State) : Host.Outcome State Fault Refusal :=
  match s.schedule with
  | t :: ts =>
    let s := State.pass { s with schedule := ts } t.ns t.cycles
    s.turnEnd (s.act t.act)
  | [] =>
    let s := s.pass 1 1
    s.turnEnd s.defaultTurn

/-! ### Placing a word where the next step fetches it -/

/-- A fetch line that holds a word in slot 0 and filler in the others, every slot a target, its parity right (R24 to R28,
R37). -/
def wordLine (w : Nat) : List Byte :=
  let slots := natToBytes 12 (w % 2 ^ 96) ++ (List.replicate 4 (natToBytes 12 0x0000415FFFFFFC007FC00000)).flatten
  let par := fun (i : Nat) => if (popcountN 96 (bytesToNat ((slots.drop (12 * i)).take 12))) % 2 == 1 then 2 ^ (9 + i) else 0
  let head := 0x1F + par 0 + par 1 + par 2 + par 3 + par 4
  natToBytes 4 (head + if popcountN 15 head % 2 == 1 then 2 ^ 14 else 0) ++ slots

/-- The record of a launch of one block of 32 threads with 256 registers each, in supervisor mode, entered at 0x10004. -/
def wordRecord : List Byte :=
  (List.range 256).map fun i =>
    if i == 0x00 then 0x04 else if i == 0x02 then 0x01
    else if i == 0x18 || i == 0x1A || i == 0x1C || i == 0x1D || i == 0x1E || i == 0x22 || i == 0x24 || i == 0x2C then 1
    else if i == 0x1F || i == 0x20 then 32 else if i == 0x26 || i == 0x27 then 16 else if i == 0x32 then 0x08 else 0

/-- The launch that runs a placed word. -/
def wordLaunch : Launch :=
  { recordOf wordRecord with gen := 1, htab := List.replicate 64 0, wtab := List.replicate 8 (0, 0), placed := [0] }

/-- The cluster that runs it. -/
def wordCluster (s : State) : Cluster := s.newCluster wordLaunch 0 (0, 0, 0)

/-- `s` with an instruction where `step` fetches its next one: a launch in entry 0 with one warp in slot 0 of core 0, whose
entry line core 0 holds, and the turn that lets its quadrant issue (assumption 21). -/
def State.withFetchWord (s : State) (nbits w : Nat) : State :=
  let lanes := (List.range 32).map fun i => Lane.start 256 0x10004 [] (s.nextId + i) 0 i 0 s.cycle
  { s with
    launches := wordLaunch :: s.launches.filter fun l => l.ctx != 0,
    clusters := wordCluster s :: s.clusters.filter fun c => c.ctx != 0,
    blocks := newBlock wordLaunch (wordCluster s) 0 :: s.blocks.filter fun b => b.ctx != 0,
    warps := [Warp.formed { s with launches := [wordLaunch] } 0 0 0 0 0 0 .block lanes (some 0x10004)],
    icache := [{ core := 0, ctx := 0, line := 0x400, data := wordLine (w % 2 ^ min nbits 96), bad := [], again := [] }],
    nextId := s.nextId + 32, preempt := none, stopped := false,
    schedule := [{ ns := 1, cycles := 1, act := .issue 0 0 }] }

end Sys2Proof.Machine
end

