-- ==== Sys2Proof/Safety.lean ====
section
/-! DEFINITION. What a safe state is, every memory in its canonical form and no context halted; and the terms in which the
claims of the certificates speak: when an instruction stands to issue, and what a next state keeps. -/

namespace Sys2Proof.Machine

open Sys2Proof

/-- Every memory of the state: the channels, host and peer memory, the mailbox, each block's SRAM and press region, each
cluster's core-pinned frames. -/
def State.memories (s : State) : List Memory :=
  [s.hbm, s.outside.host, s.outside.peer, s.service.request, s.service.response] ++
    (s.blocks.flatMap fun b => [b.sram, b.press]) ++ s.clusters.map fun c => c.pinned

/-- Is every memory in canonical form? -/
def State.memOk (s : State) : Bool := s.memories.all Memory.wf

/-- Has no context been halted by a trap or `hlt` (R411, R420)? -/
def State.unhalted (s : State) : Bool := s.launches.all fun l => l.run == .live

/-- A run of `n` steps that answers a next state each time, every state of it with memories in form and no context halted. -/
def safeRun : Nat → State → Prop
  | 0, s => s.memOk = true ∧ s.unhalted = true
  | n + 1, s => s.memOk = true ∧ s.unhalted = true ∧ ∃ t, step s = .next t ∧ safeRun n t

end Sys2Proof.Machine

namespace Sys2Proof.Claims

open Sys2Proof Sys2Proof.Machine

/-! ### When an instruction stands to issue -/

/-- A path stands to issue an instruction with guard `g` and the registers `uses`: they lie in the thread's allocation
(R41) and no outstanding load will write them (R177). -/
structure CanIssue (s : State) (g : Guard) (x : Iss) (uses : List RegUse) : Prop where
  standing : s.iss g = some x
  allocated : ∀ u ∈ uses, u.1.inAlloc x.l.nreg = true
  free : x.hazard uses = false

/-- Source B, if it is a window operand that a lane executes, is at hand (R188, R189) and not poisoned (R431). -/
abbrev WindowAtHand (x : Iss) (b : BSrc) (regs : Nat) : Prop :=
  x.ex = [] ∨ (x.windowMisses b regs = [] ∧ x.windowPoison b regs = false)

/-- No lane of the warp is parked, and no held path awaits lanes (R247). -/
abbrev NoneHeld (x : Iss) : Prop := x.w.parkedLanes = [] ∧ x.w.holds = []

/-! ### What a next state keeps -/

/-- One instruction has issued, and of the whole state only the issuing warp changed: it is `w` now. -/
structure OnlyWarp (s t : State) (x : Iss) (w : Warp) : Prop where
  here : t.warp? x.w.core x.w.slot = some w
  others : ∀ c k, ¬(c = x.w.core ∧ k = x.w.slot) → t.warp? c k = s.warp? c k
  rest : t = { s with warps := t.warps, issues := s.issues + 1 }

/-- Of a warp only its lanes and the bookkeeping of its turns, transfers, rejections and holds differ. -/
def Turned (w0 w : Warp) : Prop :=
  w = { w0 with lanes := w.lanes, cur := w.cur, since := w.since, turnStart := w.turnStart, fresh := w.fresh, chk := w.chk,
                stallMask := w.stallMask, ages := w.ages, hold := w.hold }

/-- Every active lane moves to the next slot in sequential flow (R26), an executing one after its effect `up`; other lanes
stay as they were. -/
def Advances (x : Iss) (w : Warp) (up : Nat → Lane → Lane) : Prop :=
  ∀ i, w.lane i =
    if i ∈ x.act then
      { (if i ∈ x.ex then up i (x.w.lane i) else x.w.lane i).arrive (nextPc x.pc) with lastIssue := x.s.cycle }
    else x.w.lane i

/-- Registers `n` to `n + regs - 1` of a list replaced by the 32-bit pieces of a value, the first least significant (R42). -/
def regsAfter (old : List Word) (n regs val : Nat) : List Word :=
  old.mapIdx fun j r => if n ≤ j ∧ j < n + regs then BitVec.ofNat 32 (val / 2 ^ (32 * (j - n))) else r

/-- The vector registers of a lane after a write to D: others than a vector register change nothing here. -/
def vAfter (old : List Word) (d : Sel) (regs val : Nat) : List Word :=
  match d with
  | .v n => regsAfter old n.toNat regs val
  | _ => old

/-- The uniform registers of the warp after a write to D: the value of the lowest executing lane, if any executes (R115). -/
def kAfter (x : Iss) (d : Sel) (regs : Nat) (val : Nat → Nat) : List Word :=
  match d with
  | .k n => if x.ex = [] then x.w.k else regsAfter x.w.k (n.toNat - 32) regs (val (x.ex.headD 0))
  | _ => x.w.k

/-- The effect of an instruction that writes D, `regs` registers, with a value in each executing lane, and `%fstat`: the
destination as R115 says, `z` discarding; every other register, flag and piece of state, all of memory among it, as before. -/
def WritesD (s t : State) (x : Iss) (d : Sel) (regs : Nat) (val : Nat → Nat) (fstat : Word) : Prop :=
  ∃ w, OnlyWarp s t x w ∧ Turned { x.w with k := kAfter x d regs val, fstat := fstat } w ∧
    Advances x w fun i l => { l with v := vAfter l.v d regs (val i) }

/-- The same for the predicates of the executing lanes. -/
def WritesPredicates (s t : State) (x : Iss) (p : Nat → Lane → BitVec 8) (fstat : Word) : Prop :=
  ∃ w, OnlyWarp s t x w ∧ Turned { x.w with fstat := fstat } w ∧ Advances x w fun i l => { l with p := p i l }

/-- Flags of the executing lanes put into the sticky word (R145). -/
def sticky (x : Iss) (flags : Nat → Flags) : Word := x.w.fstat ||| ((x.ex.map flags).foldl (fun a b => a ||| b) 0).zeroExtend 32

/-- Of the whole state only the issuing warp changed; of `w0`, only lanes and bookkeeping; an active lane is what `post` says,
another as it was. -/
def ActsOn (s t : State) (x : Iss) (w0 : Warp) (post : Nat → Lane) : Prop :=
  ∃ w, OnlyWarp s t x w ∧ Turned w0 w ∧
    ∀ i, w.lane i = if i ∈ x.act then { post i with lastIssue := s.cycle } else x.w.lane i

/-- Every active lane moves on and nothing else happens: what an instruction without executing lanes does (R119). -/
def MovesOn (s t : State) (x : Iss) : Prop := ActsOn s t x x.w fun i => (x.w.lane i).arrive (nextPc x.pc)

/-- The memory of the part: the channels, the lines that slices hold, every block's SRAM and press region, every
core-pinned frame, the memory outside. -/
def SameMemory (s t : State) : Prop :=
  t.hbm = s.hbm ∧ t.l2 = s.l2 ∧ t.outside = s.outside ∧
    (t.blocks.map fun b => (b.sram, b.press)) = (s.blocks.map fun b => (b.sram, b.press)) ∧
    (t.clusters.map fun c => c.pinned) = s.clusters.map fun c => c.pinned

/-! ### Integers at a type -/

/-- The integer that bits hold at a type: two's complement for sN, unsigned otherwise. -/
def intAt (ty : Ty) (bits : Nat) : Int :=
  if ty.signed? then Int.bmod bits (2 ^ ty.bits) else ((bits % 2 ^ ty.bits : Nat) : Int)

/-- The least and greatest integers of a type. -/
def least (ty : Ty) : Int := if ty.signed? then -(2 ^ (ty.bits - 1)) else 0
def greatest (ty : Ty) : Int := if ty.signed? then 2 ^ (ty.bits - 1) - 1 else 2 ^ ty.bits - 1

/-- An integer clamped to the range of a type when `.sat` is written (R127). -/
def saturated (ty : Ty) (sat : Bool) (v : Int) : Int := if sat then max (least ty) (min (greatest ty) v) else v

/-- The bits `r` of D hold the integer `v` at a type: its low N bits, and for N below 32 all 32 bits, sign- or
zero-extended (R127, R128). -/
def Holds (ty : Ty) (v : Int) (r : Nat) : Prop :=
  r < 2 ^ max 32 ty.bits ∧ (r : Int) % 2 ^ ty.bits = v % 2 ^ ty.bits ∧
    ∀ j, ty.bits ≤ j → j < 32 → r.testBit j = (ty.signed? && r.testBit (ty.bits - 1))

/-- The bits of `r` are `f k` for k < n, and 0 above. -/
def Bits (n : Nat) (f : Nat → Bool) (r : Nat) : Prop := ∀ k, r.testBit k = (decide (k < n) && f k)

/-! ### The shapes of claims about format R -/

/-- An instruction of format R completes wherever its registers are ready and its window is at hand, writing D with a value
that stands in the stated relation to the lane's A, B and C. -/
def Computes (mk : Guard → ROps → Instr) (n : ROps → Spans) (spec : ROps → Nat → Nat → Nat → Nat → Prop) : Prop :=
  ∀ (s : State) (g : Guard) (o : ROps) (x : Iss), (mk g o).wf = true → CanIssue s g x (o.regUses (n o)) →
    WindowAtHand x o.b (n o).b → nbvOk s o.ty = true →
    ∃ t val, exec (mk g o) s = .next t ∧
      (∀ i ∈ x.ex, spec o (x.read i o.a (n o).a) (x.readB i o.b (n o).b) (x.read i o.c (n o).c) (val i)) ∧
      WritesD s t x o.d (n o).d val x.w.fstat

/-- The same for a float instruction: a value, and flags that go into the sticky word (R145). -/
def ComputesFloat (mk : Guard → ROps → Instr) (n : ROps → Spans) (f : ROps → Nat → Nat → Nat → Nat → Nat × Flags) : Prop :=
  ∀ (s : State) (g : Guard) (o : ROps) (x : Iss), (mk g o).wf = true → CanIssue s g x (o.regUses (n o)) →
    WindowAtHand x o.b (n o).b → nbvOk s o.ty = true →
    ∃ t, exec (mk g o) s = .next t ∧
      WritesD s t x o.d (n o).d
        (fun i => (f o s.nbv (x.read i o.a (n o).a) (x.readB i o.b (n o).b) (x.read i o.c (n o).c)).1)
        (sticky x fun i => (f o s.nbv (x.read i o.a (n o).a) (x.readB i o.b (n o).b) (x.read i o.c (n o).c)).2)

/-- The same for a cross-lane instruction, where no lane is parked and none awaited: the relation sees the executing lanes'
A and B, 0 for lanes that do not execute (R121). -/
def Crosses (mk : Guard → ROps → Instr) (n : ROps → Spans)
    (spec : ROps → Iss → (Nat → Nat) → (Nat → Nat) → Nat → Nat → Prop) : Prop :=
  ∀ (s : State) (g : Guard) (o : ROps) (x : Iss), (mk g o).wf = true → CanIssue s g x (o.regUses (n o)) →
    WindowAtHand x o.b (n o).b → NoneHeld x →
    ∃ t val, exec (mk g o) s = .next t ∧
      (∀ i ∈ x.ex, spec o x (fun j => if j ∈ x.ex then x.read j o.a (n o).a else 0)
        (fun j => if j ∈ x.ex then x.readB j o.b (n o).b else 0) i (val i)) ∧
      WritesD s t x o.d (n o).d val x.w.fstat

/-- The combination of values under an operation of Table 7; of none, the identity. -/
def Combined (op : Nat) (ty : Ty) (vs : List Nat) (r : Nat) : Prop :=
  match op with
  | 0 => Holds ty ((vs.map (intAt ty)).sum) r
  | 1 => Holds ty ((vs.map (intAt ty)).foldl min (greatest ty)) r
  | 2 => Holds ty ((vs.map (intAt ty)).foldl max (least ty)) r
  | 3 => Bits ty.bits (fun k => vs.all fun v => v.testBit k) r
  | 4 => Bits ty.bits (fun k => vs.any fun v => v.testBit k) r
  | _ => Bits ty.bits (fun k => (vs.filter fun v => v.testBit k).length % 2 == 1) r

/-! ### Predicates -/

/-- The predicates after a condition is folded into the pair PT, PF under CMB (R122); `p0` takes no write (R117). -/
def PairFolded (l : Lane) (pt pf : BitVec 3) (cmb : BitVec 2) (c : Bool) (p : BitVec 8) : Prop :=
  ∀ j < 8, p.getLsbD j =
    if j = 0 then l.p.getLsbD 0
    else if j = pt.toNat then
      (if cmb = 0 then c else if cmb = 1 then l.p.getLsbD j && c else l.p.getLsbD j || c)
    else if j = pf.toNat then
      (if cmb = 0 then !c else if cmb = 1 then l.p.getLsbD j || !c else l.p.getLsbD j && !c)
    else l.p.getLsbD j

/-- A compare completes wherever its registers are ready and its window is at hand: the condition of each executing lane is
folded into its pair, the flags go into the sticky word, and nothing else changes. -/
def Compares (mk : Guard → POps → Instr) (na nb : POps → Nat) (f : POps → Nat → Nat → Nat → Bool × Flags) : Prop :=
  ∀ (s : State) (g : Guard) (o : POps) (x : Iss), (mk g o).wf = true →
    CanIssue s g x ((o.a, na o) :: o.b.use (nb o)) → WindowAtHand x o.b (nb o) →
    ∃ (t : State) (p : Nat → BitVec 8), exec (mk g o) s = .next t ∧
      (∀ i ∈ x.ex, PairFolded (x.w.lane i) o.pt o.pf o.cmb (f o s.nbv (x.read i o.a (na o)) (x.readB i o.b (nb o))).1 (p i)) ∧
      WritesPredicates s t x (fun i _ => p i)
        (sticky x fun i => (f o s.nbv (x.read i o.a (na o)) (x.readB i o.b (nb o))).2)

/-- The condition of a compare code on integers (Table 16). -/
def intCondition (cc : BitVec 4) (a b : Int) : Bool :=
  match cc.toNat with
  | 0 => a == b
  | 1 => a != b
  | 2 => a < b
  | 3 => a ≤ b
  | 4 => b < a
  | _ => b ≤ a

end Sys2Proof.Claims
end

