-- ==== Sys2Proof/Certificates/Slice0/Obligations.lean ====
section
/-! DEFINITION. The statements for the provers: each names what it states and cites the rules of spec/ it formalises. -/

open Sys2Proof Sys2Proof.Machine Sys2Proof.Claims

/-! ### Group 0 and 1: registers -/

/-- R127, R128, Table 4: the exact integer result at the width of TY, wrapped, or clamped with `.sat`. -/
def Obligations.ArithmeticWritesExactResultBroughtToWidth : Prop :=
  Computes .add ROps.spans (fun o a b _ r => Holds o.ty (saturated o.ty (o.mod.getLsbD 0) (intAt o.ty a + intAt o.ty b)) r) ∧
  Computes .sub ROps.spans (fun o a b _ r => Holds o.ty (saturated o.ty (o.mod.getLsbD 0) (intAt o.ty a - intAt o.ty b)) r) ∧
  Computes .mul ROps.spans (fun o a b _ r => Holds o.ty (saturated o.ty (o.mod.getLsbD 0) (intAt o.ty a * intAt o.ty b)) r) ∧
  Computes .mulhi ROps.spans (fun o a b _ r => Holds o.ty (intAt o.ty a * intAt o.ty b / 2 ^ o.ty.bits) r) ∧
  Computes .mad ROps.spans (fun o a b c r =>
    Holds o.ty (saturated o.ty (o.mod.getLsbD 0) (intAt o.ty a * intAt o.ty b + intAt o.ty c)) r) ∧
  Computes .madhi ROps.spans (fun o a b c r =>
    Holds o.ty (intAt o.ty a * intAt o.ty b / 2 ^ o.ty.bits + intAt o.ty c) r) ∧
  Computes .min ROps.spans (fun o a b _ r => Holds o.ty (min (intAt o.ty a) (intAt o.ty b)) r) ∧
  Computes .max ROps.spans (fun o a b _ r => Holds o.ty (max (intAt o.ty a) (intAt o.ty b)) r) ∧
  Computes .abs ROps.spans (fun o a _ _ r => Holds o.ty (saturated o.ty (o.mod.getLsbD 0) |intAt o.ty a|) r) ∧
  Computes .neg ROps.spans (fun o a _ _ r => Holds o.ty (saturated o.ty (o.mod.getLsbD 0) (-intAt o.ty a)) r) ∧
  Computes .sad ROps.spans (fun o a b c r => Holds o.ty (|intAt o.ty a - intAt o.ty b| + intAt o.ty c) r) ∧
  Computes .lea (fun o => ⟨o.ty.regs, o.ty.regs, 1, 1⟩) (fun o a b _ r =>
    Holds o.ty (intAt o.ty a +
      intAt (if o.mod.getLsbD 3 then .s32 else .n32) b * 2 ^ (o.mod.extractLsb' 0 3).toNat) r) ∧
  Computes .dot4 (fun _ => ⟨1, 1, 1, 1⟩) (fun o a b c r =>
    let tb : Ty := if (o.ty == .s8) != o.mod.getLsbD 0 then .s8 else .n8
    Holds .s32 (saturated .s32 (o.mod.getLsbD 1) (intAt .s32 c +
      (intAt o.ty a * intAt tb b + intAt o.ty (a / 2 ^ 8) * intAt tb (b / 2 ^ 8) +
        intAt o.ty (a / 2 ^ 16) * intAt tb (b / 2 ^ 16) + intAt o.ty (a / 2 ^ 24) * intAt tb (b / 2 ^ 24)))) r)

/-- R129, Table 5: each bit of the result of the logical, shift and rotate instructions. -/
def Obligations.LogicAndShiftsGiveEachBit : Prop :=
  Computes .and ROps.spans (fun o a b _ r => Bits o.ty.bits (fun k => a.testBit k && b.testBit k) r) ∧
  Computes .or ROps.spans (fun o a b _ r => Bits o.ty.bits (fun k => a.testBit k || b.testBit k) r) ∧
  Computes .xor ROps.spans (fun o a b _ r => Bits o.ty.bits (fun k => a.testBit k != b.testBit k) r) ∧
  Computes .bitop ROps.spans (fun o a b c r => Bits o.ty.bits (fun k =>
    o.mod.getLsbD (4 * (a.testBit k).toNat + 2 * (b.testBit k).toNat + (c.testBit k).toNat)) r) ∧
  Computes .shl (fun o => ⟨o.ty.regs, o.ty.regs, 1, o.ty.regs⟩) (fun o a b _ r =>
    Bits o.ty.bits (fun k => decide (b % 2 ^ 32 ≤ k) && a.testBit (k - b % 2 ^ 32)) r) ∧
  Computes .shr (fun o => ⟨o.ty.regs, o.ty.regs, 1, o.ty.regs⟩) (fun o a b _ r =>
    Bits o.ty.bits (fun k => decide (k + b % 2 ^ 32 < o.ty.bits) && a.testBit (k + b % 2 ^ 32)) r) ∧
  Computes .sra (fun o => ⟨o.ty.regs, o.ty.regs, 1, o.ty.regs⟩) (fun o a b _ r =>
    Bits o.ty.bits (fun k => a.testBit (min (k + b % 2 ^ 32) (o.ty.bits - 1))) r) ∧
  Computes .rotl (fun o => ⟨o.ty.regs, o.ty.regs, 1, o.ty.regs⟩) (fun o a b _ r =>
    Bits o.ty.bits (fun k => a.testBit ((k + (o.ty.bits - b % 2 ^ 32 % o.ty.bits)) % o.ty.bits)) r) ∧
  Computes .rotr (fun o => ⟨o.ty.regs, o.ty.regs, 1, o.ty.regs⟩) (fun o a b _ r =>
    Bits o.ty.bits (fun k => a.testBit ((k + b % 2 ^ 32) % o.ty.bits)) r) ∧
  Computes .brev ROps.spans (fun o a _ _ r => Bits o.ty.bits (fun k => a.testBit (o.ty.bits - 1 - k)) r)

/-- R129, R130: the counts, and the fields that `bfx` extracts and `bfi` replaces. -/
def Obligations.CountsAndFieldsFollowTables5AndR130 : Prop :=
  Computes .clz (fun o => ⟨1, o.ty.regs, 1, 1⟩) (fun o a _ _ r =>
    r ≤ o.ty.bits ∧ (∀ k < r, a.testBit (o.ty.bits - 1 - k) = false) ∧
      (r < o.ty.bits → a.testBit (o.ty.bits - 1 - r) = true)) ∧
  Computes .ctz (fun o => ⟨1, o.ty.regs, 1, 1⟩) (fun o a _ _ r =>
    r ≤ o.ty.bits ∧ (∀ k < r, a.testBit k = false) ∧ (r < o.ty.bits → a.testBit r = true)) ∧
  Computes .popc (fun o => ⟨1, o.ty.regs, 1, 1⟩) (fun o a _ _ r =>
    r = ((List.range o.ty.bits).filter fun k => a.testBit k).length) ∧
  Computes .bfx (fun o => ⟨o.ty.regs, o.ty.regs, 1, o.ty.regs⟩) (fun o a b _ r =>
    let pos := b % 256
    let len := b / 256 % 256
    let fill := o.ty.signed? && a.testBit (o.ty.bits - 1)
    let field := fun k => if pos + k < o.ty.bits then a.testBit (pos + k) else fill
    Bits o.ty.bits (fun k =>
      if k < len then field k else o.ty.signed? && decide (0 < len) && field (len - 1)) r) ∧
  Computes .bfi (fun o => ⟨o.ty.regs, o.ty.regs, 1, o.ty.regs⟩) (fun o a b c r =>
    let pos := b % 256
    let len := b / 256 % 256
    Bits o.ty.bits (fun k => if pos ≤ k ∧ k < pos + len then a.testBit (k - pos) else c.testBit k) r)

/-- R126, R128, R131: `mov` and `sel` in format R, `movi` and `addi` in format I, `pmov` to a register. -/
def Obligations.MovesCopySelectAndLoadImmediates : Prop :=
  Computes .mov ROps.spans (fun o _ b _ r => if o.ty.bits < 32 then Holds o.ty (intAt o.ty b) r else r = b) ∧
  (∀ (s : State) (g : Guard) (o : ROps) (x : Iss), (Instr.sel g o).wf = true → CanIssue s g x (o.regUses o.spans) →
    WindowAtHand x o.b o.ty.regs →
    ∃ t, exec (.sel g o) s = .next t ∧
      WritesD s t x o.d o.ty.regs (fun i =>
        if (x.w.lane i).pred (o.mod.extractLsb' 0 3) != o.mod.getLsbD 3 then x.read i o.a o.ty.regs
        else x.readB i o.b o.ty.regs) x.w.fstat) ∧
  (∀ (s : State) (g : Guard) (o : IOps) (x : Iss), (Instr.movi g o).wf = true →
    CanIssue s g x [(o.d, o.ty.regs), (o.a, o.ty.regs)] →
    ∃ t, exec (.movi g o) s = .next t ∧
      WritesD s t x o.d o.ty.regs (fun _ =>
        if o.ty = .s64 then (o.imm.signExtend 64).toNat else o.imm.toNat) x.w.fstat) ∧
  (∀ (s : State) (g : Guard) (o : IOps) (x : Iss), (Instr.addi g o).wf = true →
    CanIssue s g x [(o.d, o.ty.regs), (o.a, o.ty.regs)] →
    ∃ t val, exec (.addi g o) s = .next t ∧
      (∀ i ∈ x.ex, Holds o.ty (saturated o.ty (o.mod.getLsbD 0) (intAt o.ty (x.read i o.a o.ty.regs) + o.imm.toInt)) (val i)) ∧
      WritesD s t x o.d o.ty.regs val x.w.fstat) ∧
  (∀ (s : State) (g : Guard) (o : ROps) (x : Iss), (Instr.pmovToReg g o).wf = true →
    CanIssue s g x (o.regUses ⟨1, 1, 1, 1⟩) → WindowAtHand x o.b 1 →
    ∃ t, exec (.pmovToReg g o) s = .next t ∧
      WritesD s t x o.d 1 (fun i => ((x.w.lane i).p ||| 1).toNat) x.w.fstat)

/-- The rational value of a finite float. -/
def Sys2Proof.Claims.valueOf (v : FVal) : ℚ :=
  match v with
  | .fin n m e => (if n then -1 else 1) * ((m : ℚ) * (2 : ℚ) ^ e)
  | _ => 0

/-- `res` is the nonzero rational `z` rounded once to a format, and under version 1 an FP32 result below 2^-126 a zero of its sign
with underflow and inexact (R144, R148). -/
def Sys2Proof.Claims.Rounds (f : Fmt) (r : RMode) (nbv : Nat) (z : ℚ) (res : Nat × Flags) : Prop :=
  ∃ (m : Nat) (e : Int), 0 < m ∧ (m : ℚ) * (2 : ℚ) ^ e = |z| ∧
    let u := f.round r false (decide (z < 0)) m e
    let mag := u.1 % 2 ^ 31
    res = if nbv = 1 ∧ f = Fmt.f32 ∧ 0 < mag ∧ mag < 2 ^ 23 then (u.1 - mag, u.2 ||| Flags.unf ||| Flags.nx) else u

/-- The same with `.sat`, which gives the largest finite value of the sign where the rounding overflows; an exact zero is the zero of
the sign given (R157). -/
def Sys2Proof.Claims.Converted (f : Fmt) (r : RMode) (sat : Bool) (nbv : Nat) (neg : Bool) (z : ℚ) (res : Nat × Flags) : Prop :=
  if z = 0 then res = (f.zero neg, Flags.none)
  else ∃ u, Rounds f r nbv z u ∧ res = if sat = true ∧ u.2 &&& Flags.ovf ≠ 0 then (f.max (decide (z < 0)), u.2) else u

/-- A float value brought to a format: a NaN is canonical, invalid if it signals; an infinity stays one (R157, R158). -/
def Sys2Proof.Claims.FloatGiven (f : Fmt) (r : RMode) (sat : Bool) (nbv : Nat) (v : FVal) (res : Nat × Flags) : Prop :=
  (∀ g, v = .nan g → res = (f.nanBits, if g then Flags.nv else Flags.none)) ∧
    (∀ n, v = .inf n → res = (f.inf n, Flags.none)) ∧
    ∀ n m e, v = .fin n m e → Converted f r sat nbv n (valueOf v) res

/-- `z` is the rational `x` rounded to an integer (R151). -/
def Sys2Proof.Claims.RoundsToInteger (r : RMode) (x : ℚ) (z : Int) : Prop :=
  match r with
  | .rne => 2 * |(z : ℚ) - x| ≤ 1 ∧ (2 * |(z : ℚ) - x| = 1 → z % 2 = 0)
  | .rz => |(z : ℚ)| ≤ |x| ∧ |x| - 1 < |(z : ℚ)| ∧ 0 ≤ z * x
  | .ru => x ≤ z ∧ (z : ℚ) < x + 1
  | .rd => (z : ℚ) ≤ x ∧ x - 1 < (z : ℚ)

/-- A float value brought to an integer type: a NaN gives 0, what lies outside the range its nearest bound, both invalid (R157). -/
def Sys2Proof.Claims.IntegerGiven (ty : Ty) (r : RMode) (v : FVal) (res : Nat × Flags) : Prop :=
  (∀ g, v = .nan g → res = (0, Flags.nv)) ∧
    (∀ n, v = .inf n → Holds ty (if n then least ty else greatest ty) res.1 ∧ res.2 = Flags.nv) ∧
    ∀ n m e, v = .fin n m e → ∃ z, RoundsToInteger r (valueOf v) z ∧ Holds ty (saturated ty true z) res.1 ∧
      res.2 = if saturated ty true z ≠ z then Flags.nv else if (z : ℚ) = valueOf v then Flags.none else Flags.nx

/-- R157, Table 10: what `cvt` gives of the raw bits of its source. -/
def Sys2Proof.Claims.ConvertedValues (r : RMode) (sat hi : Bool) (nbv a : Nat) : Prop :=
  let ints := [Ty.s32, .n32, .s16, .n16, .s8, .n8, .s64, .n64]
  let floats := [Ty.f32, .f16, .bf16]
  let x := if hi then a / 2 ^ 16 else a
  let got := fun (src dst : Ty) => cvtValue src dst r sat hi nbv a
  (∀ src ∈ ints, ∀ dst ∈ ints, Holds dst (saturated dst sat (intAt src x)) (got src dst).1 ∧ (got src dst).2 = Flags.none) ∧
    (∀ src ∈ ints, ∀ dst ∈ floats, Converted (fmtOf dst) r sat nbv false (intAt src x : ℚ) (got src dst)) ∧
    (∀ src ∈ floats, ∀ dst ∈ ints, IntegerGiven dst r ((fmtOf src).read nbv (x % 2 ^ src.bits)) (got src dst)) ∧
    ∀ src ∈ floats, ∀ dst ∈ floats, FloatGiven (fmtOf dst) r sat nbv ((fmtOf src).read nbv (x % 2 ^ src.bits)) (got src dst)

/-- The product of two float values is an infinity of the sign given. -/
def Sys2Proof.Claims.InfiniteProduct (x y : FVal) (n : Bool) : Prop :=
  ∃ u v, n = (u != v) ∧ ((x = .inf u ∧ y = .inf v) ∨ (∃ m e, m ≠ 0 ∧ ((x = .inf u ∧ y = .fin v m e) ∨ (y = .inf u ∧ x = .fin v m e))))

/-- R144, R155: what `fdot2` gives. -/
def Sys2Proof.Claims.DotValues (f : Fmt) (r : RMode) (nbv : Nat) (a b : Nat → FVal) (c : FVal) (res : Nat × Flags) : Prop :=
  let bad := ∃ k < 2, ∃ n n' e, (a k = .inf n ∧ b k = .fin n' 0 e) ∨ (b k = .inf n ∧ a k = .fin n' 0 e)
  let goes := fun (n : Bool) => c = .inf n ∨ ∃ k < 2, InfiniteProduct (a k) (b k) n
  let nan := ∃ v ∈ [a 0, b 0, a 1, b 1, c], v.isNan = true
  let sig := ∃ v ∈ [a 0, b 0, a 1, b 1, c], v = .nan true
  (bad ∨ (goes true ∧ goes false) → res = (f.nanBits, Flags.nv)) ∧
    (nan → ¬bad → ¬(goes true ∧ goes false) → (sig → res = (f.nanBits, Flags.nv)) ∧ (¬sig → res = (f.nanBits, Flags.none))) ∧
    (∀ n, goes n → ¬bad → ¬nan → ¬goes (!n) → res = (f.inf n, Flags.none)) ∧
    ∀ (na nb : Nat → Bool) (ma mb : Nat → Nat) (ea eb : Nat → Int) (nc : Bool) (mc : Nat) (ec : Int),
      (∀ k < 2, a k = .fin (na k) (ma k) (ea k) ∧ b k = .fin (nb k) (mb k) (eb k)) → c = .fin nc mc ec →
      let z := valueOf (a 0) * valueOf (b 0) + valueOf (a 1) * valueOf (b 1) + valueOf c
      if z = 0 then res = (f.zero (if (na 0 != nb 0) = nc ∧ (na 1 != nb 1) = nc then nc else r == .rd), Flags.none)
      else Rounds f r nbv z res

/-- The value of a DT8 code (R140), and the place of a code among those of its value (R142). -/
def Sys2Proof.Claims.dtTermOf (neg : Bool) (e : Nat) : ℚ := if e = 7 then 0 else (if neg then -1 else 1) * (2 : ℚ) ^ (-(e : Int))
def Sys2Proof.Claims.dtValueOf (code : Nat) : ℚ :=
  dtTermOf (code.testBit 7) (code / 16 % 8) + dtTermOf (code.testBit 3) (code % 8)
def Sys2Proof.Claims.dtRank (code : Nat) : Nat :=
  let terms := (if code / 16 % 8 = 7 then 0 else 1) + if code % 8 = 7 then 0 else 1
  256 * terms + 32 * (code / 16 % 8) + 16 * (code / 128 % 2) + 2 * (code % 8) + code / 8 % 2

/-- R140 to R142, R159, R160: what `dtdec` gives of a code and a scale byte, and the code that `dtenc` gives of the bits of an FP32
value. -/
def Sys2Proof.Claims.Dt8Values (code e a : Nat) : Prop :=
  let y := dtValueOf code * (2 : ℚ) ^ ((e : Int) - 127)
  let dec := dtdecValue code e
  let v := Fmt.f32.val a
  let enc := dtencCode a e
  let canonical := fun (q : ℚ) => enc.1 < 256 ∧ dtValueOf enc.1 = q ∧ ∀ c < 256, dtValueOf c = q → dtRank enc.1 ≤ dtRank c
  (e = 255 → dec = (Fmt.f32.nanBits, Flags.none) ∧ enc = (0x77, Flags.nv)) ∧
    (e < 255 → (y = 0 → dec = (0, Flags.none)) ∧ ((2 : ℚ) ^ 128 ≤ |y| → dec = (Fmt.f32.inf (decide (y < 0)), Flags.ovf ||| Flags.nx)) ∧
      (y ≠ 0 → |y| < (2 : ℚ) ^ 128 → dec.2 = Flags.none ∧ ∃ n m k, Fmt.f32.val dec.1 = .fin n m k ∧ valueOf (.fin n m k) = y) ∧
      (v.isNan = true → enc = (0x77, Flags.nv)) ∧ (∀ n, v = .inf n → canonical (if n then -2 else 2) ∧ enc.2 = Flags.nx) ∧
      (∀ n m k, v = .fin n m k → let x := valueOf v * (2 : ℚ) ^ (127 - (e : Int))
        ∃ q, canonical q ∧ (∀ c < 256, |q - x| < |dtValueOf c - x| ∨ (|q - x| = |dtValueOf c - x| ∧ |q| ≤ |dtValueOf c|)) ∧
          enc.2 = if q = x then Flags.none else Flags.nx))

/-- R156, Table 9: the bit of an operand's class, by its fields. -/
def Sys2Proof.Claims.classBit (f : Fmt) (bits : Nat) : Nat :=
  let neg := bits.testBit (f.ebits + f.mbits)
  let ex := bits / 2 ^ f.mbits % 2 ^ f.ebits
  let fr := bits % 2 ^ f.mbits
  if ex = 2 ^ f.ebits - 1 then (if fr = 0 then (if neg then 2 else 9) else if fr.testBit (f.mbits - 1) then 1 else 0)
  else if ex = 0 then (if fr = 0 then (if neg then 5 else 6) else if neg then 4 else 7)
  else if neg then 3 else 8

/-- R153, Tables 7 and 8: the special values of the approximated functions and of `fsqrt`, their flags, the bounds of `frcp` and `frsq`,
and what is exact. The bounds of the other four, which no rational states, stand in the meanings alone. -/
def Sys2Proof.Claims.ApproximatedValues (nbv a : Nat) : Prop :=
  let v := Fmt.f32.read nbv a
  let x := valueOf v
  let nan := fun (bad : Bool) => (Fmt.f32.nanBits, if bad then Flags.nv else Flags.none)
  let given := fun (y : Nat) => if nbv = 1 ∧ y % 2 ^ 31 < 2 ^ 23 then Fmt.f32.zero (y.testBit 31) else y
  (∀ g, v = .nan g → (∀ r, fsqrt1 Fmt.f32 r nbv a = nan g) ∧ frcp1 nbv a = nan g ∧ frsq1 nbv a = nan g ∧ fex21 nbv a = nan g ∧
      flg21 nbv a = nan g ∧ ∀ c, ftrig1 c nbv a = nan g) ∧
    (∀ n, v = .inf n → (∀ r, fsqrt1 Fmt.f32 r nbv a = if n then nan true else (Fmt.f32.inf false, Flags.none)) ∧
      frcp1 nbv a = (Fmt.f32.zero n, Flags.none) ∧ frsq1 nbv a = (if n then nan true else (0, Flags.none)) ∧
      fex21 nbv a = (if n then 0 else Fmt.f32.inf false, Flags.none) ∧
      flg21 nbv a = (if n then nan true else (Fmt.f32.inf false, Flags.none)) ∧ ∀ c, ftrig1 c nbv a = nan true) ∧
    (∀ n e, v = .fin n 0 e → (∀ r, fsqrt1 Fmt.f32 r nbv a = (Fmt.f32.zero n, Flags.none)) ∧
      frcp1 nbv a = (Fmt.f32.inf n, Flags.dz) ∧ frsq1 nbv a = (Fmt.f32.inf n, Flags.dz) ∧
      fex21 nbv a = (0x3F800000, Flags.none) ∧ flg21 nbv a = (Fmt.f32.inf true, Flags.dz) ∧
      ftrig1 false nbv a = (Fmt.f32.zero n, Flags.none) ∧ ftrig1 true nbv a = (0x3F800000, Flags.none)) ∧
    (∀ m e, v = .fin true m e → 0 < m → (∀ r, fsqrt1 Fmt.f32 r nbv a = nan true) ∧ frsq1 nbv a = nan true ∧ flg21 nbv a = nan true) ∧
    ∀ n m e, v = .fin n m e → 0 < m →
      (|x| ≤ (2 : ℚ) ^ (-128 : Int) → frcp1 nbv a = (Fmt.f32.inf n, Flags.ovf)) ∧
      ((2 : ℚ) ^ (-128 : Int) < |x| → ∃ (y : Nat) (k : Bool) (p : Nat) (q E : Int), frcp1 nbv a = (given y, Flags.none) ∧
        Fmt.f32.val y = .fin k p q ∧ (2 : ℚ) ^ E * |x| ≤ 1 ∧ 1 < (2 : ℚ) ^ (E + 1) * |x| ∧
        |valueOf (.fin k p q) * x - 1| < (2 : ℚ) ^ (max E (-126) - 23) * |x| ∧
        ((∃ j : Int, |x| = (2 : ℚ) ^ j) → valueOf (.fin k p q) * x = 1)) ∧
      (n = false → ∃ (y : Nat) (p : Nat) (q E : Int), frsq1 nbv a = (y, Flags.none) ∧ Fmt.f32.val y = .fin false p q ∧ 0 < p ∧
        let w := valueOf (.fin false p q)
        let u := (2 : ℚ) ^ (E - 23)
        (2 : ℚ) ^ (2 * E) * x ≤ 1 ∧ 1 < (2 : ℚ) ^ (2 * E + 2) * x ∧ (w ≤ u ∨ (w - u) ^ 2 * x < 1) ∧ 1 < (w + u) ^ 2 * x ∧
        ((∃ j : Int, x = (2 : ℚ) ^ (2 * j)) → w ^ 2 * x = 1)) ∧
      (128 ≤ x → fex21 nbv a = (Fmt.f32.inf false, Flags.ovf)) ∧
      (x < 128 → (fex21 nbv a).2 = Flags.none ∧ (nbv = 1 → x < -126 → fex21 nbv a = (0, Flags.none)) ∧
        ∀ j : Int, x = j → -149 ≤ j → (nbv = 1 → -126 ≤ j) →
          ∃ k p q, Fmt.f32.val (fex21 nbv a).1 = .fin k p q ∧ valueOf (.fin k p q) = (2 : ℚ) ^ j) ∧
      (n = false → (flg21 nbv a).2 = Flags.none ∧ ∀ j : Int, x = (2 : ℚ) ^ j →
        ∃ k p q, Fmt.f32.val (flg21 nbv a).1 = .fin k p q ∧ valueOf (.fin k p q) = j) ∧
      ∀ c, (ftrig1 c nbv a).2 = Flags.none

/-- R145, R150 to R160: the float instructions write the result of their operation and put its flags into `%fstat`; `fclass`
raises none, and `fclass.take` gives the flags to every executing lane and clears them, if a lane executes. What `cvt`, `pack2`,
`fdot2`, `dtdec`, `dtenc` and `fclass` give, the special values of Table 7 and what Table 8 says of `frcp` and `frsq` and calls exact
are stated by themselves; the arithmetic's values stand in the next two statements. -/
def Obligations.FloatInstructionsWriteResultAndStickyFlags : Prop :=
  ComputesFloat .fadd (fun _ => ones1) (fun o nbv a b _ => lift2 o.ty (fadd1 (fmtOf o.ty) (ROps.rm o) nbv) a b) ∧
  ComputesFloat .fsub (fun _ => ones1) (fun o nbv a b _ => lift2 o.ty (fsub1 (fmtOf o.ty) (ROps.rm o) nbv) a b) ∧
  ComputesFloat .fmul (fun _ => ones1) (fun o nbv a b _ => lift2 o.ty (fmul1 (fmtOf o.ty) (ROps.rm o) nbv) a b) ∧
  ComputesFloat .ffma (fun _ => ones1) (fun o nbv a b c => lift3 o.ty (ffma1 (fmtOf o.ty) (ROps.rm o) nbv) a b c) ∧
  ComputesFloat .fmin (fun _ => ones1) (fun o nbv a b _ => lift2 o.ty (fminmax1 false (fmtOf o.ty) nbv) a b) ∧
  ComputesFloat .fmax (fun _ => ones1) (fun o nbv a b _ => lift2 o.ty (fminmax1 true (fmtOf o.ty) nbv) a b) ∧
  ComputesFloat .frnd (fun _ => ones1) (fun o nbv a _ _ => lift1 o.ty (frnd1 (fmtOf o.ty) (ROps.rm o) nbv) a) ∧
  ComputesFloat .fscale (fun _ => ones1) (fun o nbv a b _ =>
    fscale1 (fmtOf o.ty) (ROps.rm o) nbv (a % 2 ^ o.ty.bits) (intAt .s32 b)) ∧
  ComputesFloat .fdot2 (fun _ => ones1) (fun o nbv a b c => fdot2Value o.ty (ROps.rm o) nbv a b c) ∧
  ComputesFloat .fsqrt (fun _ => ones1) (fun o nbv a _ _ => fsqrt1 Fmt.f32 (ROps.rm o) nbv (a % 2 ^ 32)) ∧
  ComputesFloat .frcp (fun _ => ones1) (fun _ nbv a _ _ => frcp1 nbv (a % 2 ^ 32)) ∧
  ComputesFloat .frsq (fun _ => ones1) (fun _ nbv a _ _ => frsq1 nbv (a % 2 ^ 32)) ∧
  ComputesFloat .fex2 (fun _ => ones1) (fun _ nbv a _ _ => fex21 nbv (a % 2 ^ 32)) ∧
  ComputesFloat .flg2 (fun _ => ones1) (fun _ nbv a _ _ => flg21 nbv (a % 2 ^ 32)) ∧
  ComputesFloat .fsin (fun _ => ones1) (fun _ nbv a _ _ => ftrig1 false nbv (a % 2 ^ 32)) ∧
  ComputesFloat .fcos (fun _ => ones1) (fun _ nbv a _ _ => ftrig1 true nbv (a % 2 ^ 32)) ∧
  ComputesFloat .cvt (fun o => ⟨(o.cvtDest.getD .s32).regs, o.ty.regs, 1, 1⟩) (fun o nbv a _ _ =>
    cvtValue o.ty (o.cvtDest.getD .s32) (rmode (o.mod.extractLsb' 5 2)) (o.mod.getLsbD 7) (o.mod.getLsbD 8) nbv a) ∧
  ComputesFloat .pack2 (fun _ => ones1) (fun o nbv a b _ =>
    let f := fun v => floatToFloat (fmtOf o.ty) nbv (ROps.rm o) (o.mod.getLsbD 2) (Fmt.f32.read nbv (v % 2 ^ 32))
    ((f a).1 + 2 ^ 16 * (f b).1, (f a).2 ||| (f b).2)) ∧
  ComputesFloat .dtdec (fun _ => ones1) (fun o _ a b _ =>
    dtdecValue (a / 2 ^ (8 * (o.mod.extractLsb' 0 2).toNat) % 256) (b % 256)) ∧
  ComputesFloat .dtenc (fun _ => ones1) (fun o _ a b c =>
    let at_ := 2 ^ (8 * (o.mod.extractLsb' 0 2).toNat)
    let q := dtencCode (a % 2 ^ 32) (b % 256)
    (c % 2 ^ 32 - c / at_ % 256 * at_ + q.1 * at_, q.2)) ∧
  Computes .fclass (fun _ => ones1) (fun o a _ _ r => r = 2 ^ classBit (fmtOf o.ty) (a % 2 ^ o.ty.bits)) ∧
  (∀ r sat hi nbv a, ConvertedValues r sat hi nbv a) ∧
  (∀ f ∈ [Fmt.f16, Fmt.bf16], ∀ r sat nbv v, FloatGiven f r sat nbv v (floatToFloat f nbv r sat v)) ∧
  (∀ ty ∈ [Ty.f16x2, .bf16x2], ∀ r nbv a b c,
    DotValues Fmt.f32 r nbv (fun k => (fmtOf ty).val (a / 2 ^ (16 * k) % 2 ^ 16)) (fun k => (fmtOf ty).val (b / 2 ^ (16 * k) % 2 ^ 16))
      (Fmt.f32.read nbv (c % 2 ^ 32)) (fdot2Value ty r nbv a b c)) ∧
  (∀ code < 256, ∀ e < 256, ∀ a < 2 ^ 32, Dt8Values code e a) ∧
  (∀ nbv, ∀ a < 2 ^ 32, ApproximatedValues nbv a) ∧
  (∀ (s : State) (g : Guard) (o : ROps) (x : Iss), (Instr.fclassTake g o).wf = true → CanIssue s g x [(o.d, 1)] →
    ∃ t, exec (.fclassTake g o) s = .next t ∧
      WritesD s t x o.d 1 (fun _ => x.w.fstat.toNat) (if x.ex = [] then x.w.fstat else 0))

/-- R144: one rounding. It overflows where the magnitude, rounded without a bound on its exponent, exceeds the largest finite value, and
then gives an infinity or that value as the mode says, with overflow and inexact. Otherwise the rounded magnitude lies less than one unit
of the last place from the exact one, at most half a unit under RNE, ties to even, on the side that the mode names; the inexact flag
tells whether it differs, and underflow whether it is inexact and tiny after rounding. -/
def Obligations.RoundingIsWithinOneUnitOnTheModesSide : Prop :=
  ∀ (f : Fmt) (r : RMode) (neg : Bool) (m : Nat) (e : Int), f ∈ [Fmt.f32, Fmt.f16, Fmt.bf16] → 0 < m →
    let res := f.round r false neg m e
    let exact : ℚ := m * 2 ^ e
    let away := (r == .ru && !neg) || (r == .rd && neg)
    -- the magnitude rounds to `a` or more, in steps of `step` below it
    let reaches := fun (a step : ℚ) =>
      if r = .rne then decide (a - step / 2 ≤ exact) else if away then decide (a - step < exact) else decide (a ≤ exact)
    let big := reaches (2 ^ (f.emax + 1)) (2 ^ (f.emax - f.mbits))
    (big = true → res.2 = Flags.ovf ||| Flags.nx ∧
      f.val res.1 = if r = .rne ∨ away = true then .inf neg else .fin neg (2 ^ (f.mbits + 1) - 1) (f.emax - f.mbits)) ∧
    (big = false → ∃ m' e', f.val res.1 = .fin neg m' e' ∧
      let got : ℚ := m' * 2 ^ e'
      let ulp : ℚ := 2 ^ (max ((m.log2 : Int) + e) f.emin - f.mbits)
      |got - exact| < ulp ∧ (r = .rne → 2 * |got - exact| ≤ ulp ∧ (2 * |got - exact| = ulp → ∃ k : Int, got = 2 * k * ulp)) ∧
        (r = .rz → got ≤ exact) ∧ (r = .ru → if neg then got ≤ exact else exact ≤ got) ∧
        (r = .rd → if neg then exact ≤ got else got ≤ exact) ∧
        res.2 = if got = exact then Flags.none
          else if reaches (2 ^ f.emin) (2 ^ (f.emin - 1 - f.mbits)) then Flags.nx else Flags.unf ||| Flags.nx)

/-- The bits of an operand as `fmin` and `fmax` give it back: a zero as it is read, other values their own bits (R148, R152). -/
def Sys2Proof.Claims.givenBack (f : Fmt) (nbv bits : Nat) : Nat :=
  match f.read nbv bits with
  | .fin n 0 _ => f.zero n
  | _ => bits

/-- R144, R151, R152, R154: on finite operands `fadd`, `fsub`, `fmul`, `ffma` and `fscale` give the exact value rounded once, an
exact zero with the sign that R144 states; `frnd` gives the integer that the mode names; `fsqrt` the root between its neighbours;
`fmin` and `fmax` the lesser and greater, -0 below +0. -/
def Sys2Proof.Claims.FiniteResults (f : Fmt) (r : RMode) (nbv a b c : Nat) : Prop :=
  ∀ (na nb : Bool) (ma mb : Nat) (ea eb : Int), f.read nbv a = .fin na ma ea → f.read nbv b = .fin nb mb eb →
    let x := valueOf (f.read nbv a)
    let y := valueOf (f.read nbv b)
    (if x + y = 0 then fadd1 f r nbv a b = (f.zero (if na = nb then na else r == .rd), Flags.none)
      else Rounds f r nbv (x + y) (fadd1 f r nbv a b)) ∧
    (if x - y = 0 then fsub1 f r nbv a b = (f.zero (if na = nb then r == .rd else na), Flags.none)
      else Rounds f r nbv (x - y) (fsub1 f r nbv a b)) ∧
    (if x * y = 0 then fmul1 f r nbv a b = (f.zero (na != nb), Flags.none) else Rounds f r nbv (x * y) (fmul1 f r nbv a b)) ∧
    (∀ nc mc ec, f.read nbv c = .fin nc mc ec →
      let z := x * y + valueOf (f.read nbv c)
      if z = 0 then ffma1 f r nbv a b c = (f.zero (if (na != nb) = nc then nc else r == .rd), Flags.none)
      else Rounds f r nbv z (ffma1 f r nbv a b c)) ∧
    fminmax1 false f nbv a b = (givenBack f nbv (if y < x ∨ y = x ∧ nb = true ∧ na = false then b else a), Flags.none) ∧
    fminmax1 true f nbv a b = (givenBack f nbv (if x < y ∨ x = y ∧ na = true ∧ nb = false then b else a), Flags.none) ∧
    (∀ k : Int, -4096 ≤ k → k ≤ 4096 →
      if x = 0 then fscale1 f r nbv a k = (f.zero na, Flags.none) else Rounds f r nbv (x * 2 ^ k) (fscale1 f r nbv a k)) ∧
    (∃ (m : Nat) (e z : Int), f.val (frnd1 f r nbv a).1 = .fin na m e ∧ (frnd1 f r nbv a).2 = Flags.none ∧
      valueOf (.fin na m e) = z ∧
      (match r with
       | .rne => 2 * |(z : ℚ) - x| ≤ 1 ∧ (2 * |(z : ℚ) - x| = 1 → z % 2 = 0)
       | .rz => |(z : ℚ)| ≤ |x| ∧ |x| - 1 < |(z : ℚ)|
       | .ru => x ≤ z ∧ (z : ℚ) < x + 1
       | .rd => (z : ℚ) ≤ x ∧ x - 1 < (z : ℚ))) ∧
    (f = Fmt.f32 → 0 < x → ∃ (m : Nat) (e : Int), f.val (fsqrt1 f r nbv a).1 = .fin false m e ∧ 2 ^ 23 ≤ m ∧
      let got : ℚ := m * 2 ^ e
      let ulp : ℚ := 2 ^ e
      (match r with
       | .rne => (got - ulp / 2) ^ 2 ≤ x ∧ x ≤ (got + ulp / 2) ^ 2
       | .ru => (got - ulp) ^ 2 < x ∧ x ≤ got ^ 2
       | _ => got ^ 2 ≤ x ∧ x < (got + ulp) ^ 2) ∧
      ((fsqrt1 f r nbv a).2 = if got ^ 2 = x then Flags.none else Flags.nx))

/-- R144, R151, R152: a NaN operand gives the canonical NaN, and a signalling one raises invalid; infinities of opposite sign
and 0 · ∞ are invalid; `fmin` and `fmax` give the other operand of a NaN; finite operands give the exact result rounded once. -/
def Obligations.NanAndInvalidOperandsFollowR144 : Prop :=
  ∀ (f : Fmt) (r : RMode) (nbv a b c : Nat), f ∈ [Fmt.f32, Fmt.f16, Fmt.bf16] → a < 2 ^ f.width → b < 2 ^ f.width →
    c < 2 ^ f.width → FiniteResults f r nbv a b c ∧
    ((f.val a).isNan = true ∨ (f.val b).isNan = true →
      fadd1 f r nbv a b = (f.nanBits, (f.val a).sig ||| (f.val b).sig) ∧
      fsub1 f r nbv a b = (f.nanBits, (f.val a).sig ||| (f.val b).sig) ∧
      fmul1 f r nbv a b = (f.nanBits, (f.val a).sig ||| (f.val b).sig)) ∧
    (∀ n, f.val a = .inf n → f.val b = .inf (!n) → fadd1 f r nbv a b = (f.nanBits, Flags.nv)) ∧
    (∀ n, f.val a = .inf n → f.val b = .inf n → fsub1 f r nbv a b = (f.nanBits, Flags.nv)) ∧
    (∀ n k e, f.val a = .inf n → f.val b = .fin k 0 e → fmul1 f r nbv a b = (f.nanBits, Flags.nv) ∧
      fmul1 f r nbv b a = (f.nanBits, Flags.nv)) ∧
    (∀ gr, (f.val a).isNan = true → (f.val b).isNan = true →
      fminmax1 gr f nbv a b = (f.nanBits, (f.val a).sig ||| (f.val b).sig)) ∧
    (∀ gr n, (f.val a).isNan = true → f.val b = .inf n → (fminmax1 gr f nbv a b).1 = b ∧ (fminmax1 gr f nbv b a).1 = b) ∧
    (∀ gr n m e, (f.val a).isNan = true → f.val b = .fin n m e →
      fminmax1 gr f nbv a b = (givenBack f nbv b, (f.val a).sig) ∧ fminmax1 gr f nbv b a = (givenBack f nbv b, (f.val a).sig)) ∧
    (∀ n k m e, f.val a = .inf n → f.read nbv b = .fin k m e →
      fadd1 f r nbv a b = (f.inf n, Flags.none) ∧ fadd1 f r nbv b a = (f.inf n, Flags.none) ∧
      fsub1 f r nbv a b = (f.inf n, Flags.none) ∧ fsub1 f r nbv b a = (f.inf (!n), Flags.none) ∧
      (m = 0 → ffma1 f r nbv a b c = (f.nanBits, Flags.nv) ∧ ffma1 f r nbv b a c = (f.nanBits, Flags.nv)) ∧
      (m ≠ 0 → fmul1 f r nbv a b = (f.inf (n != k), Flags.none) ∧ fmul1 f r nbv b a = (f.inf (n != k), Flags.none) ∧
        (f.val c = .inf (n == k) → ffma1 f r nbv a b c = (f.nanBits, Flags.nv)) ∧
        ((f.val c).isInf = false → (f.val c).isNan = false → ffma1 f r nbv a b c = (f.inf (n != k), Flags.none)))) ∧
    ((f.val a).isNan = true ∨ (f.val b).isNan = true →
      ffma1 f r nbv a b c = (f.nanBits, (f.val a).sig ||| (f.val b).sig ||| (f.val c).sig)) ∧
    ((f.val a).isNan = false → (f.val a).isInf = false → (f.val b).isNan = false → (f.val b).isInf = false →
      (f.val c).isNan = true → ffma1 f r nbv a b c = (f.nanBits, (f.val c).sig))

/-! ### Group 2: predicates -/

/-- Two float values that are no NaN in order, exactly; the two zeros are equal (R149). -/
def Sys2Proof.Claims.Below (x y : FVal) : Prop :=
  (x = .inf true ∧ y ≠ .inf true) ∨ (y = .inf false ∧ x ≠ .inf false) ∨
    (x.isInf = false ∧ y.isInf = false ∧ valueOf x < valueOf y)

/-- R58, R149, Table 16: the condition of `fcmp` and the invalid it raises. -/
def Sys2Proof.Claims.FloatCondition (cc : BitVec 4) (x y : FVal) (res : Bool × Flags) : Prop :=
  let c := cc.toNat
  let nan := x.isNan = true ∨ y.isNan = true
  let invalid := x = .nan true ∨ y = .nan true ∨ (nan ∧ 2 ≤ c ∧ c ≤ 5)
  (nan → res.1 = decide (7 ≤ c)) ∧
    (¬nan → Below x y → res.1 = decide (c ∈ [1, 2, 3, 6, 9, 10, 11])) ∧
    (¬nan → Below y x → res.1 = decide (c ∈ [1, 4, 5, 6, 9, 12, 13])) ∧
    (¬nan → ¬Below x y → ¬Below y x → res.1 = decide (c ∈ [0, 3, 5, 6, 8, 11, 13])) ∧
    (invalid → res.2 = Flags.nv) ∧ (¬invalid → res.2 = Flags.none)

/-- R122 to R126, R149: the compares, `pset` and `btst` fold a condition into the pair of each executing lane, from the old values of both
predicates, `p0` taking no write; suppressed lanes keep theirs; and a pair that was complementary stays so. `pmov` writes the file under its
mask. -/
def Obligations.ComparesFoldTheirConditionIntoThePair : Prop :=
  (∀ (l : Lane) (pt pf : BitVec 3) (cmb : BitVec 2) (c : Bool) (p : BitVec 8), PairFolded l pt pf cmb c p → cmb ≠ 3 → pt ≠ pf →
    pt ≠ 0 → pf ≠ 0 → l.p.getLsbD pt.toNat = !l.p.getLsbD pf.toNat → p.getLsbD pt.toNat = !p.getLsbD pf.toNat) ∧
  Compares .icmp (fun o => o.ty.regs) (fun o => o.ty.regs)
    (fun o _ a b => (intCondition o.cc (intAt o.ty a) (intAt o.ty b), 0)) ∧
  Compares .fcmp (fun _ => 1) (fun _ => 1) (fun o nbv a b => fcmpValue o.ty o.cc nbv a b) ∧
  (∀ ty ∈ [Ty.f32, .f16, .bf16], ∀ (cc : BitVec 4) (nbv a b : Nat), cc.toNat < 14 →
    FloatCondition cc ((fmtOf ty).read nbv (a % 2 ^ ty.bits)) ((fmtOf ty).read nbv (b % 2 ^ ty.bits)) (fcmpValue ty cc nbv a b)) ∧
  Compares .btst (fun o => o.ty.regs) (fun _ => 1)
    (fun o _ a b => (decide (b % 2 ^ 32 < o.ty.bits) && a.testBit (b % 2 ^ 32), 0)) ∧
  (∀ (s : State) (g : Guard) (o : PsetOps) (x : Iss), (Instr.pset g o).wf = true → CanIssue s g x [] →
    ∃ (t : State) (p : Nat → BitVec 8), exec (.pset g o) s = .next t ∧
      (∀ i ∈ x.ex, PairFolded (x.w.lane i) o.pt o.pf o.cmb
        (o.tq.getLsbD (4 * ((x.w.lane i).pred o.q1).toNat + 2 * ((x.w.lane i).pred o.q2).toNat +
          ((x.w.lane i).pred o.q3).toNat)) (p i)) ∧
      WritesPredicates s t x (fun i _ => p i) x.w.fstat) ∧
  (∀ (s : State) (g : Guard) (o : ROps) (x : Iss), (Instr.pmovToPred g o).wf = true →
    CanIssue s g x (o.regUses ⟨1, 1, 1, 1⟩) →
    ∃ (t : State) (p : Nat → BitVec 8), exec (.pmovToPred g o) s = .next t ∧
      (∀ i ∈ x.ex, ∀ j < 8, (p i).getLsbD j =
        if o.mod.getLsbD (8 + j) then (x.read i o.a 1).testBit j else (x.w.lane i).p.getLsbD j) ∧
      WritesPredicates s t x (fun i _ => p i) x.w.fstat)

/-! ### Cross-lane operations -/

/-- R121, R132 to R135: the cross-lane instructions, over the executing lanes alone. -/
def Obligations.CrossLaneInstructionsSeeExecutingLanesOnly : Prop :=
  Crosses .shfl (fun o => ⟨o.ty.regs, o.ty.regs, 1, 1⟩) (fun o _ a b i r =>
    let w := 2 ^ (o.mod.extractLsb' 2 3).toNat
    let m := i % w
    r = a (match (o.mod.extractLsb' 0 2).toNat with
      | 0 => i - m + b i % w
      | 1 => if b i ≤ m then i - b i else i
      | 2 => if m + b i < w then i + b i else i
      | _ => i - m + (m ^^^ (b i % w)))) ∧
  Crosses .voteAny (fun _ => ⟨1, 1, 1, 1⟩) (fun o x _ _ _ r =>
    r = if ∃ j ∈ x.ex, ((x.w.lane j).pred (o.mod.extractLsb' 2 3) != o.mod.getLsbD 5) = true then 1 else 0) ∧
  Crosses .voteAll (fun _ => ⟨1, 1, 1, 1⟩) (fun o x _ _ _ r =>
    r = if ∀ j ∈ x.ex, ((x.w.lane j).pred (o.mod.extractLsb' 2 3) != o.mod.getLsbD 5) = true then 1 else 0) ∧
  Crosses .voteMask (fun _ => ⟨1, 1, 1, 1⟩) (fun o x _ _ _ r =>
    Bits 32 (fun j => decide (j ∈ x.ex) && ((x.w.lane j).pred (o.mod.extractLsb' 2 3) != o.mod.getLsbD 5)) r) ∧
  Crosses .matchAny (fun o => ⟨1, o.ty.regs, 1, 1⟩) (fun _ x a _ i r => Bits 32 (fun j => decide (j ∈ x.ex) && a j == a i) r) ∧
  Crosses .matchAll (fun o => ⟨1, o.ty.regs, 1, 1⟩) (fun _ x a _ _ r =>
    Bits 32 (fun j => decide (j ∈ x.ex) && decide (∀ m ∈ x.ex, ∀ n ∈ x.ex, a m = a n)) r) ∧
  Crosses .rdlane (fun o => ⟨o.ty.regs, o.ty.regs, 1, 1⟩) (fun _ x a b _ r => r = a (b (x.ex.headD 0) % 32)) ∧
  Crosses .wscan ROps.spans (fun o x a _ i r =>
    Combined (o.mod.extractLsb' 0 3).toNat o.ty
      ((x.ex.filter fun j => if o.mod.getLsbD 3 then j < i else j ≤ i).map a) r) ∧
  Crosses .wred ROps.spans (fun o x a _ _ r => Combined (o.mod.extractLsb' 0 3).toNat o.ty (x.ex.map a) r)

/-! ### Group 4: control -/

/-- R101: arrival at the end of the innermost loop frame takes the lane back to its start while iterations remain, and else
pops the frame and arrives again; elsewhere the lane stands at the address. -/
def Obligations.ArrivalAtALoopEndTakesTheLaneBack : Prop :=
  ∀ (l : Lane) (e : VAddr),
    (l.frames = [] → l.arrive e = { l with pc := e }) ∧
    ∀ f fs, l.frames = f :: fs →
      (f.fin ≠ e → l.arrive e = { l with pc := e }) ∧
      (f.fin = e → 1 < f.remaining.toNat →
        l.arrive e = { l with pc := f.start, frames := { f with remaining := f.remaining - 1 } :: fs }) ∧
      (f.fin = e → f.remaining.toNat ≤ 1 → l.arrive e = { l with frames := fs }.arrive e)

/-- R100: `loop` pushes a frame of its count on each executing lane, or skips the body where the count is 0 or the body empty;
with four frames pushed already it traps loop-overflow for the lowest such lane. -/
def Obligations.LoopPushesAFrameOrSkipsOrOverflows : Prop :=
  ∀ (s : State) (g : Guard) (o : COps) (x : Iss), (Instr.loop g o).wf = true → CanIssue s g x [(o.a, 1)] →
    let start := nextPc x.pc
    let e := x.pc + o.disp.signExtend 57
    let full := fun i => x.read i o.a 1 ≠ 0 ∧ e ≠ start ∧ (x.w.lane i).frames.length = 4
    validPc e = true →
    ((∀ i ∈ x.ex, ¬full i) →
      ∃ t, exec (.loop g o) s = .next t ∧
        ActsOn s t x x.w fun i =>
          if i ∉ x.ex then (x.w.lane i).arrive start
          else if x.read i o.a 1 = 0 ∨ e = start then (x.w.lane i).arrive e
          else { x.w.lane i with
            pc := start,
            frames := { start := start, fin := e, remaining := BitVec.ofNat 32 (x.read i o.a 1) } :: (x.w.lane i).frames }) ∧
    (∀ pre i post, x.ex = pre ++ i :: post → (∀ j ∈ pre, ¬full j) → full i →
      exec (.loop g o) s = .next (x.trapLane 0x0C i 0))

/-- R34, R94 to R98, R102: the executing lanes arrive at their targets, where these are valid PCs; the others go on to the next
slot; `call` writes the link pair.
R95: a transfer whose target is no valid PC traps bad-target for the first such lane, with the target in AUX; `call` has then
written its link and `loop.exit` popped its frames. -/
def Obligations.TransfersMoveLanesOrTrapBadTarget : Prop :=
  ((∀ (s : State) (g : Guard) (o : COps) (x : Iss), (Instr.bra g o).wf = true → CanIssue s g x [] →
      (x.ex ≠ [] → validPc (x.pc + o.disp.signExtend 57) = true) →
      ∃ t, exec (.bra g o) s = .next t ∧
        ActsOn s t x x.w fun i =>
          (x.w.lane i).arrive (if i ∈ x.ex then x.pc + o.disp.signExtend 57 else nextPc x.pc)) ∧
    (∀ (s : State) (g : Guard) (o : COps) (x : Iss), (Instr.brx g o).wf = true → CanIssue s g x [(o.a, 1)] →
      let n := (o.mod.extractLsb' 0 13).toNat
      let target := fun i => x.pc + o.disp.signExtend 57 + BitVec.ofNat 57 (64 * x.read i o.a 1)
      (∀ i ∈ x.ex, x.read i o.a 1 < n → validPc (target i) = true) →
      ∃ t, exec (.brx g o) s = .next t ∧
        ActsOn s t x x.w fun i =>
          (x.w.lane i).arrive (if i ∈ x.ex ∧ x.read i o.a 1 < n then target i else nextPc x.pc)) ∧
    (∀ (s : State) (g : Guard) (o : COps) (x : Iss), (Instr.call g o).wf = true → CanIssue s g x [(o.a, 2)] →
      (x.ex ≠ [] → validPc (x.pc + o.disp.signExtend 57) = true) →
      ∃ t, exec (.call g o) s = .next t ∧
        ActsOn s t x { x.w with k := kAfter x o.a 2 fun _ => (nextPc x.pc).toNat } fun i =>
          if i ∈ x.ex then
            { x.w.lane i with v := vAfter (x.w.lane i).v o.a 2 (nextPc x.pc).toNat }.arrive (x.pc + o.disp.signExtend 57)
          else (x.w.lane i).arrive (nextPc x.pc)) ∧
    (∀ (s : State) (g : Guard) (o : COps) (x : Iss), (Instr.ret g o).wf = true → CanIssue s g x [(o.a, 2)] →
      (∀ i ∈ x.ex, x.read i o.a 2 < 2 ^ 57 ∧ validPc (BitVec.ofNat 57 (x.read i o.a 2)) = true) →
      ∃ t, exec (.ret g o) s = .next t ∧
        ActsOn s t x x.w fun i =>
          (x.w.lane i).arrive (if i ∈ x.ex then BitVec.ofNat 57 (x.read i o.a 2) else nextPc x.pc)) ∧
    (∀ (s : State) (g : Guard) (o : COps) (x : Iss), (Instr.loopExit g o).wf = true → CanIssue s g x [] →
      (x.ex ≠ [] → validPc (x.pc + o.disp.signExtend 57) = true) →
      ∃ t, exec (.loopExit g o) s = .next t ∧
        ActsOn s t x x.w fun i =>
          if i ∈ x.ex then { x.w.lane i with frames := (x.w.lane i).frames.tail }.arrive (x.pc + o.disp.signExtend 57)
          else (x.w.lane i).arrive (nextPc x.pc))) ∧
  ((∀ (s : State) (g : Guard) (o : COps) (x : Iss), (Instr.bra g o).wf = true → CanIssue s g x [] → x.ex ≠ [] →
      validPc (x.pc + o.disp.signExtend 57) = false →
      exec (.bra g o) s = .next (x.trapLane 0x03 x.lead (x.pc + o.disp.signExtend 57).toNat)) ∧
    (∀ (s : State) (g : Guard) (o : COps) (x : Iss) (pre post : List Nat) (i : Nat), (Instr.ret g o).wf = true →
      CanIssue s g x [(o.a, 2)] → x.ex = pre ++ i :: post →
      (∀ j ∈ pre, x.read j o.a 2 < 2 ^ 57 ∧ validPc (BitVec.ofNat 57 (x.read j o.a 2)) = true) →
      ¬(x.read i o.a 2 < 2 ^ 57 ∧ validPc (BitVec.ofNat 57 (x.read i o.a 2)) = true) →
      exec (.ret g o) s = .next (x.trapLane 0x03 i (x.read i o.a 2))) ∧
    (∀ (s : State) (g : Guard) (o : COps) (x : Iss) (pre post : List Nat) (i : Nat), (Instr.brx g o).wf = true →
      CanIssue s g x [(o.a, 1)] → x.ex = pre ++ i :: post →
      let n := (o.mod.extractLsb' 0 13).toNat
      let target := fun j => x.pc + o.disp.signExtend 57 + BitVec.ofNat 57 (64 * x.read j o.a 1)
      (∀ j ∈ pre, x.read j o.a 1 < n → validPc (target j) = true) → x.read i o.a 1 < n → validPc (target i) = false →
      exec (.brx g o) s = .next (x.trapLane 0x03 i (target i).toNat)) ∧
    (∀ (s : State) (g : Guard) (o : COps) (x : Iss), (Instr.call g o).wf = true → CanIssue s g x [(o.a, 2)] → x.ex ≠ [] →
      validPc (x.pc + o.disp.signExtend 57) = false →
      let linked := { x.w with
        k := kAfter x o.a 2 fun _ => (nextPc x.pc).toNat,
        lanes := x.w.lanes.mapIdx fun i l =>
          if i ∈ x.ex then { l with v := vAfter l.v o.a 2 (nextPc x.pc).toNat } else l }
      exec (.call g o) s = .next
        { (s.setWarp linked).takeTrap (x.trapRec 0x03 (x.pc + o.disp.signExtend 57).toNat x.lead) with
          issues := s.issues + 1 }) ∧
    (∀ (s : State) (g : Guard) (o : COps) (x : Iss), (Instr.loopExit g o).wf = true → CanIssue s g x [] → x.ex ≠ [] →
      validPc (x.pc + o.disp.signExtend 57) = false →
      let popped := { x.w with
        lanes := x.w.lanes.mapIdx fun i l => if i ∈ x.ex then { l with frames := l.frames.tail } else l }
      exec (.loopExit g o) s = .next
        { (s.setWarp popped).takeTrap (x.trapRec 0x03 (x.pc + o.disp.signExtend 57).toNat x.lead) with
          issues := s.issues + 1 }))

/-- R104: `join.enrol` adds the executing lanes to the enrolled mask and goes on; `join.leave` takes them out of both masks. Where
the masks do not then complete, nothing else changes.
R104: enrolled executing lanes, whose loads have returned, arrive and wait, the others pass; the last to arrive release every
arrived lane, each at the slot after its instruction, and clear the barrier. -/
def Obligations.ConvergenceBarriersEnrolHoldAndRelease : Prop :=
  ((∀ (s : State) (g : Guard) (o : COps) (x : Iss), (Instr.joinEnrol g o).wf = true → CanIssue s g x [] →
      let m := x.w.cb.getD o.cb.toNat (0, 0)
      (m.1 ||| maskOf x.ex = 0 ∨ m.2 ≠ m.1 ||| maskOf x.ex) →
      ∃ t, exec (.joinEnrol g o) s = .next t ∧
        ActsOn s t x { x.w with cb := x.w.cb.set o.cb.toNat (m.1 ||| maskOf x.ex, m.2) } fun i =>
          (x.w.lane i).arrive (nextPc x.pc)) ∧
    (∀ (s : State) (g : Guard) (o : COps) (x : Iss), (Instr.joinLeave g o).wf = true → CanIssue s g x [] →
      x.w.cb.length = 16 →
      let m := x.w.cb.getD o.cb.toNat (0, 0)
      let k := ~~~maskOf x.ex
      (m.1 &&& k = 0 ∨ m.2 &&& k ≠ m.1 &&& k) →
      ∃ t, exec (.joinLeave g o) s = .next t ∧
        ActsOn s t x { x.w with cb := x.w.cb.set o.cb.toNat (m.1 &&& k, m.2 &&& k) } fun i =>
          (x.w.lane i).arrive (nextPc x.pc))) ∧
  (∀ (s : State) (g : Guard) (o : COps) (x : Iss), (Instr.joinWait g o).wf = true → CanIssue s g x [] →
      x.w.cb.length = 16 → x.w.holds = [] →
      let m := x.w.cb.getD o.cb.toNat (0, 0)
      let arr := x.ex.filter fun i => m.1.getLsbD i
      let m' := m.2 ||| maskOf arr
      (∀ i ∈ arr, s.loading (x.w.lane i).uid = false) →
      ((m.1 = 0 ∨ m' ≠ m.1) →
        ∃ t, exec (.joinWait g o) s = .next t ∧
          ActsOn s t x { x.w with cb := x.w.cb.set o.cb.toNat (m.1, m') } fun i =>
            if i ∈ arr then { x.w.lane i with status := .waiting (.join o.cb.toNat) }
            else (x.w.lane i).arrive (nextPc x.pc)) ∧
      (m.1 ≠ 0 → m' = m.1 → (∀ i ∈ x.act, i ∉ arr → m'.getLsbD i = false) →
        ∃ t w, exec (.joinWait g o) s = .next t ∧ OnlyWarp s t x w ∧
          Turned { x.w with cb := x.w.cb.set o.cb.toNat (0, 0) } w ∧
          ∀ i < x.w.lanes.length,
            let l := if i ∈ x.act ∧ i ∉ arr then (x.w.lane i).arrive (nextPc x.pc)
              else if m'.getLsbD i then { (x.w.lane i).arrive (nextPc (x.w.lane i).pc) with status := .runnable }
              else x.w.lane i
            w.lane i = if i ∈ x.act then { l with lastIssue := s.cycle } else l))

/-- The turn of lane `k`'s path has ended: where another path has waited since before this cycle, one that has waited longest
has the turn (R85, R86). -/
def Sys2Proof.Claims.TurnPasses (s t : State) (x : Iss) (k : Nat) : Prop :=
  ∀ w, t.warp? x.w.core x.w.slot = some w →
    ∀ q ∈ w.paths, q ≠ (w.lane k).pc → x.w.waited s.cycle q < s.cycle →
      ∃ n ∈ w.paths, w.cur = some n ∧ n ≠ (w.lane k).pc ∧ w.turnStart = s.cycle ∧
        ∀ r ∈ w.paths, r ≠ (w.lane k).pc → x.w.waited s.cycle n ≤ x.w.waited s.cycle r

/-- R85, R86, R106 to R108, R119, R198, R244, R402: `nop`, `yield`, `snooze`, `wait`, `rgn`, `ppoint` and, with debugging off, `brk`;
`yield` and `snooze` end the turn of their path. -/
def Obligations.TurnsWaitsAndRegionsMoveTheirLanes : Prop :=
  (∀ (s : State) (g : Guard) (o : ROps) (x : Iss), (Instr.nop g o).wf = true → CanIssue s g x [] →
    ∃ t, exec (.nop g o) s = .next t ∧ MovesOn s t x) ∧
  (∀ (s : State) (g : Guard) (o : COps) (x : Iss), (Instr.yield g o).wf = true → CanIssue s g x [] →
    ∃ t, exec (.yield g o) s = .next t ∧ MovesOn s t x ∧ (x.ex ≠ [] → TurnPasses s t x (x.act.headD 0))) ∧
  (∀ (s : State) (g : Guard) (o : ROps) (x : Iss), (Instr.snooze g o).wf = true → CanIssue s g x [(o.a, 1)] →
    let d := min ((x.ex.map fun i => x.read i o.a 1).foldl max 0) 65535
    ∃ t, exec (.snooze g o) s = .next t ∧
      ActsOn s t x x.w (fun i =>
        if i ∈ x.ex ∧ d ≠ 0 then { x.w.lane i with status := .waiting (.snooze (s.cycle + d)) }
        else (x.w.lane i).arrive (nextPc x.pc)) ∧
      (x.ex ≠ [] → TurnPasses s t x
        (if d = 0 then x.act.headD 0 else ((x.act.filter fun i => decide (i ∉ x.ex)) ++ x.act).headD 0))) ∧
  (∀ (s : State) (g : Guard) (o : WOps) (x : Iss), (Instr.wait g o).wf = true → CanIssue s g x [] →
    let within := x.w.count .ld ≤ o.nld.toNat ∧ x.w.count .st ≤ o.nst.toNat ∧ x.w.count .cp ≤ o.ncp.toNat ∧
      x.w.count .mx ≤ o.nmx.toNat
    (x.ex = [] ∨ within → ∃ t, exec (.wait g o) s = .next t ∧ MovesOn s t x) ∧
    (x.ex ≠ [] → ¬within → exec (.wait g o) s = .next s)) ∧
  (∀ (s : State) (g : Guard) (o : COps) (x : Iss), (Instr.rgn g o).wf = true → CanIssue s g x [] →
    ∃ t, exec (.rgn g o) s = .next t ∧
      ActsOn s t x x.w fun i =>
        let l := x.w.lane i
        (if i ∈ x.ex then { l with rpc := nextPc x.pc, rsnap := l.frames, rcnt := l.rcnt + 1 } else l).arrive (nextPc x.pc)) ∧
  (∀ (s : State) (g : Guard) (o : PpointOps) (x : Iss), (Instr.ppoint g o).wf = true → CanIssue s g x [] →
    let stops := x.ex ≠ [] ∧ s.softPending x.w.ctx = true
    (¬stops → ∃ t, exec (.ppoint g o) s = .next t ∧ MovesOn s t x) ∧
    (stops → ∃ t, exec (.ppoint g o) s = .next t ∧
      ActsOn s t x { x.w with stopped := some (o.accm, o.prsm, o.plm) } fun i =>
        let l := x.w.lane i
        (if i ∈ x.ex then { l with atPpoint := true } else l).arrive (nextPc x.pc))) ∧
  (∀ (s : State) (g : Guard) (o : COps) (x : Iss), (Instr.brk g o).wf = true → CanIssue s g x [] →
    x.ex = [] ∨ s.sys.dbgctl.getLsbD 0 = false →
    ∃ t, exec (.brk g o) s = .next t ∧ MovesOn s t x)

/-- R109, R410: with debugging on, `brk` moves the warp on and halts it, and with DBGCTL bit 1 every warp of its context; and
the record of trap breakpoint is posted, with its number in AUX, and put into the black box; a warp halted with a path held whose
awaited lane has resumed elsewhere traps illegal-convergence at the held instruction (R247); `trap` takes user-trap, with its code in
the trap word of the debug pages. That a warp formed later is not halted is the model's (assumption 79). -/
def Obligations.BreakpointHaltsTheWarpAndTrapTakesItsTrap : Prop :=
  (∀ (s : State) (g : Guard) (o : COps) (x : Iss), (Instr.brk g o).wf = true → CanIssue s g x [] → x.ex ≠ [] →
    s.sys.dbgctl.getLsbD 0 = true → x.w.holds = [] →
    (s.sys.dbgctl.getLsbD 1 = true → ∀ v ∈ s.warps, v.ctx = x.w.ctx → v.holds = []) →
    ∃ t w, exec (.brk g o) s = .next t ∧ t.warp? x.w.core x.w.slot = some w ∧ w.brk = true ∧
      (∀ i, w.lane i = if i ∈ x.act then { (x.w.lane i).arrive (nextPc x.pc) with lastIssue := s.cycle } else x.w.lane i) ∧
      (s.sys.dbgctl.getLsbD 1 = true → ∀ v ∈ t.warps, v.ctx = x.w.ctx → v.brk = true) ∧
      t.issues = s.issues + 1 ∧ t.launches = s.launches ∧
      (let r : FaultRec :=
         { gen := x.l.gen, ctx := x.w.ctx, gt := s.gt % 2 ^ 48, aux := (o.mod.extractLsb' 0 8).toNat, lane := x.ex.headD 0,
           addr := x.pc.toNat, count := maskOf x.ex, warp := x.w.slot, core := x.w.core, code := 0x0A, typ := 0, kind := 3 }
       (s.ringFull = true → s.pendingRecs = [] → t.pendingRecs = [r] ∧ t.outside.irqs = s.outside.irqs ++ [0, 4]) ∧
       (s.ringFull = false → s.pendingRecs = [] → ∃ u : State, t.sys.frtail = s.sys.frtail + 1 ∧
         (∀ a, t.devByte a = u.devByte a) ∧
         u = s.tsWrite (s.ringBase + 32 * (s.sys.frtail.toNat % 2 ^ s.ringN)) (r.bytes s.ovfNext)) ∧
       (∃ b ∈ t.service.box, b.kind = 0 ∧ b.source = x.w.core ∧ b.gt = s.gtOf 384))) ∧
  (∀ (s : State) (g : Guard) (o : COps) (x : Iss) (pc : VAddr) (awaited ex : Mask) (i : Nat), (Instr.brk g o).wf = true →
    CanIssue s g x [] → x.ex ≠ [] → s.sys.dbgctl.getLsbD 0 = true → s.sys.dbgctl.getLsbD 1 = false →
    x.w.holds = [(pc, awaited, ex)] → i < 32 → awaited.getLsbD i = true → (x.w.lane i).status = .runnable → (x.w.lane i).pc ≠ pc →
    x.l.run = .live →
    ∃ t w l, exec (.brk g o) s = .next t ∧ t.warp? x.w.core x.w.slot = some w ∧ w.brk = true ∧
      t.launch? x.w.ctx = some l ∧ l.run = .halted ∧ l.dtrap.toNat / 2 ^ 16 % 2 ^ 8 = 0x05 ∧
      (s.ringFull = true → s.pendingRecs = [] → ∃ r r', t.pendingRecs = [r, r'] ∧ r.code = 0x0A ∧ r.kind = 3 ∧ r'.kind = 3 ∧
        r'.code = 0x05 ∧ r'.addr = pc.toNat ∧ r'.core = x.w.core ∧ r'.warp = x.w.slot ∧ r'.count = ex)) ∧
  (∀ (s : State) (g : Guard) (o : ROps) (x : Iss), (Instr.trap g o).wf = true → CanIssue s g x [] →
    (x.ex = [] → ∃ t, exec (.trap g o) s = .next t ∧ MovesOn s t x) ∧
    (x.ex ≠ [] → ∃ t, exec (.trap g o) s = .next t ∧
      t = (x.trapLane 0x0B (x.ex.headD 0) 0).modLaunch x.w.ctx fun l =>
        { l with dtrap := setByte l.dtrap 0 (o.mod.extractLsb' 0 8).toNat }))

/-- The executing threads of `x` have ended, and only they (R103): their lanes are exited; an active lane that does not execute, and
has not arrived at a convergence barrier, has moved on; a lane that neither waits nor has arrived is as it was; every convergence
barrier has lost the executing lanes, and one that this completes has released those that arrived and is clear; the home core of each
thread, and the origin core of the cluster, know of it or a packet tells them; a warp that waits at no barrier of the cluster, memory and
requests are as they were. -/
def Sys2Proof.Claims.Ends (s t : State) (x : Iss) : Prop :=
  let k := ~~~maskOf x.ex
  let left := fun b => ((x.w.cb.getD b (0, 0)).1 &&& k, (x.w.cb.getD b (0, 0)).2 &&& k)
  let completes := fun b => (left b).1 ≠ 0 ∧ (left b).2 = (left b).1
  let arrived := fun (b i : Nat) => (x.w.cb.getD b (0, 0)).2.getLsbD i
  t.issues = s.issues + 1 ∧ SameMemory s t ∧ t.reqs = s.reqs ∧ t.launches = s.launches ∧ t.sys = s.sys ∧
  (∀ w, t.warp? x.w.core x.w.slot = some w →
    (∀ j ∈ x.ex, (w.lane j).status = .exited) ∧
    (∀ i ∈ x.act, i ∉ x.ex → (∀ b < 16, arrived b i = false) →
      w.lane i = { (x.w.lane i).arrive (nextPc x.pc) with lastIssue := s.cycle }) ∧
    (∀ i < x.w.lanes.length, i ∉ x.act → (∀ b < 16, arrived b i = false) → (∀ k, (x.w.lane i).status ≠ .waiting k) →
      w.lane i = x.w.lane i) ∧
    (x.w.cb.length = 16 → ∀ b < 16, w.cb.getD b (0, 0) = if completes b then (0, 0) else left b) ∧
    (∀ b < 16, x.w.cb.length = 16 → completes b → ∀ i < x.w.lanes.length, i ∉ x.act → arrived b i = true →
      (∀ d < 16, d ≠ b → arrived d i = false) →
      w.lane i = { (x.w.lane i).arrive (nextPc (x.w.lane i).pc) with status := .runnable })) ∧
  (∀ v ∈ s.warps, ¬(v.core = x.w.core ∧ v.slot = x.w.slot) →
    (∀ l ∈ v.lanes, (∀ b, l.status ≠ .waiting (.bar b)) ∧ l.status ≠ .waiting .cbar) → v ∈ t.warps) ∧
  (∀ bid b, t.block? x.w.ctx x.w.cluster bid = some b → ∃ b0, s.block? x.w.ctx x.w.cluster bid = some b0 ∧
    ∀ u, u ∈ b.exited ↔ u ∈ b0.exited ∨
      (x.w.kind ≠ .handler ∧ x.c.home x.l bid = x.w.core ∧ ∃ j ∈ x.ex, (x.w.lane j).bid = bid ∧ (x.w.lane j).tid = u)) ∧
  (x.w.kind ≠ .handler →
    (∀ j ∈ x.ex, x.c.home x.l (x.w.lane j).bid ≠ x.w.core →
      ∃ p ∈ t.packets, ∃ ts, p.dst = x.c.home x.l (x.w.lane j).bid ∧ p.ctx = x.w.ctx ∧ p.cluster = x.w.cluster ∧
        p.what = .exits (x.w.lane j).bid ts ∧ (x.w.lane j).tid ∈ ts) ∧
    (if x.w.core = coreAt x.c.die x.c.oy x.c.ox then
      ∀ c, t.cluster? x.w.ctx x.w.cluster = some c → c.cexits = x.c.cexits + x.ex.length
    else ∃ p ∈ t.packets, p.dst = coreAt x.c.die x.c.oy x.c.ox ∧ p.ctx = x.w.ctx ∧ p.cluster = x.w.cluster ∧
      p.what = .cexits x.ex.length)) ∧
  (x.w.kind = .handler → t.blocks = s.blocks ∧ t.packets = s.packets)

/-- R103, R379: `exit`, and `mdone` in a handler thread, end the executing threads and only them. `mdone` elsewhere traps
illegal-instruction. That an end reaches the cores that count the thread as a packet is the model's reading (assumption 59). -/
def Obligations.ExitEndsTheExecutingThreads : Prop :=
  (∀ (s : State) (g : Guard) (o : COps) (x : Iss), (Instr.exit g o).wf = true → CanIssue s g x [] →
    (x.ex = [] → ∃ t, exec (.exit g o) s = .next t ∧ MovesOn s t x) ∧
    (x.ex ≠ [] → ∃ t, exec (.exit g o) s = .next t ∧ Ends s t x)) ∧
  (∀ (s : State) (g : Guard) (o : ROps) (x : Iss), (Instr.mdone g o).wf = true → CanIssue s g x [] →
    (∀ i ∈ x.ex, s.acquiring (x.w.lane i).uid = false) →
    (x.ex = [] → ∃ t, exec (.mdone g o) s = .next t ∧ MovesOn s t x) ∧
    (x.ex ≠ [] → x.w.kind = .handler → ∃ t, exec (.mdone g o) s = .next t ∧ Ends s t x) ∧
    (x.ex ≠ [] → x.w.kind ≠ .handler → exec (.mdone g o) s = .next (x.trap 0x01)))

/-! ### Group 3: memory accesses -/

/-- An access goes through: lanes execute, no acquire is outstanding, nothing older in the warp is complete, no lane traps or
faults or meets the mend log, a counted operation and entries are free, and a release's conditions hold. -/
structure Sys2Proof.Claims.GoesThrough (s : State) (x : Iss) (o : MOps) (kind : ReqKind) (aligned : Bool) : Prop where
  lanes : x.ex ≠ []
  acquired : ∀ i ∈ x.ex, s.acquiring (x.w.lane i).uid = false
  released : kind ≠ .load → o.lc = 3 → x.fenced 2 = true
  plans : ∀ i ∈ x.ex, (x.plan i o (o.ty.bits / 8) aligned (kind != .load)).trap = none ∧
    ∀ p ∈ (x.plan i o (o.ty.bits / 8) aligned (kind != .load)).parts, ∃ m, p.out = .ok m
  unlogged : s.mends = []
  counted : x.w.count kind.cls ≠ 127
  entries :
    let plans := x.ex.map fun i => x.plan i o (o.ty.bits / 8) aligned (kind != .load)
    x.needs o kind (if kind = .load then x.passing plans else []) plans ≤ s.entriesFor x.w.core x.w.slot
  older : ∀ q ∈ x.w.ops, q.left ≠ 0
  recorded : s.pendingRecs = []

/-- What the issue of an access leaves: one request for each part of each executing lane, in lane order, with its address, its
place in the access and its data; one counted operation; every active lane moved on with its registers, predicates and frames
as sequential flow leaves them; memory untouched. -/
def Sys2Proof.Claims.Sends (s t : State) (x : Iss) (o : MOps) (kind : ReqKind) (aligned : Bool) (data : Nat → List Byte) (whole : Bool) : Prop :=
  let parts := x.ex.flatMap fun i => (x.plan i o (o.ty.bits / 8) aligned (kind != .load)).parts.map fun p => (i, p)
  ∃ (old new : List Req) (w : Warp) (q : OutOp), t.reqs = old ++ new ∧
    (old.map fun r => { r with live := false, seen := [] }) = (s.reqs.map fun r => { r with live := false, seen := [] }) ∧
    (new.map fun r => (r.lane, r.kind, r.va, r.at_, r.size, r.data)) =
      (parts.map fun c => (c.1, kind, c.2.va, c.2.at_, c.2.size,
        if whole then data c.1 else ((data c.1).drop c.2.at_).take c.2.size)) ∧
    (new.map fun r => some r.tgt) = (parts.map fun c => match c.2.out with
      | .ok m => some m.tgt
      | _ => none) ∧
    t.warp? x.w.core x.w.slot = some w ∧ w.ops = x.w.ops ++ [q] ∧ q.cls = kind.cls ∧ q.left = new.length ∧
    (∀ i, (w.lane i).v = (x.w.lane i).v ∧ (w.lane i).p = (x.w.lane i).p ∧ (w.lane i).status = (x.w.lane i).status ∧
      (w.lane i).pc = (if i ∈ x.act then (x.w.lane i).arrive (nextPc x.pc) else x.w.lane i).pc ∧
      (w.lane i).frames = (if i ∈ x.act then (x.w.lane i).arrive (nextPc x.pc) else x.w.lane i).frames) ∧
    w.k = x.w.k ∧ w.cb = x.w.cb ∧ w.fstat = x.w.fstat ∧ w.cpstat = x.w.cpstat ∧
    SameMemory s t ∧ t.sys = s.sys ∧ t.launches = s.launches ∧ t.issues = s.issues + 1

/-- The fault ring after records are written into it, in order, each at TAIL as it then is, the first with the overflow mark that
stood: TAIL has passed them, and every other byte is as it was (R251, R254). -/
def Sys2Proof.Claims.InRing (s t : State) : List FaultRec → Prop
  | [] => (∀ a, t.devByte a = s.devByte a) ∧ t.sys.frtail = s.sys.frtail
  | r :: rs =>
    let u := s.tsWrite (s.ringBase + 32 * (s.sys.frtail.toNat % 2 ^ s.ringN)) (r.bytes s.ovfNext)
    InRing { u with ovfNext := false, sys := { u.sys with frtail := u.sys.frtail + 1 } } t rs

/-- The records are posted, in order: into the ring where it has room for them, else behind those that wait (R251, R254). -/
def Sys2Proof.Claims.Posts (s t : State) (rs : List FaultRec) : Prop :=
  (s.ringFull = true → t.pendingRecs = rs ∧ t.hbm = s.hbm ∧ t.l2 = s.l2) ∧
  (4 ≤ s.ringN → s.ringN ≤ 20 → s.tsCovers s.ringBase (32 * 2 ^ s.ringN) = true →
    (s.sys.frtail - s.sys.frhead).toNat + rs.length ≤ 2 ^ s.ringN → t.pendingRecs = [] ∧ InRing s t rs)

/-- An access of executing lanes issues, though parts of it meet translation faults or units of the mend log: no acquire is
outstanding, no lane traps, none waits for an entry of its thread (R249), a counted operation is free and a release's conditions
hold. -/
structure Sys2Proof.Claims.Issues (s : State) (x : Iss) (o : MOps) (kind : ReqKind) (aligned : Bool) : Prop where
  lanes : x.ex ≠ []
  acquired : ∀ i ∈ x.ex, s.acquiring (x.w.lane i).uid = false
  released : kind ≠ .load → o.lc = 3 → x.fenced 2 = true
  plans : ∀ i ∈ x.ex, (x.plan i o (o.ty.bits / 8) aligned (kind != .load)).trap = none
  waits : ∀ i ∈ x.ex, ∀ p ∈ (x.plan i o (o.ty.bits / 8) aligned (kind != .load)).parts,
    (∀ m, p.out = .ok m → m.tgt.isSram = false) → s.waitsForLog kind (x.w.lane i).uid x.w.core x.w.ctx p.va = false
  counted : x.w.count kind.cls ≠ 127
  older : ∀ q ∈ x.w.ops, q.left ≠ 0
  recorded : s.pendingRecs = []
  alone : ∀ i ∈ x.ex, ∀ j < x.w.lanes.length, (x.w.lane j).uid = (x.w.lane i).uid → j = i

/-- The miss-status entries that the access needs (R200, R201). -/
def Sys2Proof.Claims.entriesNeeded (x : Iss) (o : MOps) (kind : ReqKind) (aligned : Bool) : Nat :=
  let plans := x.ex.map fun i => x.plan i o (o.ty.bits / 8) aligned (kind != .load)
  x.needs o kind (if kind = .load then x.passing plans else []) plans

/-- The accesses with their registers. -/
def Sys2Proof.Claims.accessForms (g : Guard) (o : MOps) : List (Instr × List RegUse × ReqKind × Bool) :=
  [(.ld g o, (o.d, o.ty.regs) :: addrUses o, .load, false), (.st g o, (o.d, o.ty.regs) :: addrUses o, .store, false),
    (.red g o, (o.d, o.ty.regs) :: addrUses o, .red, true),
    (.atom g o, (o.d, if o.aop == 8 then 2 * o.ty.regs else o.ty.regs) :: addrUses o, .atom, true)]

/-- The parts of the executing lanes, in lane order. -/
def Sys2Proof.Claims.partsOf (x : Iss) (o : MOps) (kind : ReqKind) (aligned : Bool) : List (Nat × Part) :=
  x.ex.flatMap fun i => (x.plan i o (o.ty.bits / 8) aligned (kind != .load)).parts.map fun p => (i, p)

/-- One record for each part that faults (R242, R251, R253). -/
def Sys2Proof.Claims.faultsOf (s : State) (x : Iss) (typ : Nat) (ps : List (Nat × Part)) : List FaultRec :=
  ps.filterMap fun c => match c.2.out with
    | .fault k => some (s.record x.w.ctx k typ 0 x.w.core x.w.slot c.1 c.2.va (x.w.lane c.1).rpc.toNat (x.w.lane c.1).rcnt)
    | _ => none

/-- The parts are sent, in order: a request for each, behind those there were. -/
def Sys2Proof.Claims.SendsParts (s t : State) (kind : ReqKind) (ps : List (Nat × Part)) : Prop :=
  ∃ old new : List Req, t.reqs = old ++ new ∧
    (old.map fun r => { r with live := false, seen := [] }) = (s.reqs.map fun r => { r with live := false, seen := [] }) ∧
    (new.map fun r => (r.lane, r.kind, r.va, r.at_, r.size)) = ps.map fun c => (c.1, kind, c.2.va, c.2.at_, c.2.size)

/-- R242, R246: what a `ld` (TYPE 0) or `atom` (TYPE 1) with faults leaves: a lane of which a part faults is parked with the addresses
of those parts, standing where it stood with all it held, and no part of its access is sent; the other active lanes have moved on, the
executing ones with their parts sent; each faulting part has its record. -/
def Sys2Proof.Claims.FaultingLanesPark (s t : State) (x : Iss) (o : MOps) (kind : ReqKind) (aligned : Bool) : Prop :=
  let ps := partsOf x o kind aligned
  let faulty := fun (i : Nat) => ps.any fun c => c.1 == i && c.2.faults
  SendsParts s t kind (ps.filter fun c => !faulty c.1) ∧ t.mends = s.mends ∧
  Posts s t (faultsOf s x (if kind = .load then 0 else 1) ps) ∧
  ∃ w, t.warp? x.w.core x.w.slot = some w ∧ w.k = x.w.k ∧ w.cb = x.w.cb ∧ ∀ i < x.w.lanes.length,
    (i ∈ x.ex → faulty i = true → w.lane i =
      { x.w.lane i with
        status := .parked (if kind = .load then 0 else 1) ((ps.filter fun c => c.1 == i && c.2.faults).map fun c => c.2.va),
        lastIssue := s.cycle }) ∧
    (i ∈ x.act → ¬(i ∈ x.ex ∧ faulty i = true) → (w.lane i).status = (x.w.lane i).status ∧ (w.lane i).v = (x.w.lane i).v ∧
      (w.lane i).pc = ((x.w.lane i).arrive (nextPc x.pc)).pc) ∧
    (i ∉ x.act → w.lane i = x.w.lane i)

/-- R242, R248, R249: what a `st` (TYPE 2) or `red` (TYPE 3) with faults leaves: the parts that fault, and those to a 64 KiB unit that
the core's log has, enter the log behind it in lane order while its 256 entries last, each with its thread, address, data and operation,
MC of its thread rising; a lane with a part that finds no entry is parked with the addresses of such parts and keeps its place; the other
parts are sent, PW rising, and the other active lanes move on; each faulting part has its record. -/
def Sys2Proof.Claims.FaultingPartsEnterTheLog (s t : State) (x : Iss) (o : MOps) (kind : ReqKind) (aligned : Bool) : Prop :=
  let ps := partsOf x o kind aligned
  let typ := if kind = .store then 2 else 3
  let logs := fun (c : Nat × Part) => match c.2.out with
    | .ok m => !m.tgt.isSram && s.logged x.w.core x.w.ctx c.2.va
    | _ => true
  let room := 256 - (s.mends.filter fun m => m.core == x.w.core).length
  let taken := (ps.filter logs).take room
  let rest := (ps.filter logs).drop room
  let lane := fun (i : Nat) =>
    { x.w.lane i with
      mc := (x.w.lane i).mc + (taken.filter fun (c : Nat × Part) => c.1 == i).length,
      pw := (x.w.lane i).pw + (ps.filter fun (c : Nat × Part) => c.1 == i && !logs c).length }
  SendsParts s t kind (ps.filter fun (c : Nat × Part) => !logs c) ∧ Posts s t (faultsOf s x typ ps) ∧
  (∃ new, t.mends = s.mends ++ new ∧
    (new.map fun m => (m.core, m.ctx, m.cluster, m.bid, m.tid, m.uid)) = (taken.map fun (c : Nat × Part) => (x.w.core, x.w.ctx, x.w.cluster,
      if x.w.kind = .handler then 0xFFFFFFFF else (x.w.lane c.1).bid, (x.w.lane c.1).tid, (x.w.lane c.1).uid)) ∧
    (new.map fun m => (m.va, m.data, m.aop, m.ty, m.lc)) = (taken.map fun (c : Nat × Part) => (c.2.va,
      ((natToBytes (o.ty.bits / 8) (x.read c.1 o.d o.ty.regs)).drop c.2.at_).take c.2.size,
      if kind = .store then 0xFF else o.aop.toNat, o.ty, o.lc))) ∧
  ∃ w, t.warp? x.w.core x.w.slot = some w ∧ w.k = x.w.k ∧ w.cb = x.w.cb ∧ ∀ i < x.w.lanes.length,
    let spilt := rest.filter fun (c : Nat × Part) => c.1 == i
    (spilt ≠ [] → w.lane i = { lane i with status := .parked typ (spilt.map fun (c : Nat × Part) => c.2.va), lastIssue := s.cycle }) ∧
    (i ∈ x.act → spilt = [] → w.lane i = { (lane i).arrive (nextPc x.pc) with lastIssue := s.cycle }) ∧
    (i ∉ x.act → w.lane i = x.w.lane i)

/-- R170 to R183, R192: `ld`, `st`, `atom` and `red` that go through send the requests of their executing lanes and count one
operation; memory changes only when a request reaches its home.
R242, R246, R248, R249: at translation faults the lanes of `ld` and `atom` park, and the parts of `st` and `red` enter the mend log.
R202: an access that finds too few entries free is rejected as a whole: its age rises, and nothing else changes. When an atomic's entry
is free again is the model's (assumption 80). -/
def Obligations.AccessesSendOneRequestPerPart : Prop :=
  (∀ (s : State) (g : Guard) (o : MOps) (x : Iss), (Instr.ld g o).wf = true →
    CanIssue s g x ((o.d, o.ty.regs) :: addrUses o) → nbvOk s o.ty = true → GoesThrough s x o .load false →
    ∃ t, exec (.ld g o) s = .next t ∧ Sends s t x o .load false (fun _ => []) true) ∧
  (∀ (s : State) (g : Guard) (o : MOps) (x : Iss), (Instr.st g o).wf = true →
    CanIssue s g x ((o.d, o.ty.regs) :: addrUses o) → nbvOk s o.ty = true → GoesThrough s x o .store false →
    ∃ t, exec (.st g o) s = .next t ∧
      Sends s t x o .store false (fun i => natToBytes (o.ty.bits / 8) (x.read i o.d o.ty.regs)) false) ∧
  (∀ (s : State) (g : Guard) (o : MOps) (x : Iss), (Instr.red g o).wf = true →
    CanIssue s g x ((o.d, o.ty.regs) :: addrUses o) → GoesThrough s x o .red true →
    ∃ t, exec (.red g o) s = .next t ∧
      Sends s t x o .red true (fun i => natToBytes (o.ty.bits / 8) (x.read i o.d o.ty.regs)) false) ∧
  (∀ (s : State) (g : Guard) (o : MOps) (x : Iss), (Instr.atom g o).wf = true →
    CanIssue s g x ((o.d, if o.aop == 8 then 2 * o.ty.regs else o.ty.regs) :: addrUses o) →
    GoesThrough s x o .atom true →
    ∃ t, exec (.atom g o) s = .next t ∧
      Sends s t x o .atom true (fun i =>
        if o.aop = 8 then natToBytes (2 * (o.ty.bits / 8)) (x.read i o.d (2 * o.ty.regs))
        else natToBytes (o.ty.bits / 8) (x.read i o.d o.ty.regs)) true) ∧
  (∀ (s : State) (g : Guard) (o : MOps) (x : Iss) (i : Instr) (uses : List RegUse) (kind : ReqKind) (aligned : Bool),
    (i, uses, kind, aligned) ∈ accessForms g o → i.wf = true → CanIssue s g x uses → nbvOk s o.ty = true →
    Issues s x o kind aligned →
    (entriesNeeded x o kind aligned ≤ s.entriesFor x.w.core x.w.slot →
      ∃ t, exec i s = .next t ∧ t.issues = s.issues + 1 ∧
        (if kind = .load ∨ kind = .atom then FaultingLanesPark s t x o kind aligned
        else FaultingPartsEnterTheLog s t x o kind aligned)) ∧
    (s.entriesFor x.w.core x.w.slot < entriesNeeded x o kind aligned →
      ∃ t w, exec i s = .next t ∧ t = { s with warps := t.warps } ∧ t.warp? x.w.core x.w.slot = some w ∧
        w = { x.w with ages := w.ages } ∧ w.ageOf x.pc = min 64 (x.w.ageOf x.pc + 1) ∧
        ∀ q, q ≠ x.pc → w.ageOf q = x.w.ageOf q))

/-- R119, R184, R185, R188, R190: with no lane executing an access does nothing; `pref` moves on, asking for at most one fill per
executing lane; `ldc` whose words the constant cache holds, or that lie outside the window, writes them, 0 for the latter. -/
def Obligations.PrefetchAndConstantLoadsComplete : Prop :=
  (∀ (s : State) (g : Guard) (o : MOps) (x : Iss) (i : Instr) (uses : List RegUse),
    (i, uses) ∈ [(Instr.ld g o, (o.d, o.ty.regs) :: addrUses o), (.st g o, (o.d, o.ty.regs) :: addrUses o),
      (.red g o, (o.d, o.ty.regs) :: addrUses o),
      (.atom g o, (o.d, if o.aop == 8 then 2 * o.ty.regs else o.ty.regs) :: addrUses o),
      (.ldc g o, [(o.d, o.ty.regs), (o.a, 1), (o.x, 1)])] →
    i.wf = true → CanIssue s g x uses → nbvOk s o.ty = true → x.ex = [] →
    ∃ t, exec i s = .next t ∧ MovesOn s t x) ∧
  (∀ (s : State) (g : Guard) (o : MOps) (x : Iss), (Instr.pref g o).wf = true → CanIssue s g x (addrUses o) →
    (∀ i ∈ x.ex, s.acquiring (x.w.lane i).uid = false) →
    ∃ t w fills, exec (.pref g o) s = .next t ∧ t.fills = s.fills ++ fills ∧ fills.length ≤ x.ex.length ∧
      t.warp? x.w.core x.w.slot = some w ∧ Turned x.w w ∧
      (∀ i, w.lane i = if i ∈ x.act then { (x.w.lane i).arrive (nextPc x.pc) with lastIssue := s.cycle } else x.w.lane i) ∧
      SameMemory s t ∧ t.reqs = s.reqs ∧ t.sys = s.sys ∧ t.launches = s.launches ∧ t.issues = s.issues + 1) ∧
  (∀ (s : State) (g : Guard) (o : MOps) (x : Iss) (words : Nat → Nat → Word), (Instr.ldc g o).wf = true →
    CanIssue s g x [(o.d, o.ty.regs), (o.a, 1), (o.x, 1)] → (∀ i ∈ x.ex, s.acquiring (x.w.lane i).uid = false) →
    (∀ i ∈ x.ex, x.ldcOffset i o % 4 = 0) →
    (∀ i ∈ x.ex, ∀ j < o.ty.regs,
      match x.windowVa o.aop.toNat (x.ldcOffset i o + 4 * j) with
      | some va => s.ccWord x.w.core x.w.ctx va = some (words i j)
      | none => words i j = 0) →
    (∀ c ∈ s.ccache, c.bad = []) →
    ∃ t, exec (.ldc g o) s = .next t ∧
      WritesD s t x o.d o.ty.regs
        (fun i => ((List.range o.ty.regs).map fun j => 2 ^ (32 * j) * (words i j).toNat).sum) x.w.fstat)

/-- The exact address of a lane's access (R171). -/
def Sys2Proof.Claims.addressOf (x : Iss) (i : Nat) (o : MOps) : Int :=
  ((x.read i o.a (if o.sp = 1 then 1 else 2) : Nat) : Int) + intAt .s32 (x.read i o.x 1) * 2 ^ o.xs.toNat + o.off.toInt

/-- The lane's access is refused with the trap `code` (R171, R173, R181, R466): access-violation where no source covers the address,
else misaligned for an atomic or reduction whose size does not divide it, else access-violation where the translation of the address,
or of the next line that the access reaches, is refused or lies past the address space. -/
def Sys2Proof.Claims.Refused (x : Iss) (o : MOps) (write aligned : Bool) (i code : Nat) : Prop :=
  let n : Nat := o.ty.bits / 8
  let ea := addressOf x i o
  let sram : Nat := match x.block? i with
    | some b => b.size
    | none => 0
  let window : Int := ((x.s.bank x.w.ctx).bsbase.toNat % 2 ^ 57 / 2 ^ 19 * 2 ^ 19 : Nat)
  let inWindow := o.sp ≠ 1 ∧ window ≤ ea ∧ ea < window + 0x80000
  let outside :=
    (o.sp = 1 ∧ ¬(0 ≤ ea ∧ ea + n ≤ sram)) ∨ (o.sp ≠ 1 ∧ (ea < 0 ∨ (2 : Int) ^ 57 ≤ ea)) ∨
      (inWindow ∧ (o.sp ≠ 0 ∨ ¬(ea - window + n ≤ sram)))
  let misaligned := aligned = true ∧ ea % n ≠ 0
  let unmapped := fun (a : Nat) => 2 ^ 57 ≤ a ∨ x.s.translate x.who a write = .violation
  if outside then code = 0x07
  else if misaligned then code = 0x06
  else code = 0x07 ∧ o.sp ≠ 1 ∧ ¬inWindow ∧
    (unmapped ea.toNat ∨ (128 < ea.toNat % 128 + n ∧ unmapped (ea.toNat / 128 * 128 + 128)))

/-- R171, R173, R181, R466: `ld`, `st`, `atom` and `red` trap for the first executing lane whose access is refused: misaligned
(0x06) for an atomic or reduction whose size does not divide the address, access-violation (0x07) for an address that no source
covers or whose translation is refused, with the address in AUX; nothing is sent. That the block window is judged by the first address
alone and a next line past 2^57 is refused (assumption 75), and that AUX is the address modulo 2^57 (assumption 76), are the model's. -/
def Obligations.RefusedAddressesTrapBeforeAnythingIsSent : Prop :=
  ∀ (s : State) (g : Guard) (o : MOps) (x : Iss) (pre post : List Nat) (i code : Nat),
    x.ex = pre ++ i :: post → (∀ j ∈ x.ex, s.acquiring (x.w.lane j).uid = false) →
    ∀ (instr : Instr) (d : Nat) (write aligned : Bool),
      (instr, d, write, aligned) ∈ [(Instr.ld g o, o.ty.regs, false, false), (.st g o, o.ty.regs, true, false),
        (.red g o, o.ty.regs, true, true), (.atom g o, if o.aop == 8 then 2 * o.ty.regs else o.ty.regs, true, true)] →
      instr.wf = true → CanIssue s g x ((o.d, d) :: addrUses o) → nbvOk s o.ty = true →
      (write = true → o.lc = 3 → x.fenced 2 = true) → (∀ j ∈ pre, ∀ c, ¬Refused x o write aligned j c) →
      Refused x o write aligned i code →
      exec instr s = .next (x.trapLane code i (addressOf x i o % 2 ^ 57).toNat)

/-- The condition of `fence` at a scope for a lane (R270): every load, atomic and `ldc` it has issued is complete; at core and
cluster scope its writes to block SRAM, and to core-pinned frames of its home core or of any core, are performed and none of those
waits in the mend log; at device and system scope no write of it is outstanding or logged, its VIS has passed, and at system scope its
writes beyond the part are acknowledged. -/
def Sys2Proof.Claims.FenceMet (x : Iss) (scope i : Nat) : Prop :=
  let l := x.w.lane i
  let ordered := fun (t : Target) => match t with
    | .sram _ _ _ _ => True
    | .frame c k n => scope = 1 ∨ x.s.targetCore (.frame c k n) = some (x.homeOf i)
    | .line _ => False
    | .mx _ _ _ _ => False
  (∀ q ∈ x.w.ops, q.cls = .ld → q.mask.getLsbD i = true → q.left = 0) ∧
  (if scope ≤ 1 then
    (∀ r ∈ x.s.reqs, r.uid = l.uid → r.unperformed = true → ¬ordered r.tgt) ∧
    (∀ m ∈ x.s.mends, m.uid = l.uid → ∀ q c k n, x.s.translate x.who m.va true = .ok q → q.tgt = .frame c k n → ¬ordered q.tgt)
  else
    l.pw = 0 ∧ l.mc = 0 ∧ l.vis < x.s.coreGt x.w.core ∧
      (scope ≠ 2 → ∀ u ∈ x.s.outside.unacked, u.1 = l.uid → u.2 ≤ x.s.gt))

/-- R270: `fence` whose conditions every executing lane meets passes; else its path is held where it stands, and FENCE_PASS ends
the hold once they are met: a `fence` passes, and an instruction held by its release may issue again. -/
def Obligations.FencePassesOnceItsConditionsHold : Prop :=
  (∀ (s : State) (g : Guard) (o : ROps) (x : Iss), (Instr.fence g o).wf = true → CanIssue s g x [] →
    let scope := (o.mod.extractLsb' 0 2).toNat
    ((∀ i ∈ x.ex, FenceMet x scope i) → ∃ t, exec (.fence g o) s = .next t ∧ MovesOn s t x) ∧
    (¬(∀ i ∈ x.ex, FenceMet x scope i) →
      ∃ (t : State) (w : Warp), exec (.fence g o) s = .next t ∧ t = { s with warps := t.warps } ∧
        t.warp? x.w.core x.w.slot = some w ∧ w = { x.w with hold := w.hold } ∧
        w.holdAt x.pc = some (.fence scope (maskOf x.act) (maskOf x.ex) true))) ∧
  (∀ (s : State) (core slot scope : Nat) (x : Iss) (ex : Mask) (moves : Bool), s.standing core slot = some x →
    x.w.holdAt x.pc = some (.fence scope (maskOf x.act) ex moves) →
    ((∀ i < 32, ex.getLsbD i = true → FenceMet x scope i) →
      ∃ t, exec (.fencePass core slot) s = .next t ∧
        (if moves then MovesOn s t x
        else ∃ w, t = { s with warps := t.warps } ∧ t.warp? core slot = some w ∧ w = { x.w with hold := w.hold } ∧
          w.holdAt x.pc = none)) ∧
    (¬(∀ i < 32, ex.getLsbD i = true → FenceMet x scope i) → exec (.fencePass core slot) s = .next s))

/-! ### Events of the memory system -/

/-- What every state of the part has: the channels in form, no line twice in the slices, 128 bytes in each, and a line that is not
dirty as its channel holds it (R216). -/
structure Sys2Proof.Claims.SlicesSound (s : State) : Prop where
  channels : s.hbm.wf = true
  once : (s.l2.map fun l => l.line).Nodup
  whole : ∀ l ∈ s.l2, l.data.length = 128
  clean : ∀ l ∈ s.l2, l.dirty = false → ∀ j < 128, s.hbm.get (l.line * 128 + j) = l.data.getD j 0

/-- Table 6 (R180): the new memory value `m` of an atomic or reduction, from the old one, the operand, which for cas is compared, and
the value that cas stores. -/
def Sys2Proof.Claims.Table6 (aop : Nat) (ty : Ty) (nbv old v new m : Nat) : Prop :=
  let half := fun (f : Fmt) (k : Nat) =>
    m / 2 ^ (16 * k) % 2 ^ 16 = (fadd1 f .rne nbv (old / 2 ^ (16 * k) % 2 ^ 16) (v / 2 ^ (16 * k) % 2 ^ 16)).1
  m < 2 ^ ty.bits ∧
  match aop with
  | 0x00 => (m : Int) % 2 ^ ty.bits = (intAt ty old + intAt ty v) % 2 ^ ty.bits
  | 0x01 => (m : Int) % 2 ^ ty.bits = (intAt ty old - intAt ty v) % 2 ^ ty.bits
  | 0x02 => intAt ty m = min (intAt ty old) (intAt ty v)
  | 0x03 => intAt ty m = max (intAt ty old) (intAt ty v)
  | 0x04 => Bits ty.bits (fun k => old.testBit k && v.testBit k) m
  | 0x05 => Bits ty.bits (fun k => old.testBit k || v.testBit k) m
  | 0x06 => Bits ty.bits (fun k => old.testBit k != v.testBit k) m
  | 0x07 => m = v
  | 0x08 => m = if old = v then new else old
  | 0x09 => m = if old < v then old + 1 else old
  | 0x0A => m = if v < old then old - 1 else old
  | 0x0B =>
    if ty = .f16x2 then half Fmt.f16 0 ∧ half Fmt.f16 1
    else if ty = .bf16x2 then half Fmt.bf16 0 ∧ half Fmt.bf16 1
    else m = (fadd1 Fmt.f32 .rne nbv old v).1
  | 0x0C => m = (fminmax1 false Fmt.f32 nbv old v).1
  | _ => m = (fminmax1 true Fmt.f32 nbv old v).1

/-- The types that each operation of Table 6 names. -/
def Sys2Proof.Claims.table6Types : List (Nat × List Ty) :=
  ([0x00, 0x01, 0x02, 0x03].map fun a => (a, [.s32, .n32, .s64, .n64])) ++
    ([0x04, 0x05, 0x06, 0x07, 0x08].map fun a => (a, [.b32, .b64])) ++ ([0x09, 0x0A].map fun a => (a, [.n32])) ++
    [(0x0B, [.f32, .f16x2, .bf16x2]), (0x0C, [.f32]), (0x0D, [.f32])]

/-- What a write leaves at its home, and of the rest of the machine: every request of its number has its write completion time,
an atomic the old bytes too; no warp and no launch changes. -/
structure Sys2Proof.Claims.HomeReturns (s t : State) (r : Req) (old : List Byte) : Prop where
  returned : ∀ q ∈ t.reqs, q.id = r.id → q.w = some (s.completion (s.reqTarget r)) ∧ (q.kind = .atom → q.got = some old)
  warps : t.warps = s.warps
  launches : t.launches = s.launches

/-- The bytes from `o` on are those given, where there are `n` of them; any other is as it was. -/
def Sys2Proof.Claims.Overwritten (before after : Nat → Byte) (o n : Nat) (bs : List Byte) : Prop :=
  ∀ a, after a = if o ≤ a ∧ a < o + n then bs.getD (a - o) 0 else before a

/-- R180, R266, R267: a store, reduction or atomic that no older request blocks takes effect at its home, the new value of a reduction
or atomic being that of Table 6: on a line, in block SRAM or in a core-pinned frame its bytes are written and no other byte changes;
its write completion time is taken there.
R201, R431: the parts that one store has in a line of which a part meets a poisoned sector take effect as one request, a later part
over an earlier one, and the mark of a sector goes where the parts cover every byte of it. -/
def Obligations.HomeWriteChangesExactlyItsBytes : Prop :=
  (∀ (s : State) (r : Req), s.reqs.find? (fun q => q.id == r.id && q.unperformed) = some r → s.blocked r = false →
    (r.kind = .store → s.poisonedAt (s.reqTarget r).sector 32 = false) → r.size ≠ 0 →
    let old := s.homeRead (s.reqTarget r) r.size
    let n := r.ty.bits / 8
    let new := if r.kind = .store then r.data else
      natToBytes n (aopValue r.aop.toNat r.ty r.nbv (bytesToNat old) (bytesToNat (r.data.take n)) (bytesToNat (r.data.drop n)))
    new.length = r.size →
    (∀ d, s.reqTarget r = .line d → d % 128 + r.size ≤ 128 → SlicesSound s →
      ∃ t, exec (.homeWritePerform r.id) s = .next t ∧ Overwritten s.devByte t.devByte d r.size new ∧ HomeReturns s t r old ∧
        old = s.devRead d r.size ∧ t.blocks = s.blocks ∧ t.clusters = s.clusters) ∧
    (∀ ctx k b o bl, s.reqTarget r = .sram ctx k b o → s.block? ctx k b = some bl → bl.sram.wf = true →
      ∃ t bl', exec (.homeWritePerform r.id) s = .next t ∧ t.block? ctx k b = some bl' ∧
        Overwritten bl.sram.get bl'.sram.get o r.size new ∧ HomeReturns s t r old ∧ old = bl.sram.getN o r.size ∧
        t.hbm = s.hbm ∧ t.l2 = s.l2 ∧ t.clusters = s.clusters) ∧
    (∀ ctx k a c, s.reqTarget r = .frame ctx k a → s.cluster? ctx k = some c → c.pinned.wf = true →
      ∃ t c', exec (.homeWritePerform r.id) s = .next t ∧ t.cluster? ctx k = some c' ∧
        Overwritten c.pinned.get c'.pinned.get a r.size new ∧ HomeReturns s t r old ∧ old = c.pinned.getN a r.size ∧
        t.hbm = s.hbm ∧ t.l2 = s.l2 ∧ t.blocks = s.blocks)) ∧
  (∀ p ∈ table6Types, ∀ ty ∈ p.2, ∀ nbv old v new : Nat, old < 2 ^ ty.bits → v < 2 ^ ty.bits → new < 2 ^ ty.bits →
    Table6 p.1 ty nbv old v new (aopValue p.1 ty nbv old v new)) ∧
  (∀ (s : State) (r : Req) (line : Nat), s.reqs.find? (fun q => q.id == r.id && q.unperformed) = some r → r.kind = .store →
    s.poisonedAt (s.reqTarget r).sector 32 = true →
    let at_ := fun (q : Req) (d : Nat) => s.reqTarget q = .line d ∧ d / 128 = line
    let rs := s.reqs.filter fun q => q.op == r.op && q.kind == .store && q.unperformed && (s.reqTarget q).key == .line line
    (∃ d, at_ r d) → (s.reqs.map fun q => q.id).Nodup →
    (∀ q ∈ rs, ∀ d, at_ q d → d % 128 + q.size ≤ 128 ∧ q.data.length = q.size ∧ q.size ≠ 0) →
    (∀ q ∈ rs, ∀ p ∈ s.reqs, s.blockedBy p q = true → p.op = q.op ∧ p.kind = .store ∧ 1 < rs.length) → SlicesSound s →
    let covers := fun (q : Req) (a : Nat) => q ∈ rs ∧ ∃ d, at_ q d ∧ d ≤ a ∧ a < d + q.size
    ∃ t, exec (.homeWritePerform r.id) s = .next t ∧
      (∀ a, (∀ q, ¬covers q a) → t.devByte a = s.devByte a) ∧
      (∀ pre q post a d, rs = pre ++ q :: post → covers q a → (∀ p ∈ post, ¬covers p a) → at_ q d →
        t.devByte a = q.data.getD (a - d) 0) ∧
      (∀ p, p ∈ t.poison ↔ p ∈ s.poison ∧ ¬(∀ j < 32, ∃ q, covers q (32 * p + j))) ∧
      (∀ q ∈ rs, ∃ q' ∈ t.reqs, q'.id = q.id ∧ q'.w ≠ none) ∧ t.warps = s.warps ∧ t.blocks = s.blocks)

/-- The registers of a warp after a value came back to D of one lane (R115): no other lane and no other register changes. -/
def Sys2Proof.Claims.Receives (w w' : Warp) (lane : Nat) (d : Sel) (regs val : Nat) : Prop :=
  (w'.lane lane).v = vAfter (w.lane lane).v d regs val ∧ (∀ j, j ≠ lane → (w'.lane j).v = (w.lane j).v) ∧
    w'.k = match d with
      | .k n => regsAfter w.k (n.toNat - 32) regs val
      | _ => w.k

/-- R176, R177, R180: the data of a load whose home it reads now, one part whole, on a line or in block SRAM, is written to D of its
lane as the type extends it; the request is gone and memory keeps its bytes, where no copy operation retires with it. The data of a
load or atomic that has its parts, one or two, comes back the same way, to a vector or a uniform register; an atomic's is the value
before.
R267: a returned write completion time enters the VIS of its thread, and its PW falls by one; a store's request is gone. -/
def Obligations.CompletionsReachTheirThreads : Prop :=
  (∀ (s : State) (r : Req) (w : Warp) (bytes : List Byte),
      s.reqs.find? (fun q => q.id == r.id && q.writesReg) = some r → r.kind = .load → r.got = none → r.fill = none → r.live = false →
      s.blocked r = false →
      ((∃ d, s.reqTarget r = .line d ∧ s.poisoned d r.size = false ∧ bytes = s.devRead d r.size) ∨
        (∃ ctx k b o bl, s.reqTarget r = .sram ctx k b o ∧ s.poisonedAt (.sram ctx k b o) r.size = false ∧
          s.block? ctx k b = some bl ∧ bytes = bl.sram.getN o r.size)) → r.at_ = 0 →
      (∀ q ∈ s.reqs, q.op = r.op → q.uid = r.uid → q = r) → (∀ q ∈ s.reqs, q.id = r.id → q = r) → s.takes r = true → s.warp? r.core r.slot = some w →
      r.lane < w.lanes.length →
      ∃ (t : State) (w' : Warp) (v : Nat), exec (.loadDataReturn r.id) s = .next t ∧ t.warp? r.core r.slot = some w' ∧
        Holds r.ty (intAt r.ty (bytesToNat bytes)) v ∧ Receives w w' r.lane r.dest r.ty.regs v ∧
        (∀ q ∈ t.reqs, q.id ≠ r.id) ∧
        (SlicesSound s → (∀ q ∈ w.ops, q.trapAddr = none ∧ q.uids = []) →
          (∀ a, t.devByte a = s.devByte a) ∧ t.blocks = s.blocks ∧ t.outside = s.outside)) ∧
  (∀ (s : State) (r : Req) (w : Warp) (bytes : List Byte),
      s.reqs.find? (fun q => q.id == r.id && q.writesReg) = some r → r.live = false → r.got ≠ none →
      let ps := s.reqs.filter fun q => q.op == r.op && q.uid == r.uid && q.kind == r.kind && !q.backD
      (∀ p ∈ ps, p.got ≠ none ∧ p.poison = false) → (s.reqs.map fun q => q.id).Nodup →
      (ps = [r] ∧ r.at_ = 0 ∧ r.got = some bytes ∨
        ∃ p q bs cs, (ps = [p, q] ∨ ps = [q, p]) ∧ p.at_ < q.at_ ∧ q.at_ < 16 ∧ p.got = some bs ∧ q.got = some cs ∧ bytes = bs ++ cs) →
      s.takes r = true → s.warp? r.core r.slot = some w → r.lane < w.lanes.length →
      ∃ (t : State) (w' : Warp) (v : Nat), exec (.loadDataReturn r.id) s = .next t ∧ t.warp? r.core r.slot = some w' ∧
        Holds r.ty (intAt r.ty (bytesToNat bytes)) v ∧ Receives w w' r.lane r.dest r.ty.regs v ∧
        (∀ p ∈ ps, ∀ q ∈ t.reqs, q.id = p.id → q.kind = .atom ∧ q.backW = false)) ∧
  (∀ (s : State) (r : Req) (c : Nat), s.reqs.find? (fun q => q.id == r.id && !q.backW) = some r → r.w = some c →
      r.kind ≠ .atom → s.hasThread r.uid = true → (∀ w ∈ s.warps, ∀ q ∈ w.ops, q.cpstat = none ∧ q.trapAddr = none ∧ q.uids = []) →
      ∃ t, exec (.writeCompletionReturn r.id) s = .next t ∧ (∀ q ∈ t.reqs, q.id ≠ r.id) ∧
        (∀ w' ∈ t.warps, ∀ l' ∈ w'.lanes, l'.uid = r.uid → l'.status ≠ .departed →
          ∃ w ∈ s.warps, ∃ l ∈ w.lanes, l.uid = r.uid ∧ l'.vis = max l.vis c ∧ l'.pw = l.pw - 1 ∧ l'.v = l.v) ∧
        (s.spilledAt r.uid = none → t.hbm = s.hbm ∧ t.l2 = s.l2) ∧ t.blocks = s.blocks)

/-- R216, R264: the slice serves the fill of a line, the core's L1 holds the line as its home has it until the expiry granted, and the loads that waited for it have their bytes;
expired copies go; an unlocked line of a slice is written back and let go with no byte changed. -/
def Obligations.FillsLeasesAndEvictionsKeepTheBytes : Prop :=
  (∀ (s : State) (f : Fill) (d : Nat), s.fills.find? (fun h => h.core == f.core && h.line == f.line) = some f →
    (∀ q ∈ s.reqs, q.unperformed = false ∧ (q.pending = true → q.fill = some f.id)) →
    d = s.forward f.ctx f.va (f.line * 128) → f.toL1 = true → f.drop = false → s.poisoned (d / 128 * 128) 128 = false →
    ∃ t, exec (.l1FillServe f.core f.line) s = .next t ∧
      ({ core := f.core, line := f.line, data := s.devRead d 128, expiry := s.sliceGt (sliceOf d) + s.sys.period } : Copy) ∈
        t.copies ∧
      (∀ h ∈ t.fills, h.id ≠ f.id) ∧ (∃ e ∈ t.leases, e.1 = d / 128 ∧ s.sliceGt (sliceOf d) + s.sys.period ≤ e.2) ∧
      (∀ r ∈ s.reqs, r.fill = some f.id → r.got = none → ∃ q ∈ t.reqs, q.id = r.id ∧
        q.got = some (((s.devRead d 128).drop (r.va % 128)).take r.size)) ∧
      (SlicesSound s → ∀ a, t.devByte a = s.devByte a) ∧ t.warps = s.warps ∧ t.blocks = s.blocks) ∧
  (∀ (s : State) (core line : Nat),
    ∃ t, exec (.leaseExpiry core line) s = .next t ∧
      (∀ c, c ∈ t.copies ↔ c ∈ s.copies ∧ ¬(c.core = core ∧ c.line = line ∧ c.expiry ≤ s.coreGt core)) ∧
      t = { s with copies := t.copies }) ∧
  (∀ (s : State) (k : L2Line), s.l2.find? (fun l => l.line == k.line) = some k → k.locked = none → s.hbm.wf = true →
    k.data.length = 128 → (∀ l ∈ s.l2, l.line = k.line → l = k) →
    (k.dirty = false → ∀ j < 128, s.hbm.get (k.line * 128 + j) = k.data.getD j 0) →
    ∃ t, exec (.sliceEviction k.line) s = .next t ∧ (∀ l ∈ t.l2, l.line ≠ k.line) ∧ (∀ a, t.devByte a = s.devByte a) ∧
      (∀ e ∈ t.leases, e.1 ≠ k.line) ∧ t.warps = s.warps ∧ t.blocks = s.blocks)

/-! ### Group 4: barriers, rings; group 6: messages -/

/-- Executing lanes of one block issue at its home core, none held, nothing on its way. -/
structure Sys2Proof.Claims.AtHome (s : State) (x : Iss) (bl : Block) : Prop where
  kind : x.w.kind ≠ .handler
  lanes : x.ex ≠ []
  block : s.block? x.w.ctx x.w.cluster bl.bid = some bl
  mine : ∀ i ∈ x.ex, (x.w.lane i).bid = bl.bid
  home : x.c.home x.l bl.bid = x.w.core
  bars : bl.bars.length = 16
  rings : bl.rings.length = 8
  quiet : s.packets = []
  unheld : x.w.holds = []

/-- The issuing warp's active lanes after a synchronisation: those that `waits` names wait so, the others move on. -/
def Sys2Proof.Claims.LanesWait (s t : State) (x : Iss) (waits : Nat → Option WaitOn) : Prop :=
  ∃ w, t.warp? x.w.core x.w.slot = some w ∧ t.issues = s.issues + 1 ∧ ∀ i ∈ x.act,
    w.lane i = match waits i with
      | some k => { x.w.lane i with status := .waiting k, lastIssue := s.cycle }
      | none => { (x.w.lane i).arrive (nextPc x.pc) with lastIssue := s.cycle }

/-- Of every other warp with threads of blocks of the cluster, the waiting lanes that a condition picks stand at the slot after their
instruction, and the others as before. -/
def Sys2Proof.Claims.ReleasesOthers (s t : State) (x : Iss) (waiting : Warp → Nat → Prop) : Prop :=
  ∀ v, s.warp? v.core v.slot = some v → ¬(v.core = x.w.core ∧ v.slot = x.w.slot) → v.ofCluster x.w.ctx x.w.cluster = true →
    ∃ v', t.warp? v.core v.slot = some v' ∧ ∀ i < v.lanes.length,
      (waiting v i → v'.lane i = { (v.lane i).arrive (nextPc (v.lane i).pc) with status := .runnable }) ∧
      (¬waiting v i → v'.lane i = v.lane i)

/-- R367: an arrival raises the count of the barrier's phase, fixing its expected count; the arrival that meets it completes the
phase, releases the threads of every other warp that wait in it, and goes on with it; `bar.sync` waits otherwise; `bar.wait` waits for the phase a thread arrived in, and passes one that
completed.
R370: the cluster barrier, at its origin core: it expects every thread of the cluster that has not exited. -/
def Obligations.BarrierPhasesCountTheirArrivals : Prop :=
  (∀ (s : State) (g : Guard) (o : ROps) (x : Iss) (bl : Block), AtHome s x bl →
      let b := (o.mod.extractLsb' 2 4).toNat
      let c := x.read x.lead o.a 1
      let k := bl.bar b
      let n := k.cnt + x.ex.length
      let e := if c = 0 then bl.threads - bl.exited.length else c
      let fits := c ≤ bl.threads ∧ (k.ec = .unset ∨ k.ec = expectOf c) ∧
        (∀ i ∈ x.ex, k.pending bl.bid (x.w.lane i).tid = false) ∧
        (∀ i ∈ x.ex, x.fenceOk (if o.mod.getLsbD 6 then 2 else 0) i = true)
      let inPhase := fun (t : State) => ∃ b', t.block? x.w.ctx x.w.cluster bl.bid = some b' ∧ (b'.bar b).ph = k.ph ∧
        (b'.bar b).cnt = n ∧ (b'.bar b).ec = expectOf c ∧ ∀ i ∈ x.ex, (b'.bar b).pending bl.bid (x.w.lane i).tid = true
      let waiting := fun (v : Warp) (i : Nat) => (v.lane i).bid = bl.bid ∧ (v.lane i).status = .waiting (.bar b) ∧
        k.pending bl.bid (v.lane i).tid = true
      let completed := fun (t : State) => ∃ b', t.block? x.w.ctx x.w.cluster bl.bid = some b' ∧ (b'.bar b).ph = k.ph + 1 ∧
        (b'.bar b).cnt = 0 ∧ (b'.bar b).ec = .unset ∧ ReleasesOthers s t x waiting ∧
        ∀ v ∈ s.warps, v.ofCluster x.w.ctx x.w.cluster = true → ∀ i < v.lanes.length, waiting v i →
          ∀ p ∈ (b'.bar b).pend, ¬(p.1 = bl.bid ∧ p.2.1 = (v.lane i).tid)
      ((Instr.barArrive g o).wf = true → CanIssue s g x [(o.a, 1)] → fits →
        ∃ t, exec (.barArrive g o) s = .next t ∧ (if n < e then inPhase t else completed t) ∧ LanesWait s t x fun _ => none) ∧
      ((Instr.barSync g o).wf = true → CanIssue s g x [(o.a, 1)] → fits →
        ∃ t, exec (.barSync g o) s = .next t ∧ (if n < e then inPhase t else completed t) ∧
          LanesWait s t x fun i => if n < e ∧ i ∈ x.ex then some (.bar b) else none) ∧
      ((Instr.barWait g o).wf = true → CanIssue s g x [] →
        ∃ t, exec (.barWait g o) s = .next t ∧
          LanesWait s t x fun i => if i ∈ x.ex ∧ k.pending bl.bid (x.w.lane i).tid = true then some (.bar b) else none)) ∧
  (∀ (s : State) (g : Guard) (o : ROps) (x : Iss), x.w.kind ≠ .handler → x.ex ≠ [] → s.packets = [] → x.w.holds = [] →
      x.w.core = coreAt x.c.die x.c.oy x.c.ox → CanIssue s g x [] →
      let k := x.c.cbar
      let n := k.cnt + x.ex.length
      let e := s.clusterLive x.w.ctx x.w.cluster
      let fits := (∀ i ∈ x.ex, k.pending (x.w.lane i).bid (x.w.lane i).tid = false) ∧
        (∀ i ∈ x.ex, x.fenceOk (if o.mod.getLsbD 6 then 2 else 1) i = true)
      let after := fun (t : State) => ∃ c', t.cluster? x.w.ctx x.w.cluster = some c' ∧
        (if n < e then c'.cbar.ph = k.ph ∧ c'.cbar.cnt = n
        else c'.cbar.ph = k.ph + 1 ∧ c'.cbar.cnt = 0 ∧ ReleasesOthers s t x fun v i =>
          (v.lane i).status = .waiting .cbar ∧ k.pending (v.lane i).bid (v.lane i).tid = true)
      ((Instr.cbarArrive g o).wf = true → fits →
        ∃ t, exec (.cbarArrive g o) s = .next t ∧ after t ∧ LanesWait s t x fun _ => none) ∧
      ((Instr.cbarSync g o).wf = true → fits →
        ∃ t, exec (.cbarSync g o) s = .next t ∧ after t ∧
          LanesWait s t x fun i => if n < e ∧ i ∈ x.ex then some .cbar else none) ∧
      ((Instr.cbarWait g o).wf = true →
        ∃ t, exec (.cbarWait g o) s = .next t ∧
          LanesWait s t x fun i =>
            if i ∈ x.ex ∧ k.pending (x.w.lane i).bid (x.w.lane i).tid = true then some .cbar else none))

/-- R371, R372: `sring.post` inverts the phase bit of its slot, `(A + offset) mod 16`; `sring.wait` passes where the bit equals
the phase of B, inverted by INV, and waits elsewhere. -/
def Obligations.StageRingsInvertAndAwaitTheirSlotBit : Prop :=
  ∀ (s : State) (g : Guard) (o : ROps) (x : Iss) (bl : Block), AtHome s x bl →
    let r := (o.mod.extractLsb' 1 3).toNat
    let slot := (x.read (x.ex.headD 0) o.a 1 + (o.mod.extractLsb' 4 4).toNat) % 16
    let bit := (bl.rings.getD r 0).getLsbD slot
    ((Instr.sringPost g o).wf = true → CanIssue s g x [(o.a, 1)] →
      (∀ i ∈ x.ex, x.fenceOk (if o.mod.getLsbD 9 then 2 else 0) i = true) →
      ∃ t b', exec (.sringPost g o) s = .next t ∧ t.block? x.w.ctx x.w.cluster bl.bid = some b' ∧
        (∀ j < 8, ∀ m < 16, (b'.rings.getD j 0).getLsbD m =
          if j = r ∧ m = slot then !bit else (bl.rings.getD j 0).getLsbD m) ∧
        LanesWait s t x fun _ => none) ∧
    ((Instr.sringWait g o).wf = true → CanIssue s g x ((o.a, 1) :: o.b.use 1) →
      let phase := (x.readB (x.ex.headD 0) o.b 1).testBit 0 != o.mod.getLsbD 8
      ∃ t, exec (.sringWait g o) s = .next t ∧
        LanesWait s t x fun i => if i ∈ x.ex ∧ bit ≠ phase then some (.ring r slot phase) else none)

/-- R364: a barrier or ring instruction in a handler thread traps illegal-instruction, and with no lane executing
each moves on. -/
def Obligations.HandlerThreadsTrapAtBlockInstructions : Prop :=
  ∀ (s : State) (g : Guard) (o : ROps) (x : Iss) (i : Instr) (uses : List RegUse),
    (i, uses) ∈ [(Instr.barArrive g o, [(o.a, 1)]), (.barWait g o, []), (.barSync g o, [(o.a, 1)]), (.cbarArrive g o, []),
      (.cbarWait g o, []), (.cbarSync g o, []), (.sringPost g o, [(o.a, 1)]), (.sringWait g o, (o.a, 1) :: o.b.use 1)] →
    i.wf = true → CanIssue s g x uses →
    (x.ex = [] → ∃ t, exec i s = .next t ∧ MovesOn s t x) ∧
    (x.ex ≠ [] → x.w.kind = .handler → exec i s = .next (x.trap 0x01))

/-- R375, R376: `msend` sends one message per executing lane, in lane order, each with the payload its lane's registers hold, where
every destination lies in the cluster, the handler exists, allowances remain and the scope's conditions hold. -/
def Obligations.MessagesCarryTheLanesPayload : Prop :=
  ∀ (s : State) (g : Guard) (o : ROps) (x : Iss), (Instr.msend g o).wf = true →
    let n := (o.mod.extractLsb' 6 4).toNat
    CanIssue s g x ((o.a, n) :: o.b.use 1) → (∀ q, o.a = .v q → n = 0 ∨ q.toNat + n ≤ x.l.nreg) →
    x.w.kind ≠ .handler → x.ex ≠ [] → x.w.holds = [] → x.w.hold = [] → (∀ i ∈ x.ex, s.acquiring (x.w.lane i).uid = false) →
    (∀ i ∈ x.ex, x.msgFault o i = false) →
    (∀ d, x.c.taken (x.c.ordinal x.l x.w.core) d + x.ex.length ≤ 32) → x.fenced (if o.mod.getLsbD 10 then 2 else 1) = true →
    ∃ (t : State) (new : List Msg), exec (.msend g o) s = .next t ∧ t.msgs = s.msgs ++ new ∧
      (new.map fun m => (m.lane, m.h, m.dst, m.payload, m.msrc, m.arrived)) =
        (x.ex.map fun i => (i, (o.mod.extractLsb' 0 6).toNat, x.msgOrd o i, splitWords (x.read i o.a n) n, x.msrcOf i, false)) ∧
      LanesWait s t x (fun _ => none) ∧ SameMemory s t

/-- R103, R288, R367, R369, R370, R372, R373: the oldest packet from one core to another arrives: an engine entry joins the queue of
its core, a ring post inverts its slot bit, a barrier arrival is counted, ended threads are known, and a request to wait lets the
threads pass whose phase is over. That these travel as packets, in order for each pair of cores, and are judged where they arrive is the
model's reading (assumption 59). -/
def Obligations.PacketsTakeEffectWhereTheyArrive : Prop :=
  ∀ (s : State) (p : Packet), s.packets.find? (fun q => q.id == p.id) = some p →
    (∀ q ∈ s.packets, q.id < p.id → q.core = p.core → q.dst ≠ p.dst) →
    ∃ t, exec (.wringerArrival p.id) s = .next t ∧ (∀ q ∈ t.packets, q.id ≠ p.id) ∧
      (∀ e, p.what = .group5 e → t = { s with packets := t.packets, g5 := s.g5 ++ [e] }) ∧
      (∀ bid r slot bl, p.what = .ringPost bid r slot → s.block? p.ctx p.cluster bid = some bl → r < bl.rings.length →
        slot < 16 → ∃ b', t.block? p.ctx p.cluster bid = some b' ∧
          (b'.rings.getD r 0).getLsbD slot = !(bl.rings.getD r 0).getLsbD slot) ∧
      (∀ bid b c ts bl, p.what = .arrive bid b c ts → s.block? p.ctx p.cluster bid = some bl → b < bl.bars.length →
        bl.barBad b c ts = none → (bl.bar b).cnt + ts.length < (if c = 0 then bl.threads - bl.exited.length else c) →
        ∃ b', t.block? p.ctx p.cluster bid = some b' ∧ (b'.bar b).ph = (bl.bar b).ph ∧
          (b'.bar b).cnt = (bl.bar b).cnt + ts.length) ∧
      (∀ ts c, p.what = .carrive ts → s.cluster? p.ctx p.cluster = some c →
        (∀ u ∈ ts, c.cbar.pending u.2.1 u.2.2 = false) → c.cbar.cnt + ts.length < s.clusterLive p.ctx p.cluster →
        ∃ c', t.cluster? p.ctx p.cluster = some c' ∧ c'.cbar.ph = c.cbar.ph ∧ c'.cbar.cnt = c.cbar.cnt + ts.length) ∧
      (∀ bid ts bl, p.what = .exits bid ts → s.block? p.ctx p.cluster bid = some bl →
        ∃ b', t.block? p.ctx p.cluster bid = some b' ∧ b'.exited = bl.exited ++ ts) ∧
      (∀ n c, p.what = .cexits n → s.cluster? p.ctx p.cluster = some c →
        ∃ c', t.cluster? p.ctx p.cluster = some c' ∧ c'.cexits = c.cexits + n) ∧
      (∀ bid r slot phase ts bl, p.what = .waitRing bid r slot phase ts → s.block? p.ctx p.cluster bid = some bl →
        ((bl.rings.getD r 0).getLsbD slot ≠ phase → t = { s with packets := t.packets }) ∧
        ((bl.rings.getD r 0).getLsbD slot = phase → ∀ w ∈ t.warps, w.ofCluster p.ctx p.cluster = true → ∀ l ∈ w.lanes,
          l.bid = bid → l.tid ∈ ts → l.status ≠ .waiting (.ring r slot phase))) ∧
      (∀ bid b ts bl, p.what = .waitBar bid b ts → s.block? p.ctx p.cluster bid = some bl →
        ((∀ u ∈ ts, (bl.bar b).pending bid u.2 = true) → t.warps = s.warps) ∧
        ((∀ u ∈ ts, (bl.bar b).pending bid u.2 = false) → ∀ w ∈ t.warps, w.ofCluster p.ctx p.cluster = true →
          ∀ l ∈ w.lanes, l.bid = bid → (∃ u ∈ ts, u.2 = l.tid) → l.status ≠ .waiting (.bar b))) ∧
      (∀ ts c, p.what = .waitCbar ts → s.cluster? p.ctx p.cluster = some c →
        ((∀ u ∈ ts, c.cbar.pending u.2.1 u.2.2 = true) → t.warps = s.warps) ∧
        ((∀ u ∈ ts, c.cbar.pending u.2.1 u.2.2 = false) → ∀ w ∈ t.warps, w.ofCluster p.ctx p.cluster = true →
          ∀ l ∈ w.lanes, (∃ u ∈ ts, u.2 = (l.bid, l.tid)) → l.status ≠ .waiting .cbar))

/-- The core may form a handler warp of the cluster for message `m`, the oldest pending there: the context runs, the cluster lies on
the core, and fewer than NH of its handler warps are busy there, their registers reserved (R112, R374, R377). -/
structure Sys2Proof.Claims.HandlerReady (s : State) (core : Nat) (c : Cluster) (l : Launch) (m : Msg) (rest : List Msg) : Prop where
  placed : c ∈ s.clusters
  launch : s.launch? c.ctx = some l
  live : l.run = .live
  goes : s.vectorStopped c.ctx = false
  stands : c.retired = false
  here : core ∈ c.cores l
  pending : (s.msgs.filter fun q => q.ctx == c.ctx && q.cluster == c.idx && q.arrived && q.dst == c.ordinal l core) = m :: rest
  spare : (s.warps.filter fun w =>
    w.core == core && w.ctx == c.ctx && w.cluster == c.idx && w.kind == .handler).length < l.nh
  registers : s.regsUsed core + 32 * l.nreg ≤ 65536

/-- R377, R378: a message joins the pending list behind its elders of the same pair of cores; a core with a free handler forms a
warp of up to 32 pending messages of the oldest one's handler, whose lanes hold their payloads. -/
def Obligations.MessagesArriveInOrderAndFormHandlerWarps : Prop :=
  (∀ (s : State) (m : Msg), s.msgs.find? (fun q => q.id == m.id && !q.arrived) = some m →
    (∀ q ∈ s.msgs, q.id < m.id → q.arrived = false → q.ctx = m.ctx → q.cluster = m.cluster → q.src = m.src → q.dst ≠ m.dst) →
    ∃ t, exec (.messageArrival m.id) s = .next t ∧
      t = { s with msgs := (s.msgs.filter fun q => q.id != m.id) ++ [{ m with arrived := true }] }) ∧
  (∀ (s : State) (c : Cluster) (l : Launch) (core slot : Nat) (m : Msg) (rest : List Msg),
    HandlerReady s core c l m rest → (∀ c' l' m' rest', HandlerReady s core c' l' m' rest' → c' = c) →
    s.freeSlot core = some slot →
    let take := ((m :: rest).filter fun q => q.h == m.h).take 32
    ∃ (t : State) (w : Warp), exec (.handlerWarpForm core) s = .next t ∧ t.warps = s.warps ++ [w] ∧ w.core = core ∧ w.slot = slot ∧
      w.ctx = c.ctx ∧ w.cluster = c.idx ∧ w.kind = .handler ∧ (∀ q ∈ t.msgs, q ∉ take) ∧
      ∀ i < take.length, (w.lane i).status = .runnable ∧
        (w.lane i).pc = BitVec.ofNat 57 (l.htab.getD m.h 0) ∧
        some (w.lane i).msrc = (take[i]?).map Msg.msrc ∧
        (∀ p, take[i]? = some p → (w.lane i).v = p.payload ++ List.replicate (l.nreg - p.payload.length) 0))

/-! ### Fetching, timers -/

/-- The state with the line at a device address served by its slice (R216); no byte of memory changes where the slices are sound. -/
def Sys2Proof.Claims.LineServed (s u : State) (c : CWait) (d : Nat) : Prop :=
  u = s.touchLine d c.ctx c.tag c.hc false ∧ (SlicesSound s → ∀ a, u.devByte a = s.devByte a)

/-- R29, R187: an awaited line comes back whole, as its home holds it, and its wait is over; a constant-cache line also gives its
words to the parts of `ldc` that wait for it.
R32: a line whose parity fails at issue is discarded and fetched once more from its home on account of that PC; a mismatch at a PC
for which the line has come once more takes the instruction-parity machine check and counts as uncorrectable. -/
def Obligations.AwaitedLinesComeBackWholeOrAreRefetched : Prop :=
  ((∀ (s : State) (c : CWait) (d : Nat), c.fetch = true → c.dev = some d →
      s.cwaits.find? (fun e => e.core == c.core && e.ctx == c.ctx && e.line == c.line && e.fetch) = some c →
      let home := s.forward c.ctx (c.line * 64) d
      ∃ t u, exec (.instructionFetch c.core c.ctx c.line) s = .next t ∧ (∀ e ∈ t.cwaits, e ≠ c) ∧
        (∃ l, t.iline c.core c.ctx c.line = some l ∧ l.data = s.devRead home 64 ∧ l.again = c.again) ∧
        LineServed s u c home ∧ t = { u with icache := t.icache, cwaits := t.cwaits, drops := t.drops }) ∧
    (∀ (s : State) (c : CWait) (d : Nat), c.fetch = false → c.dev = some d →
      s.cwaits.find? (fun e => e.core == c.core && e.ctx == c.ctx && e.line == c.line && !e.fetch) = some c →
      let home := s.forward c.ctx (c.line * 64) d
      ∃ t u, exec (.constantCacheFill c.core c.ctx c.line) s = .next t ∧ (∀ e ∈ t.cwaits, e ≠ c) ∧
        (∀ j < 16, t.ccWord c.core c.ctx (c.line * 64 + 4 * j) =
          some (BitVec.ofNat 32 (bytesToNat (s.devRead (home + 4 * j) 4)))) ∧
        (∀ r ∈ t.reqs, r.kind = .ldc → r.core = c.core → r.ctx = c.ctx → r.va / 64 = c.line → r.got ≠ none) ∧
        LineServed s u c home ∧ t = { u with ccache := t.ccache, cwaits := t.cwaits, drops := t.drops, reqs := t.reqs })) ∧
  (∀ (s : State) (core slot : Nat) (x : Iss) (c : CLine), s.standing core slot = some x →
      s.iline core x.w.ctx (x.pc.toNat / 64) = some c → x.checkLine c = .parity →
      (∀ (m : Mapped) (d : Nat), x.pc ∉ c.again → s.awaited core x.w.ctx (x.pc.toNat / 64) true = false →
        (let window := (s.bank x.w.ctx).bsbase.toNat % 2 ^ 57 / 2 ^ 19 * 2 ^ 19
         ¬(window ≤ x.pc.toNat ∧ x.pc.toNat < window + 0x80000)) →
        s.translate x.who (x.pc.toNat / 64 * 64) false = .ok m → m.tgt = .line d →
        ∃ (t : State) (n : CWait), exec (.parityRefetch core slot) s = .next t ∧ t.icache = (s.icache.filter fun l => !(l == c)) ∧
          t.cwaits = s.cwaits ++ [n] ∧ n.core = core ∧ n.ctx = x.w.ctx ∧ n.line = x.pc.toNat / 64 ∧ n.fetch = true ∧
          n.dev = some d ∧ n.again = c.again ++ [x.pc] ∧ t.sys = s.sys ∧ t.warps = s.warps ∧ t.launches = s.launches ∧
          t.hbm = s.hbm ∧ t.l2 = s.l2) ∧
      (x.pc ∈ c.again →
        ∃ t r, exec (.parityRefetch core slot) s = .next t ∧ r.code = 0x13 ∧ r.kind = 3 ∧ r.ctx = x.w.ctx ∧
          r.addr = x.pc.toNat ∧
          (let u : State :=
            { s with
              issuing := some (core, slot),
              sys := { s.sys with unccnt := if s.sys.unccnt = 0xFFFFFFFF then s.sys.unccnt else s.sys.unccnt + 1 } }
           t = { (u.blackBox 2 core).takeTrap r with issues := s.issues + 1, issuing := s.issuing })))

/-- R107, R203: the lanes of a warp whose snooze has run out become runnable at the slot after it; an age of 64 reserves freed
entries for the oldest such warp.
R88: with the promise on, a turn of T cycles ends when another path is runnable, which then has it, and otherwise its count
restarts; R89: a warp with a lane that has not issued for the period posts one stall record, naming its stalled lanes. That a snooze runs
out in a warp halted at a breakpoint too (assumption 73) and causes 5 and 8 of a stall record (assumption 52) are the model's. -/
def Obligations.TimersEndSnoozesHoldsAndTurns : Prop :=
  ((∀ (s : State) (core slot : Nat), ∃ t, exec (.snoozeExpiry core slot) s = .next t ∧
      (∀ w, s.warp? core slot = some w → ∃ w', t.warp? core slot = some w' ∧
        ∀ i < w.lanes.length, w'.lane i =
          match (w.lane i).status with
          | .waiting (.snooze u) =>
            if u ≤ s.cycle then { (w.lane i).arrive (nextPc (w.lane i).pc) with status := .runnable } else w.lane i
          | _ => w.lane i) ∧
      t = { s with warps := t.warps }) ∧
    (∀ (s : State) (core : Nat) (w : Warp), (∀ r ∈ s.reserved, r.1 ≠ core) → w ∈ s.warps → w.core = core →
      (∃ a ∈ w.ages, a.2 = 64) → (∀ v ∈ s.warps, v.core = core → v ≠ w → (∃ a ∈ v.ages, a.2 = 64) → w.form < v.form) →
      exec (.rejectionAgeLimit core) s =
        .next { s with reserved := s.reserved ++ [(core, w.slot, 4096 - s.entriesUsed core)] })) ∧
  ((∀ (s : State) (w : Warp) (l : Launch) (p : VAddr), s.warp? w.core w.slot = some w → s.launch? w.ctx = some l →
      w.cur = some p → l.promise = true → w.brk = false → w.turnStart + max 64 (s.sys.fairt.toNat % 65536) ≤ s.cycle →
      (∀ v ∈ s.sys.fairWas, v.1 < w.turnStart) → (∀ q ∈ w.paths, q ≠ p → w.waited s.cycle q < s.cycle) →
      ∃ t w', exec (.fairnessTimerExpiry w.core w.slot) s = .next t ∧ t.warp? w.core w.slot = some w' ∧
        w' = { w with cur := w'.cur, since := w'.since, turnStart := s.cycle } ∧ t = { s with warps := t.warps } ∧
        (w.paths.length ≤ 1 → w'.cur = some p) ∧
        (1 < w.paths.length → w.paths.Nodup → ∃ q ∈ w.paths, q ≠ p ∧ w'.cur = some q ∧
          ∀ q' ∈ w.paths, q' ≠ p → w.waited s.cycle q ≤ w.waited s.cycle q')) ∧
    (∀ (s : State) (w : Warp) (i : Nat) (rest : List Nat), s.warp? w.core w.slot = some w →
      w.stallMask = 0 → w.brk = false → (∀ l, s.launch? w.ctx = some l → l.run ≠ .halted) →
      ((List.range 32).filter fun j => (w.lane j).stalled s.cycle s.sys) = i :: rest →
      ∃ t, exec (.watchdogExpiry w.core w.slot) s = .next t ∧
        (∃ w', t.warp? w.core w.slot = some w' ∧ w' = { w with stallMask := maskOf (i :: rest) }) ∧
        (s.ringFull = true → s.pendingRecs = [] → t.pendingRecs =
          [s.record w.ctx 2 0 (s.stallCause w i) w.core w.slot i (w.lane i).pc.toNat 0 (maskOf (i :: rest))]) ∧
        (s.ringFull = false → s.pendingRecs = [] → InRing s t
          [s.record w.ctx 2 0 (s.stallCause w i) w.core w.slot i (w.lane i).pc.toNat 0 (maskOf (i :: rest))])))

/-! ### Translation faults and their answers -/

/-- Something happens for each element of a list, in order, each on what the last left. -/
def Sys2Proof.Claims.InTurn {α : Type} (one : State → State → α → Prop) : State → State → List α → Prop
  | s, t, [] => t = s
  | s, t, a :: rest => ∃ u, one s u a ∧ InTurn one u t rest

/-- The thread with a number, wherever a warp holds it, has one entry fewer in the mend log, and its VIS is `up` of what it was. -/
def Sys2Proof.Claims.EntryGone (a b : State) (m : Mend) (up : Nat → Nat) : Prop :=
  b.mends = (a.mends.filter fun n => !(n == m)) ∧
  (a.hasThread m.uid = true → ∀ w' ∈ b.warps, ∀ l' ∈ w'.lanes, l'.uid = m.uid → l'.status ≠ .departed →
    ∃ w ∈ a.warps, ∃ l ∈ w.lanes, l.uid = m.uid ∧ l'.mc = l.mc - 1 ∧ l'.vis = up l.vis)

/-- The replay of one entry of the mend log (R250). Its address is translated anew: it is performed at its home, its write completion
time going to its thread, and leaves the log; or it faults again, posting a new record, and stays; or it is dropped and the context
takes access-violation. The new record names no warp and no lane, which is the model's choice (assumption 88). -/
def Sys2Proof.Claims.Replayed (a b : State) (m : Mend) : Prop :=
  let typ := if m.aop = 0xFF then 2 else 3
  let l := a.threadLane m.uid
  match a.engPlace (a.engineWho m.core m.ctx m.cluster) ⟨m.ctx, m.cluster, m.bid, 0⟩ false m.va m.data.length true with
  | .ok p => ∀ d, p.tgt = .line d → (∀ r ∈ a.reqs, r.uid ≠ m.uid) →
      let home := a.forward m.ctx m.va d
      let old := a.devRead home m.data.length
      let new := if m.aop = 0xFF then m.data
        else natToBytes (m.ty.bits / 8) (aopValue m.aop m.ty m.nbv (bytesToNat old) (bytesToNat m.data) 0)
      EntryGone a b m (fun vis => max vis (a.completion (.line home))) ∧
      (home % 128 + m.data.length ≤ 128 → (m.aop ≠ 0xFF → m.data.length = m.ty.bits / 8) → SlicesSound a →
        Overwritten a.devByte b.devByte home m.data.length new)
  | .fault k => b = a.post [a.record m.ctx k typ 0 m.core 0 0 m.va l.rpc.toNat l.rcnt]
  | .violation => ∃ u : State, EntryGone a u m id ∧ u = { a with mends := u.mends, warps := u.warps, clusters := u.clusters } ∧
      b = u.takeTrap (a.record m.ctx 3 typ 0x07 m.core 0 0 0 m.va 0)

/-- A pin that waited is translated again (R338): it takes the PTE found; or it faults again, posting a record of TYPE 8, whose AUX and
COUNT of 0 are the model's choice (assumption 90); or the context takes access-violation. -/
def Sys2Proof.Claims.Repinned (a b : State) (p : Pin) : Prop :=
  let faults := fun k => b = a.post [a.record p.ctx k 8 0 p.core 0 0 p.va 0 0]
  let refused := b = a.takeTrap (a.record p.ctx 3 0 0x07 p.core 0 0 0 p.va 0)
  match a.walk p.ctx p.va with
  | .leaf pte size =>
    match a.judge (a.engineWho p.core p.ctx p.cluster) pte (a.geoEntry p.ctx (pteWord pte).geo) size p.va false none with
    | .ok _ => b.warps = a.warps ∧ (p ∈ a.pins → ∃ q ∈ b.pins, q.core = p.core ∧ q.ctx = p.ctx ∧ q.va = p.va ∧ q.pte = some pte)
    | .fault k => faults k
    | .violation => refused
  | .invalid => faults 0
  | .malformed => refused

/-- The parked lanes of a context whose faults all lie in the range restart at their region entry, with the snapshot's frames (R245);
the others lose the answered addresses. -/
def Sys2Proof.Claims.LanesRestart (s t : State) (ctx : Nat) (r : Nat × Nat) : Prop :=
  ∀ v, s.warp? v.core v.slot = some v → v.ctx = ctx → ∃ v', t.warp? v.core v.slot = some v' ∧
    ∀ i < v.lanes.length, v'.lane i =
      match (v.lane i).status with
      | .parked typ vas =>
        if (∀ a ∈ vas, r.1 ≤ a ∧ a < r.2) then
          { v.lane i with status := .runnable, pc := (v.lane i).rpc, frames := (v.lane i).rsnap }
        else { v.lane i with status := .parked typ (vas.filter fun a => !(decide (r.1 ≤ a) && decide (a < r.2))) }
      | _ => v.lane i

/-- R253, R254: a write of FRHEAD that leaves room for the waiting records puts them into the ring in order, each at TAIL, which it
advances past it; R251: a
write of 1 to FRSTAT bit 0 clears OVF; R252: FRSIZE takes its N.
R245, R250, R255: a success answer for a live context removes its TLB entries of the range, replays the entries of its mend logs
there in log order, translates its pins that waited there, and restarts each parked lane of it all of whose faults lie in the range at
its region entry, with the snapshot's frames; R412: one that names no live context counts in FRLATE; R435: on dies shut down no answer
acts.
R256: a failure answer with a waiter in its range takes fatal-translation for the waiter of lowest address, and without one
removes the TLB entries of the range alone. Fields of the records of replays, pins and waiters (assumptions 88 to 90), and that a replay
comes behind older requests of its thread for its bytes (assumption 94), are the model's. -/
def Obligations.FaultRecordsReachTheRingAndAnswersAct : Prop :=
  ((∀ (s : State) (w : Word) (r : FaultRec), s.pendingRecs = [r] →
      ({ s with sys := { s.sys with frhead := w } } : State).ringFull = false →
      ∃ t, exec (.frheadWrite w) s = .next t ∧ t.sys.frhead = w ∧ t.sys.frtail = s.sys.frtail + 1 ∧ t.pendingRecs = [] ∧
        t.ovfNext = false ∧ t.outside.irqs = s.outside.irqs ++ [0]) ∧
    (∀ (s : State) (w : Word), 4 ≤ s.ringN → s.ringN ≤ 20 → s.tsCovers s.ringBase (32 * 2 ^ s.ringN) = true →
      (s.sys.frtail - w).toNat + s.pendingRecs.length ≤ 2 ^ s.ringN →
      ∃ t, exec (.frheadWrite w) s = .next t ∧ t.sys.frhead = w ∧ t.pendingRecs = [] ∧ InRing s t s.pendingRecs) ∧
    (∀ (s : State) (w : Word) (r : FaultRec) (rs : List FaultRec), s.pendingRecs = r :: rs →
      ({ s with sys := { s.sys with frhead := w } } : State).ringFull = true →
      ∃ t, exec (.frheadWrite w) s = .next t ∧ t.sys.frhead = w ∧ t.sys.frtail = s.sys.frtail ∧ t.pendingRecs = r :: rs ∧
        t.sys.frstat.getLsbD 0 = true) ∧
    (∀ (s : State) (w : Word), s.pendingRecs = [] →
      exec (.frsizeWrite w) s = .next { s with sys := { s.sys with frsize := w &&& 0x1F } }) ∧
    (∀ s : State, exec .frstatOvfClear s = .next { s with sys := { s.sys with frstat := 0 } })) ∧
  (∀ (s : State) (w : DWord), s.stopped = true →
    exec (.fransSuccess w) s = .next { s with sys := { s.sys with frans1 := w &&& 0xFFFF } } ∧
    exec (.fransFailure w) s = .next { s with sys := { s.sys with frans1 := (w &&& 0xFFFF) ||| 0x10000 } }) ∧
  (∀ (s : State) (w : DWord), s.stopped = false →
      (s.named w.toNat = none → ∃ t, exec (.fransSuccess w) s = .next t ∧
        t.sys.frlate = (if s.sys.frlate = 0xFFFFFFFF then s.sys.frlate else s.sys.frlate + 1) ∧ t.warps = s.warps) ∧
      (∀ l, s.named w.toNat = some l → s.vectorStopped l.ctx = false → s.mends = [] → s.pins = [] →
        (∀ c ∈ s.cwaits, c.again = []) →
        let r := ansRange s.sys.frans0
        ∃ t, exec (.fransSuccess w) s = .next t ∧
          (∀ e ∈ t.tlbs, ¬(e.ctx = l.ctx ∧ e.va < r.2 ∧ r.1 < e.va + e.size)) ∧ LanesRestart s t l.ctx r ∧
          t.hbm = s.hbm ∧ t.blocks = s.blocks) ∧
      (∀ l, s.named w.toNat = some l → s.vectorStopped l.ctx = false → (∀ c ∈ s.cwaits, c.again = []) →
        let r := ansRange s.sys.frans0
        let within := fun (a : Nat) => decide (r.1 ≤ a) && decide (a < r.2)
        ∃ t u v z, exec (.fransSuccess w) s = .next t ∧ u = { s with sys := u.sys, tlbs := u.tlbs } ∧
          (∀ e ∈ u.tlbs, ¬(e.ctx = l.ctx ∧ e.va < r.2 ∧ r.1 < e.va + e.size)) ∧
          InTurn Replayed u v (s.mends.filter fun m => m.ctx == l.ctx && within m.va) ∧
          InTurn Repinned v z (v.pins.filter fun p => p.ctx == l.ctx && p.pte.isNone && within p.va) ∧
          LanesRestart z t l.ctx r ∧ t.mends = z.mends ∧ t.pins = z.pins ∧ t.hbm = z.hbm ∧ t.blocks = z.blocks)) ∧
  (∀ (s : State) (w : DWord) (l : Launch), s.stopped = false → s.named w.toNat = some l → s.vectorStopped l.ctx = false →
      let s' : State := { s with sys := { s.sys with frans1 := (w &&& 0xFFFF) ||| 0x10000 } }
      let r := ansRange s.sys.frans0
      let hit := (s'.waiters l.ctx).filter fun a => decide (r.1 ≤ a.va) && decide (a.va < r.2)
      (hit = [] → ∃ t, exec (.fransFailure w) s = .next t ∧ t = { s' with tlbs := t.tlbs } ∧
        ∀ e ∈ t.tlbs, ¬(e.ctx = l.ctx ∧ e.va < r.2 ∧ r.1 < e.va + e.size)) ∧
      (hit ≠ [] → ∃ a ∈ hit, (∀ b ∈ hit, a.va ≤ b.va) ∧
        exec (.fransFailure w) s =
          .next (s'.takeTrap (s'.record l.ctx 3 a.typ 0x08 a.core a.slot a.lane a.pc a.va a.mask))))

/-! ### Traps -/

/-- R251, R388, R395, R411, R434: taking a halting trap writes its record into the ring or has it wait, writes 0x90 with CTX and GEN as
STATUS of the launch's record, puts its code into byte 2 of the debug trap word, raises vector 0, and vector 1 where the record asks for
it, records the event in the black box, and halts the context; other contexts run on. -/
def Obligations.HaltingTrapRecordsAndHaltsItsContext : Prop :=
  ∀ (s : State) (r : FaultRec) (l : Launch), s.launch? r.ctx = some l → l.run = .live → s.preempt = none → r.code < 256 →
    ∃ l', (s.takeTrap r).launch? r.ctx = some l' ∧ l'.run = .halted ∧ l'.dtrap.extractLsb' 16 8 = BitVec.ofNat 8 r.code ∧
      (∀ c, c ≠ r.ctx → (s.takeTrap r).launch? c = s.launch? c) ∧ 0 ∈ (s.takeTrap r).outside.irqs ∧
      4 ∈ (s.takeTrap r).outside.irqs ∧
      (∃ b ∈ (s.takeTrap r).service.box, b.kind = 0 ∧ b.source = r.core) ∧
      (s.takeTrap r).warps = s.warps ∧ (s.takeTrap r).blocks = s.blocks ∧ (s.takeTrap r).clusters = s.clusters ∧
      (s.ringFull = true → (s.takeTrap r).pendingRecs = s.pendingRecs ++ [r]) ∧
      (s.ringFull = false → s.pendingRecs = [] → (s.takeTrap r).sys.frtail = s.sys.frtail + 1 ∧
        (s.takeTrap r).pendingRecs = []) ∧
      (s.pendingRecs = [] → ∃ u : State, Posts s u [r] ∧ ∀ o, l.statusAt = some o → ∀ a, (s.takeTrap r).devByte a =
        (u.tsPut o (natToBytes 4 (0x90 + 256 * r.ctx + 65536 * l.gen))).devByte a) ∧
      (l.irq = true → 1 ∈ (s.takeTrap r).outside.irqs)

/-- The instruction traps illegal-instruction with no effect of its own: its record names the PC, the executing lanes and the
lowest of them (R253). -/
def Sys2Proof.Claims.TrapsIllegal (i : Instr) (s : State) (x : Iss) : Prop :=
  exec i s = .next
    { s.takeTrap (s.record x.w.ctx 3 0 0x01 x.w.core x.w.slot ((x.ex ++ x.act).headD 0) x.pc.toNat 0 (maskOf x.ex)) with
      issues := s.issues + 1 }

/-- The format R instructions, each with the registers it names. -/
def Sys2Proof.Claims.formatR (g : Guard) (o : ROps) : List (Instr × List RegUse) :=
  ([Instr.add g o, .sub g o, .mul g o, .mulhi g o, .mad g o, .madhi g o, .min g o, .max g o, .abs g o, .neg g o, .sad g o,
    .and g o, .or g o, .xor g o, .bitop g o, .brev g o, .sel g o, .mov g o, .wscan g o, .wred g o].map fun i =>
      (i, o.regUses o.spans)) ++
  ([Instr.shl g o, .shr g o, .sra g o, .rotl g o, .rotr g o, .bfx g o, .bfi g o].map fun i =>
    (i, o.regUses ⟨o.ty.regs, o.ty.regs, 1, o.ty.regs⟩)) ++
  ([Instr.clz g o, .ctz g o, .popc g o, .matchAny g o, .matchAll g o].map fun i => (i, o.regUses ⟨1, o.ty.regs, 1, 1⟩)) ++
  ([Instr.lea g o, .shfl g o, .rdlane g o].map fun i => (i, o.regUses ⟨o.ty.regs, o.ty.regs, 1, 1⟩)) ++
  ([Instr.dot4 g o, .pmovToReg g o, .pmovToPred g o, .voteAny g o, .voteAll g o, .voteMask g o, .fadd g o, .fsub g o, .fmul g o,
    .ffma g o, .fmin g o, .fmax g o, .frnd g o, .fscale g o, .fdot2 g o, .fsqrt g o, .frcp g o, .frsq g o, .fex2 g o, .flg2 g o,
    .fsin g o, .fcos g o, .pack2 g o, .dtdec g o, .dtenc g o, .fclass g o].map fun i => (i, o.regUses ⟨1, 1, 1, 1⟩)) ++
  [(.cvt g o, o.regUses ⟨(o.cvtDest.getD .s32).regs, o.ty.regs, 1, 1⟩), (.fclassTake g o, [(o.d, 1)]), (.snooze g o, [(o.a, 1)]),
   (.barArrive g o, [(o.a, 1)]), (.barSync g o, [(o.a, 1)]), (.sringPost g o, [(o.a, 1)]), (.sringWait g o, (o.a, 1) :: o.b.use 1),
   (.msend g o, (o.a, (o.mod.extractLsb' 6 4).toNat) :: o.b.use 1), (.gtime g o, [(o.d, 2)]), (.sysrd g o, [(o.d, o.ty.regs)]),
   (.syswr g o, [(o.a, o.ty.regs)]), (.tlbinvRange g o, [(o.a, 2)] ++ o.b.use 1), (.launch g o, [(o.d, 1), (o.a, 2)] ++ o.b.use 1),
   (.sortw g o, [(o.a, 1), (o.c, (o.mod.extractLsb' 0 4).toNat)]), (.sortqKey g o, [(o.d, 1), (o.a, 1)]), (.sortqAll g o, [(o.d, 1)]),
   (.sortdKey g o, [(o.a, 1)]), (.discard g o, [(o.a, 2), (o.c, 1)] ++ o.b.use 1)] ++
  ([Instr.cp g o, .probe g o, .unpin g o, .cpseal g o].map fun i => (i, [(o.d, 2), (o.a, 2), (o.c, 1)] ++ o.b.use 1)) ++
  ([Instr.gath g o, .scat g o].map fun i => (i, [(o.d, 2), (o.a, 2), (o.c, 2)] ++ o.b.use 1)) ++
  [(.cp2d g o, [(o.d, 2), (o.a, 2), (o.c, 4)] ++ o.b.use 1)]

/-- The other formats that name registers. -/
def Sys2Proof.Claims.otherFormats (g : Guard) (c : COps) (i : IOps) (p : POps) (m : MOps) (e : XOps) :
    List (Instr × List RegUse) :=
  [(.brx g c, [(c.a, 1)]), (.call g c, [(c.a, 2)]), (.ret g c, [(c.a, 2)]), (.loop g c, [(c.a, 1)]),
   (.movi g i, [(i.d, i.ty.regs), (i.a, i.ty.regs)]), (.addi g i, [(i.d, i.ty.regs), (i.a, i.ty.regs)]),
   (.icmp g p, (p.a, p.ty.regs) :: p.b.use p.ty.regs), (.fcmp g p, (p.a, 1) :: p.b.use 1), (.btst g p, (p.a, p.ty.regs) :: p.b.use 1),
   (.ld g m, (m.d, m.ty.regs) :: addrUses m), (.st g m, (m.d, m.ty.regs) :: addrUses m), (.red g m, (m.d, m.ty.regs) :: addrUses m),
   (.atom g m, (m.d, if m.aop == 8 then 2 * m.ty.regs else m.ty.regs) :: addrUses m), (.pref g m, addrUses m),
   (.ldc g m, [(m.d, m.ty.regs), (m.a, 1), (m.x, 1)])] ++
  [Instr.mma g e, .tfill g e, .tfillId g e, .tld g e, .tst g e, .tmask g e, .pbind g e, .tbind g e, .pfill g e].map fun j =>
    (j, g5Uses 0 e)

/-- R34, R41, R147, R253, R280, R291, R466: an instruction that names a register outside the thread's allocation traps
illegal-instruction with no effect of its own; so do a DT8 operand, and an `mma` whose OPT is not 0, outside numerics version 3, a
group 5 instruction whose tile or binding the launch does not have, and a `loop` whose end is no valid PC.
R63: each privileged instruction traps privileged-instruction in a launch without the supervisor flag, with no effect. -/
def Obligations.IllegalAndPrivilegedInstructionsTrap : Prop :=
  (∀ (s : State) (g : Guard) (o : ROps) (c : COps) (i : IOps) (p : POps) (m : MOps) (e : XOps) (x : Iss), s.iss g = some x →
      (∀ f ∈ formatR g o ++ otherFormats g c i p m e, (∃ u ∈ f.2, u.1.inAlloc x.l.nreg = false) → TrapsIllegal f.1 s x) ∧
      (o.ty = .dt8 → s.nbv ≠ 3 → TrapsIllegal (.mov g o) s x) ∧
      (m.ty = .dt8 → s.nbv ≠ 3 → TrapsIllegal (.ld g m) s x ∧ TrapsIllegal (.st g m) s x) ∧
      (validPc (x.pc + c.disp.signExtend 57) = false → TrapsIllegal (.loop g c) s x) ∧
      (x.l.nacc ≤ e.acc.toNat → ∀ j ∈ [Instr.mma g e, .tfill g e, .tfillId g e, .tld g e, .tst g e, .tmovGet g e, .tmovPut g e,
        .tmask g e, .pbind g e, .tbind g e, .pfill g e], TrapsIllegal j s x) ∧
      (x.l.nprs ≤ e.prs.toNat → ∀ j ∈ [Instr.mma g e, .pbind g e, .pfill g e], TrapsIllegal j s x) ∧
      (e.opt ≠ 0 → s.nbv ≠ 3 → TrapsIllegal (.mma g e) s x) ∧
      (e.tya = .dt8 → s.nbv ≠ 3 → TrapsIllegal (.pbind g e) s x)) ∧
  (∀ (s : State) (g : Guard) (o : ROps) (x : Iss) (i : Instr) (uses : List RegUse),
      (i, uses) ∈ [(Instr.sysrd g o, [(o.d, o.ty.regs)]), (.syswr g o, [(o.a, o.ty.regs)]), (.tlbinvCtx g o, []),
        (.tlbinvRange g o, [(o.a, 2)] ++ o.b.use 1), (.tlbinvAll g o, []), (.cinv g o, []), (.hlt g o, [])] →
      s.iss g = some x → (∀ u ∈ uses, u.1.inAlloc x.l.nreg = true) → x.l.super = false →
      exec i s = .next (x.trap 0x04))

/-! ### Group 7: system -/

/-- R260, R418 to R420: `gtime` and `sysrd` write their pair or register, `gtime` never a time before one that the thread has
been given; `syswr` that a release lets go completes and its write
takes effect; `hlt` halts the context, with its operand in byte 1 of the trap word and vector 6 raised. -/
def Obligations.SystemInstructionsReadWriteAndHalt : Prop :=
  (∀ (s : State) (g : Guard) (o : ROps) (x : Iss), (Instr.gtime g o).wf = true → CanIssue s g x [(o.d, 2)] →
    let now := s.gtOf x.w.core
    ((∀ i ∈ x.ex, (x.w.lane i).seenGt ≤ now) →
      ∃ t w, exec (.gtime g o) s = .next t ∧ OnlyWarp s t x w ∧ Turned { x.w with k := kAfter x o.d 2 fun _ => now } w ∧
        Advances x w fun _ l => { l with v := vAfter l.v o.d 2 now, seenGt := now }) ∧
    (¬(∀ i ∈ x.ex, (x.w.lane i).seenGt ≤ now) → exec (.gtime g o) s = .next s)) ∧
  (∀ (s : State) (g : Guard) (o : ROps) (x : Iss), (Instr.sysrd g o).wf = true → CanIssue s g x [(o.d, o.ty.regs)] →
    x.l.super = true →
    ∃ t, exec (.sysrd g o) s = .next t ∧
      WritesD s t x o.d o.ty.regs (fun _ => s.readReg x.w.ctx o.mod.toNat) x.w.fstat) ∧
  (∀ (s : State) (g : Guard) (o : ROps) (x : Iss), (Instr.syswr g o).wf = true → CanIssue s g x [(o.a, o.ty.regs)] →
    x.l.super = true →
    (x.ex = [] → ∃ t, exec (.syswr g o) s = .next t ∧ MovesOn s t x) ∧
    (x.ex ≠ [] → x.fenced 2 = true → ∃ t, MovesOn s t x ∧
      exec (.syswr g o) s =
        .next (t.writeReg x.w.ctx o.mod.toNat (BitVec.ofNat 64 (x.read (x.ex.headD 0) o.a o.ty.regs))))) ∧
  (∀ (s : State) (g : Guard) (o : ROps) (x : Iss), (Instr.hlt g o).wf = true → CanIssue s g x [] → x.l.super = true →
    (x.ex = [] → ∃ t, exec (.hlt g o) s = .next t ∧ MovesOn s t x) ∧
    (x.ex ≠ [] → x.l.run = .live → s.preempt = none →
      ∃ t l', exec (.hlt g o) s = .next t ∧ t.launch? x.w.ctx = some l' ∧ l'.run = .halted ∧
        l'.dtrap.extractLsb' 8 8 = o.mod.extractLsb' 0 8 ∧ 6 ∈ t.outside.irqs ∧ t.pendingRecs = s.pendingRecs ∧
        t.warps = s.warps ∧ t.sys = s.sys))

/-- R238: a walk that gives a translation is cached for its core and its group; one that fails is not.
R240, R241: `tlbinv`, with nothing translated under way, removes the TLB entries of its context, of its range of 64 KiB units or
of every context, and moves on; `cinv` empties the caches that it selects. -/
def Obligations.TranslationsAreCachedAndInvalidated : Prop :=
  (∀ (s : State) (core ctx va : Nat) (c : Cluster) (l : Launch), s.clusterOn ctx core = some (c, l) →
      let who : Who := { core := core, ctx := ctx, super := l.super, cl := some (c, l) }
      ∃ t, exec (.tlbWalk core ctx va) s = .next t ∧
        t = { s with tlbs := t.tlbs, sealedFrames := t.sealedFrames, drops := t.drops } ∧
        (∀ m e, s.pageTranslate who va false = .ok m → m.tlb = some e →
          e ∈ t.tlbs ∧ { e with owner := 192 + groupOf e.owner } ∈ t.tlbs) ∧
        ((∀ m, s.pageTranslate who va false ≠ .ok m) → t = s)) ∧
  (let quiet := fun (s : State) => s.reqs = [] ∧ s.fills = [] ∧ s.cwaits = []
    let after := fun (s t : State) (x : Iss) (keep : Tlb → Prop) =>
      (∀ e, e ∈ t.tlbs ↔ e ∈ s.tlbs ∧ keep e) ∧ ∃ u, MovesOn s u x ∧ t = { u with tlbs := t.tlbs }
    (∀ (s : State) (g : Guard) (o : ROps) (x : Iss), (Instr.tlbinvCtx g o).wf = true → CanIssue s g x [] →
      x.l.super = true → x.ex ≠ [] → quiet s → x.w.hold = [] → (∀ e ∈ s.tlbs, e.va < 2 ^ 57 ∧ 0 < e.size) →
      ∃ t, exec (.tlbinvCtx g o) s = .next t ∧ after s t x fun e => e.ctx ≠ x.w.ctx) ∧
    (∀ (s : State) (g : Guard) (o : ROps) (x : Iss), (Instr.tlbinvRange g o).wf = true →
      CanIssue s g x ([(o.a, 2)] ++ o.b.use 1) → x.l.super = true → x.ex ≠ [] → quiet s → x.w.hold = [] →
      let lo := x.read (x.ex.headD 0) o.a 2 / 65536 * 65536
      let hi := lo + 65536 * (x.readB (x.ex.headD 0) o.b 1 % 2 ^ 20)
      ∃ t, exec (.tlbinvRange g o) s = .next t ∧
        after s t x fun e => ¬(e.ctx = x.w.ctx ∧ lo < hi ∧ e.va < hi ∧ lo < e.va + e.size)) ∧
    (∀ (s : State) (g : Guard) (o : ROps) (x : Iss), (Instr.tlbinvAll g o).wf = true → CanIssue s g x [] →
      x.l.super = true → x.ex ≠ [] → quiet s → x.w.hold = [] → (∀ e ∈ s.tlbs, e.va < 2 ^ 57 ∧ 0 < e.size) →
      ∃ t, exec (.tlbinvAll g o) s = .next t ∧ after s t x fun _ => False) ∧
    (∀ (s : State) (g : Guard) (o : ROps) (x : Iss), (Instr.cinv g o).wf = true → CanIssue s g x [] → x.l.super = true →
      x.ex ≠ [] →
      ∃ t u, exec (.cinv g o) s = .next t ∧ MovesOn s u x ∧
        t = { u with icache := if o.mod.getLsbD 0 then [] else s.icache, ccache := if o.mod.getLsbD 1 then [] else s.ccache }) ∧
    (∀ (s : State) (g : Guard) (o : ROps) (x : Iss) (i : Instr) (uses : List RegUse),
      (i, uses) ∈ [(Instr.tlbinvCtx g o, []), (.tlbinvRange g o, [(o.a, 2)] ++ o.b.use 1), (.tlbinvAll g o, []), (.cinv g o, [])] →
      CanIssue s g x uses → x.l.super = true → x.ex = [] → ∃ t, exec i s = .next t ∧ MovesOn s t x))

/-- The device-wide registers that a write only sets, with the highest and lowest bit that they have (Table 4 of 19_system and the
rules that name each). -/
def Sys2Proof.Claims.plainRegisters : List (Nat × Nat × Nat) :=
  [(0x001, 3, 0), (0x002, 15, 0), (0x003, 15, 0), (0x004, 5, 0), (0x005, 1, 0), (0x007, 23, 0), (0x010, 56, 16), (0x011, 40, 16),
   (0x012, 30, 0), (0x013, 63, 12), (0x018, 39, 5), (0x021, 39, 12), (0x022, 31, 0), (0x028, 56, 16), (0x02A, 63, 0), (0x02B, 5, 0)]

/-- The registers of a queue, a port and a heap window, by their place in its group, in the same form. -/
def Sys2Proof.Claims.queueFields : List (Nat × Nat × Nat) := [(0, 39, 8), (1, 3, 0), (2, 31, 0), (4, 1, 0)]
def Sys2Proof.Claims.portFields : List (Nat × Nat × Nat) := [(0, 56, 16), (1, 56, 16), (2, 15, 0)]
def Sys2Proof.Claims.heapFields : List (Nat × Nat × Nat) := [(0, 56, 16), (1, 56, 16), (2, 30, 0), (3, 31, 6), (4, 1, 0)]

/-- A write of register `n` of context `ctx` keeps bits `hi` to `lo`, and no other register changes. -/
def Sys2Proof.Claims.Keeps (s : State) (ctx n hi lo : Nat) (v : DWord) : Prop :=
  ∃ t, exec (.systemRegisterWrite (BitVec.ofNat 12 n) ctx v) s = .next t ∧
    t.readReg ctx n = v.toNat / 2 ^ lo % 2 ^ (hi + 1 - lo) * 2 ^ lo ∧
    (∀ c m, sysInfo m ≠ none → (m = n → 0x400 ≤ n ∧ c ≠ ctx) → t.readReg c m = s.readReg c m) ∧
    t = { s with sys := t.sys, banks := t.banks }

/-- R4, R146, R216, R265, R416: a write of NBV takes bits 1:0 and 0 changes nothing; LEASE and SLPIN take bits 3:0; a write by the
driver changes the register that its number names, in the context's bank where it has one, and reads back; read-only and
unassigned numbers keep the whole state. The bits that GTBASE and BSBASE keep are the model's choice (assumption 70). -/
def Obligations.DriverWritesReachTheirRegister : Prop :=
  (∀ (s : State) (w : Word), exec (.nbvWrite w) s = .next (if w.toNat % 4 = 0 then s
    else { s with sys := { s.sys with nbv := w &&& 3 } })) ∧
  (∀ (s : State) (w : Word), exec (.leaseWrite w) s = .next { s with sys := { s.sys with lease := w &&& 0xF } }) ∧
  (∀ (s : State) (w : Word), ∃ t, exec (.slpinWrite w) s = .next t ∧ t.sys = { s.sys with slpin := w &&& 0xF } ∧
    (t.l2.map fun l => (l.line, l.data, l.dirty)) = (s.l2.map fun l => (l.line, l.data, l.dirty)) ∧
    t = { s with sys := t.sys, l2 := t.l2 }) ∧
  (∀ (s : State) (reg : BitVec 12) (ctx : Nat) (v : DWord),
    (sysInfo reg.toNat = none ∨ ∃ i, sysInfo reg.toNat = some i ∧ i.ro = true) →
    exec (.systemRegisterWrite reg ctx v) s = .next s) ∧
  (∀ (s : State) (ctx : Nat) (v : DWord), ctx < s.banks.length →
    ∃ t, exec (.systemRegisterWrite 0x400 ctx v) s = .next t ∧ t.readReg ctx 0x400 = v.toNat / 2 ^ 21 % 2 ^ 19 * 2 ^ 21 ∧
      ∀ c, c ≠ ctx → t.bank c = s.bank c) ∧
  (∀ (s : State) (p : Fin 8) (ctx : Nat) (v : DWord), s.sys.ports.length = 8 →
    ∃ t, exec (.systemRegisterWrite (BitVec.ofNat 12 (0x040 + 4 * p)) ctx v) s = .next t ∧
      t.readReg 0 (0x040 + 4 * p) = v.toNat / 2 ^ 16 % 2 ^ 41 * 2 ^ 16) ∧
  (∀ (s : State) (ctx n hi lo : Nat) (v : DWord), s.pendingRecs = [] →
    ((n, hi, lo) ∈ plainRegisters → Keeps s ctx n hi lo v) ∧
    (∀ q < 64, (n, hi, lo) ∈ queueFields → s.sys.queues.length = 64 → Keeps s ctx (0x100 + 8 * q + n) hi lo v) ∧
    (∀ p < 8, (n, hi, lo) ∈ portFields → s.sys.ports.length = 8 → Keeps s ctx (0x040 + 4 * p + n) hi lo v) ∧
    (ctx < s.banks.length → Keeps s ctx 0x400 39 21 v ∧ Keeps s ctx 0x401 56 10 v ∧ Keeps s ctx 0x402 56 19 v) ∧
    (∀ h < 4, (n, hi, lo) ∈ heapFields → ctx < s.banks.length → (s.bank ctx).heap.length = 4 →
      Keeps s ctx (0x408 + 8 * h + n) hi lo v)) ∧
  (∀ (s : State) (ctx : Nat) (v : DWord), ∃ t, exec (.systemRegisterWrite 0x01E ctx v) s = .next t ∧
    t.readReg ctx 0x01E = v.toNat / 2 ^ 16 % 2 ^ 41 * 2 ^ 16 + v.toNat % 4 ∧ t = { s with sys := t.sys })

/-! ### Group 5: the matrix engine -/

/-- A group 5 instruction stands to issue: its tile and binding exist (R280), its row of registers lies in the allocation (R303),
its numerics version is in force (R147, R291), no lane is parked and none awaited (R247). -/
structure Sys2Proof.Claims.EngineReady (s : State) (g : Guard) (x : Iss) (opk : Nat) (o : XOps) : Prop where
  can : CanIssue s g x (g5Uses opk o)
  tile : o.acc.toNat < x.l.nacc
  binding : g5Bind opk = true → o.prs.toNat < x.l.nprs
  semiring : opk = 0 → o.opt ≠ 0 → s.nbv = 3
  dt8 : opk = 6 → o.tya = .dt8 → s.nbv = 3
  row : opk = 4 → ∃ n, o.aop = .v n ∧ n.toNat + (if o.mod.getLsbD 1 then 2 else 4) ≤ x.l.nreg
  unheld : NoneHeld x

/-- What the issue leaves: the entry, with its operands as lane 0 holds them, in the queue of the home core of the warp's block, or
on its way there; the operation counted in its class; every lane moved on; nothing else changed. -/
def Sys2Proof.Claims.Queues (s t : State) (x : Iss) (opk : Nat) (o : XOps) (cls : OpClass) : Prop :=
  ∃ (e : G5Entry) (w : Warp), e.opk = opk ∧ e.ops = o ∧ e.core = x.c.home x.l (x.w.lane 0).bid ∧ e.ctx = x.w.ctx ∧
    e.cluster = x.w.cluster ∧
    e.bid = (x.w.lane 0).bid ∧ e.wcore = x.w.core ∧ e.slot = x.w.slot ∧ e.form = x.w.form ∧ e.pc = x.pc ∧ e.st = .queued ∧
    e.a.toNat = (if o.asrc = 1 then x.read 0 o.aop 2 % 2 ^ 57 else x.read 0 o.aop 1 % 2 ^ 32) ∧
    e.r.toNat = x.read 0 o.skp 1 % 2 ^ 32 ∧ e.nbv = s.nbv ∧ e.prog = 0 ∧ e.flags = 0 ∧
    (opk = 4 → o.mod.getLsbD 0 = true →
      let n := if o.mod.getLsbD 1 then 2 else 4
      e.vals = (List.range 32).flatMap fun i => splitWords (x.read i o.aop n) n) ∧
    (e.core = x.w.core → t.g5 = s.g5 ++ [e] ∧ t.packets = s.packets) ∧
    (e.core ≠ x.w.core → t.g5 = s.g5 ∧ ∃ p, t.packets = s.packets ++ [p] ∧ p.core = x.w.core ∧ p.dst = e.core ∧ p.what = .group5 e) ∧
    t.warp? x.w.core x.w.slot = some w ∧ Turned { x.w with ops := w.ops } w ∧
    (if cls = .none then w.ops = x.w.ops else ∃ q, w.ops = x.w.ops ++ [q] ∧ q.cls = cls ∧ q.left = 1 ∧ q.id = e.id) ∧
    (∀ i < 32, w.lane i = { (x.w.lane i).arrive (nextPc x.pc) with lastIssue := s.cycle }) ∧
    (∀ c k, ¬(c = x.w.core ∧ k = x.w.slot) → t.warp? c k = s.warp? c k) ∧
    t = { s with warps := t.warps, g5 := t.g5, packets := t.packets, nextId := t.nextId, issues := s.issues + 1 }

/-- R276, R286 to R288, R290: a group 5 instruction that a whole warp of one block executes queues one entry and counts it in its
class; without an executing lane it moves on; with some lanes only it traps illegal-convergence; a base or map that fails its checks
traps access-violation with the failing address. -/
def Obligations.EngineInstructionsQueueTheirEntry : Prop :=
  ∀ (s : State) (g : Guard) (o : XOps) (x : Iss) (i : Instr) (opk : Nat) (o' : XOps) (cls : OpClass),
    (i, opk, o', cls) ∈ [(Instr.mma g o, 0, o, OpClass.mx), (.tfill g o, 1, o, .mx),
      (.tfillId g o, 1, { o with mod := o.mod ||| 1 }, .mx), (.tld g o, 2, o, .mx), (.tst g o, 3, o, .st),
      (.tmovGet g o, 4, { o with mod := o.mod &&& 0xFFFFE }, .none), (.tmovPut g o, 4, { o with mod := o.mod ||| 1 }, .none),
      (.tmask g o, 5, o, .mx), (.pbind g o, 6, o, .none), (.tbind g o, 7, o, .none), (.pfill g o, 8, o, .cp)] →
    i.wf = true → EngineReady s g x opk o' →
    let whole := x.w.kind ≠ .handler ∧ x.ex = List.range 32 ∧ ∀ j < 32, (x.w.lane j).bid = (x.w.lane 0).bid
    let a := if o.asrc = 1 then x.read 0 o.aop 2 % 2 ^ 57 else x.read 0 o.aop 1 % 2 ^ 32
    let bad := x.g5Bad o' opk a (x.read 0 o.skp 1 % 2 ^ 32)
    (x.ex = [] → ∃ t, exec i s = .next t ∧ MovesOn s t x) ∧
    (x.ex ≠ [] → ¬whole → exec i s = .next (x.trap 0x05)) ∧
    (whole → (∀ j < 32, s.acquiring (x.w.lane j).uid = false) →
      (∀ v, bad = some v → exec i s = .next (x.trapLane 0x07 0 v)) ∧
      (bad = none → (s.entries.filter fun e => e.core == x.c.home x.l (x.w.lane 0).bid).length < 32 →
        (cls ≠ .none → x.w.count cls ≠ 127) → ∃ t, exec i s = .next t ∧ Queues s t x opk o' cls))

/-- An entry heads its core's queue and may start: its context runs and no write that it waits for is outstanding. -/
structure Sys2Proof.Claims.EngineHead (s : State) (core : Nat) (e : G5Entry) (b : Block) (l : Launch) : Prop where
  head : ∃ rest, s.queue core = e :: rest
  queued : e.st = .queued
  runs : s.engineRuns e.ctx = true
  writes : g5Reads e.opk = true → s.writesOut e.uids = false
  block : s.block? e.ctx e.cluster e.bid = some b
  launch : s.launch? e.ctx = some l
  unique : ∀ f ∈ s.g5, f.id = e.id → f = e
  tile : g5Tile e.opk = true → e.ops.acc.toNat < b.tiles.length
  binding : g5Bind e.opk = true → e.ops.prs.toNat < b.binds.length
  sound : s.badSram = []

/-- The entry has been performed whole, with these flags. -/
def Sys2Proof.Claims.Performed (t : State) (e : G5Entry) (fl : BitVec 8) : Prop :=
  ∃ e' ∈ t.g5, e'.id = e.id ∧ e'.st = .finished 0 0 ∧ e'.flags = e.flags ||| fl ∧ e'.opk = e.opk

/-- Of the state only the block and the queues changed: tile ACC of the block became `f` of itself. -/
def Sys2Proof.Claims.TileBecomes (s t : State) (e : G5Entry) (b : Block) (f : Tile → Tile) : Prop :=
  t = { s with blocks := t.blocks, g5 := t.g5 } ∧ ∃ b', t.block? e.ctx e.cluster e.bid = some b' ∧
    b' = { b with tiles := b'.tiles } ∧ ∀ j, b'.tile j = if j = e.ops.acc.toNat then f (b.tile j) else b.tile j

/-- The value of a DT8 code: two signed powers of two, a term of exponent 7 being zero (R140). -/
def Sys2Proof.Claims.dt8Value (w : Nat) : ℚ :=
  let term := fun (sign : Bool) (e : Nat) => if e = 7 then (0 : ℚ) else (if sign then -1 else 1) / 2 ^ e
  term (w.testBit 7) (w / 16 % 8) + term (w.testBit 3) (w % 8)

/-- A float operand as the array reads it: version 1 reads BF16 subnormals as zeros (R295). -/
def Sys2Proof.Claims.operandOf (nbv : Nat) (ty : Ty) (x : Nat) : ℚ :=
  let v := valueOf ((fmtOf ty).val x)
  if nbv = 1 ∧ ty = .bf16 ∧ |v| < 1 / 2 ^ 126 then 0 else v

/-- The cell `t` takes the exact sum S of a k-step in one rounding: a NaN is canonical, a zero S or an infinity leaves `t` (R293). -/
def Sys2Proof.Claims.TakesSum (t : Nat) (S : ℚ) (res : Nat × Flags) : Prop :=
  (∀ g, Fmt.f32.val t = .nan g → res = (0x7FC00000, if g then Flags.nv else Flags.none)) ∧
  (∀ n, Fmt.f32.val t = .inf n → res = (t, Flags.none)) ∧
  (∀ n m e, Fmt.f32.val t = .fin n m e →
    let z := valueOf (.fin n m e) + S
    if S = 0 then res = (t, Flags.none) else if z = 0 then res = (0, Flags.none) else Rounds Fmt.f32 .rne 3 z res)

/-- `r` is the sum of two finite f32 values rounded once and flushed, with the flags of both and its own (R294). -/
def Sys2Proof.Claims.Sums (p q r : Nat × Flags) : Prop :=
  ∀ np mp ep nq mq eq, Fmt.f32.val p.1 = .fin np mp ep → Fmt.f32.val q.1 = .fin nq mq eq →
    let z := valueOf (.fin np mp ep) + valueOf (.fin nq mq eq)
    ∃ u : Nat × Flags, r = (u.1, p.2 ||| q.2 ||| u.2) ∧
      if z = 0 then u.1 % 2 ^ 31 = 0 ∧ u.2 = Flags.none else Rounds Fmt.f32 .rne 1 z u

/-- `q` is a product of two operands rounded to f32 and flushed, +0 where the skip map removes it (R294). -/
def Sys2Proof.Claims.Product (nbv : Nat) (ty : Ty) (p : Nat × Nat × Bool) (q : Nat × Flags) : Prop :=
  let z := operandOf nbv ty p.1 * operandOf nbv ty p.2.1
  if p.2.2 then q = (0, Flags.none)
  else if z = 0 then q.1 % 2 ^ 31 = 0 ∧ q.2 = Flags.none else Rounds Fmt.f32 .rne 1 z q

/-- R293 to R295, R312 to R316, R319: what one k-step makes of a cell `t`, from its pairs (A element, B element, skipped): an exact
integer sum, a bit under entry 4, one rounding of the exact sum under version 3, the fixed tree under version 2, the terms in
ascending k under version 1, the exact minimum or maximum rounded once under entries 1, 2, 3, 5 and 6. -/
def Sys2Proof.Claims.CellValues : Prop :=
  ∀ (nbv t scale : Nat) (ps : List (Nat × Nat × Bool)), t < 2 ^ 32 →
    let live := ps.filter fun p => !p.2.2
    (∀ ta tb : Ty, ta ∈ [Ty.s8, .n8] → tb ∈ [Ty.s8, .n8] →
      let r := cellStep 0 nbv ta tb true t scale ps
      r.2 = Flags.none ∧ BitVec.ofNat 32 r.1 =
        BitVec.ofInt 32 ((t : Int) + (live.map fun p => intAt ta p.1 * intAt tb p.2.1).sum)) ∧
    cellStep 4 nbv .b1 .b1 true t scale ps = (if (1, 1, false) ∈ ps then t ||| 1 else t, Flags.none) ∧
    (∀ (opt : Nat) (ta tb : Ty) (s32 : Bool), live = [] → nbv ≠ 2 → cellStep opt nbv ta tb s32 t scale ps = (t, Flags.none)) ∧
    (∀ ta : Ty, ta ∈ [Ty.s8, .n8] → live ≠ [] →
      let r := cellStep 0 nbv ta .dt8 false t scale ps
      if scale = 0xFF then r = (0x7FC00000, Flags.nv)
      else TakesSum t ((live.map fun p => (intAt ta p.1 : ℚ) * dt8Value p.2.1).sum * (2 : ℚ) ^ ((scale : Int) - 127)) r) ∧
    (∀ ty : Ty, ty ∈ [Ty.f16, .bf16, .f32] →
      let f := fmtOf ty
      let step := fun opt v => cellStep opt v ty ty false t scale ps
      let finite := ∀ p ∈ live, (∃ n m e, f.val p.1 = .fin n m e) ∧ ∃ n m e, f.val p.2.1 = .fin n m e
      let nans := (∃ g, Fmt.f32.val t = .nan g) ∨ ∃ p ∈ live, ∃ g, f.val p.1 = .nan g ∨ f.val p.2.1 = .nan g
      let signalling := Fmt.f32.val t = .nan true ∨ ∃ p ∈ live, f.val p.1 = .nan true ∨ f.val p.2.1 = .nan true
      let invalid := ∃ p ∈ live, ∃ n, f.val p.1 = .inf n ∧ valueOf (f.val p.2.1) = 0 ∧ (∃ k m e, f.val p.2.1 = .fin k m e) ∨
        f.val p.2.1 = .inf n ∧ valueOf (f.val p.1) = 0 ∧ ∃ k m e, f.val p.1 = .fin k m e
      (live ≠ [] → finite → TakesSum t (live.map fun p => valueOf (f.val p.1) * valueOf (f.val p.2.1)).sum (step 0 3)) ∧
      (live ≠ [] → nans ∨ invalid → (step 0 3).1 = 0x7FC00000 ∧ ((step 0 3).2 = Flags.nv ∨ (step 0 3).2 = Flags.none) ∧
        (signalling ∨ invalid → (step 0 3).2 = Flags.nv)) ∧
      (ps.length = 16 → finite → ∃ n : Nat → Nat × Flags, (∀ i < 16, Product 2 ty (ps.getD i (0, 0, true)) (n (16 + i))) ∧
        (∀ i, 1 ≤ i → i < 16 → Sums (n (2 * i)) (n (2 * i + 1)) (n i)) ∧ Sums (t, Flags.none) (n 1) (step 0 2)) ∧
      (finite → ∃ n : Nat → Nat × Flags, n 0 = (t, Flags.none) ∧ n live.length = step 0 1 ∧
        ∀ i < live.length, ∃ q, Product 1 ty (live.getD i (0, 0, true)) q ∧ Sums (n i) q (n (i + 1))) ∧
      (∀ opt ∈ [1, 2, 3, 5, 6],
        let xs := live.map fun p =>
          let a := valueOf (f.val p.1)
          let b := valueOf (f.val p.2.1)
          if opt = 3 then a * b else if opt = 5 then min a b else if opt = 6 then max a b else a + b
        (live ≠ [] → nans → (step opt 3).1 = 0x7FC00000 ∧ ((step opt 3).2 = Flags.nv ∨ (step opt 3).2 = Flags.none) ∧
          ((step opt 3).2 = Flags.nv ↔ signalling)) ∧
        (opt = 3 → ¬nans → invalid → step opt 3 = (0x7FC00000, Flags.nv)) ∧
        (live ≠ [] → finite → (∃ n m e, Fmt.f32.val t = .fin n m e) →
          ∃ m ∈ valueOf (Fmt.f32.val t) :: xs,
            (∀ v ∈ valueOf (Fmt.f32.val t) :: xs, if opt = 1 ∨ opt = 6 then m ≤ v else v ≤ m) ∧
            if m = 0 then (step opt 3).1 % 2 ^ 31 = 0 ∧ (step opt 3).2 = Flags.none else Rounds Fmt.f32 .rne 3 m (step opt 3))))

/-- R284, R290, R292 to R295, R300, R301, R305, R310, R312, R323: at the queue's head, `tld` from block SRAM converts every element of its tile,
`tst` to it writes every element's conversion and no other byte, `tmask` writes one bit for each 8 by 8 block of annihilators; an
`mma` that passes its checks runs, and each k-step brings every cell of its tile to the value of its panel, binding and skip map; a `pfill` enters the copy
engine's queue. That a NaN raises invalid only where it signals is the model's reading of R312 and R464 (assumption 68). -/
def Obligations.MemoryAndMultiplyEntriesPerformAtTheQueuesHead : Prop :=
  (∀ (s : State) (core : Nat) (e : G5Entry) (b : Block) (l : Launch), EngineHead s core e b l →
    let tile := b.tile e.ops.acc.toNat
    let a := e.a.toNat
    let w := e.ops.tya.bits / 8
    let sc := (e.ops.mod.extractLsb' 0 8).toInt
    let sat := e.ops.mod.getLsbD 8
    let elem := fun (k : Tile) (i j : Nat) => (k.rows.getD i []).getD j 0
    let runs := fun (t : State) => exec (.group5EntryStart core) s = .next t
    let fits := e.ops.asrc = 0 ∧ a + 63 * e.r.toNat + 128 * w ≤ b.size ∧ e.ops.tya ≠ .b1
    (e.opk = 2 → fits → ∃ (t : State) (b' : Block), runs t ∧ t.block? e.ctx e.cluster e.bid = some b' ∧
      t = { s with blocks := t.blocks, g5 := t.g5 } ∧ b'.sram = b.sram ∧
      ∀ i < 64, ∀ j < 128, elem (b'.tile e.ops.acc.toNat) i j = BitVec.ofNat 32
        (tileConvert e.ops.tya (if tile.s32 then .s32 else .f32) sc sat
          (bytesToNat (b.sram.getN (a + i * e.r.toNat + j * w) w))).1) ∧
    (e.opk = 3 → fits → 128 * w ≤ e.r.toNat → b.sram.wf = true → tile.rows.length = 64 → (∀ r ∈ tile.rows, r.length = 128) →
      ∃ (t : State) (b' : Block), runs t ∧ t.block? e.ctx e.cluster e.bid = some b' ∧ b'.tiles = b.tiles ∧ t.hbm = s.hbm ∧ t.l2 = s.l2 ∧
        (∀ i < 64, ∀ j < 128, b'.sram.getN (a + i * e.r.toNat + j * w) w = natToBytes w
          (tileConvert (if tile.s32 then .s32 else .f32) e.ops.tya sc sat (elem tile i j).toNat).1) ∧
        ∀ p, (∀ i < 64, p < a + i * e.r.toNat ∨ a + i * e.r.toNat + 128 * w ≤ p) → b'.sram.get p = b.sram.get p) ∧
    (e.opk = 5 → e.ops.asrc = 0 → e.ops.tya ∈ [Ty.s8, .n8, .f16, .bf16, .f32] → b.sram.wf = true →
      let p := panelBytes e.ops.tya
      let c := kstepOf e.ops.tya / 8
      let n := elemBytes e.ops.tya
      a + e.ops.kst.toNat * p ≤ b.size →
      ∃ (t : State) (b' : Block), runs t ∧ Performed t e 0 ∧ t.block? e.ctx e.cluster e.bid = some b' ∧
        (∀ q < e.ops.kst.toNat, ∀ k < c, ∀ i < 8, (b'.sram.get (e.r.toNat + q * c + k)).getLsbD i = true ↔
          ∀ u < 8, ∀ m < 8, annihilator e.ops.opt.toNat e.ops.tya
            (bytesToNat (b.sram.getN (a + q * p + (8 * i + u) * (p / 64) + (8 * k + m) * n) n)) = true) ∧
        ∀ y, y < e.r.toNat ∨ e.r.toNat + e.ops.kst.toNat * c ≤ y → b'.sram.get y = b.sram.get y) ∧
    (e.opk = 0 →
      let d := b.bind e.ops.prs.toNat
      let ok := bindBound d = true ∧ (bindType d = .dt8 → e.nbv = 3) ∧
        comboOk e.ops.opt.toNat e.ops.tya (bindType d) tile.s32 = true ∧
        ((e.ops.mod.extractLsb' 1 13).toNat + e.ops.kst.toNat) * kstepOf e.ops.tya ≤ bindK d
      (¬ok → runs (s.takeTrap (s.record e.ctx 3 0 0x10 e.wcore e.slot 0 e.pc.toNat 0 0xFFFFFFFF))) ∧
      (ok → ∃ (t : State) (e' : G5Entry), runs t ∧ e' ∈ t.g5 ∧ e' = { e with st := .running } ∧ t = { s with blocks := t.blocks, g5 := t.g5 } ∧
        ((e.ops.mod.getLsbD 0 = false ∨ tile.prog ≠ 0) → t.block? e.ctx e.cluster e.bid = some b) ∧
        (e.ops.mod.getLsbD 0 = true → tile.prog = 0 → ∃ b', t.block? e.ctx e.cluster e.bid = some b' ∧
          ∀ i < 64, ∀ j < 128, some (elem (b'.tile e.ops.acc.toNat) i j) = identity e.ops.opt.toNat tile.s32))) ∧
    (e.opk = 8 → bindBound (b.bind e.ops.prs.toNat) = true →
      (e.ops.mod.getLsbD 0 = true → bindType (b.bind e.ops.prs.toNat) = .dt8) →
      (s.copyOps.filter fun c => c.core == e.core).length < 32 →
      ∃ (t : State) (c : CopyOp), runs t ∧ t.copyOps = s.copyOps ++ [c] ∧ c.id = e.id ∧ c.opk = 5 ∧ c.core = e.core ∧ c.o0 = e.a ∧
        c.o1.toNat = e.ops.prs.toNat ∧ c.o2 = e.r ∧ c.st = .queued ∧ t = { s with g5 := t.g5, copyOps := t.copyOps })) ∧
  (∀ (s : State) (core : Nat) (e : G5Entry) (b : Block) (l : Launch) (pre rest : List G5Entry),
    s.queue core = pre ++ e :: rest → (∀ f ∈ pre, f.opk = 0 → f.st ≠ .running) → e.opk = 0 → e.st = .running →
    s.block? e.ctx e.cluster e.bid = some b → s.launch? e.ctx = some l → (∀ f ∈ s.g5, f.id = e.id → f = e) →
    s.badSram = [] → e.ops.acc.toNat < b.tiles.length → e.ops.asrc = 0 →
    let tile := b.tile e.ops.acc.toNat
    let d := b.bind e.ops.prs.toNat
    let ta := e.ops.tya
    let tb := bindType d
    let ks := kstepOf ta
    let a0 := e.a.toNat + tile.prog * panelBytes ta
    let k0 := ((e.ops.mod.extractLsb' 1 13).toNat + tile.prog) * ks
    let col := fun j => j * (l.nprs * 1024)
    let A := fun (i m : Nat) => if ta = .b1 then (if (b.sram.get (a0 + i * 16 + m / 8)).getLsbD (m % 8) then 1 else 0)
      else bytesToNat (b.sram.getN (a0 + (i * ks + m) * elemBytes ta) (elemBytes ta))
    let B := fun (k j : Nat) => if tb = .b1 then (if (b.press.get (col j + bindBase d + k / 8)).getLsbD (k % 8) then 1 else 0)
      else bytesToNat (b.press.getN (col j + bindBase d + k * elemBytes tb) (elemBytes tb))
    let map := fun q => if e.ops.skp = .z then (0 : Byte) else b.sram.get (e.r.toNat + tile.prog * (ks / 8) + q)
    let scale := fun j => if tb = .dt8 then (b.press.get (col j + bindScale d + k0 / 32)).toNat else 0
    let cell := fun (i j : Nat) => cellStep e.ops.opt.toNat e.nbv ta tb tile.s32 ((tile.rows.getD i []).getD j 0).toNat (scale j)
      ((List.range ks).map fun m => (A i m, B (k0 + m) j, (map (m / 8)).getLsbD (i / 8)))
    let last := e.ops.kst.toNat ≤ tile.prog + 1
    (s.engineRuns e.ctx = true ∨ s.stopped = false ∧ tile.prog = 0) → ta ≠ .dt8 →
    a0 + panelBytes ta ≤ b.size → tile.rows.length = 64 → (∀ r ∈ tile.rows, r.length = 128) →
    ∃ (t : State) (b' : Block) (e' : G5Entry), exec (.mmaKstep core) s = .next t ∧ t.block? e.ctx e.cluster e.bid = some b' ∧
      t = { s with blocks := t.blocks, g5 := t.g5 } ∧ b' = { b with tiles := b'.tiles } ∧
      (∀ j, j ≠ e.ops.acc.toNat → b'.tile j = b.tile j) ∧
      (b'.tile e.ops.acc.toNat).prog = (if last then 0 else tile.prog + 1) ∧
      (∀ i < 64, ∀ j < 128, ((b'.tile e.ops.acc.toNat).rows.getD i []).getD j 0 = BitVec.ofNat 32 (cell i j).1) ∧
      e' ∈ t.g5 ∧ e' = { e with st := e'.st, flags := e'.flags } ∧ e'.st = (if last then .finished 0 0 else .running) ∧
      (∀ k < 5, e'.flags.getLsbD k = true ↔ e.flags.getLsbD k = true ∨ ∃ i < 64, ∃ j < 128, (cell i j).2.getLsbD k = true) ∧
      (e'.flags.getLsbD 7 = true ↔ e.flags.getLsbD 7 = true ∨ ∃ q < ks / 8, map q = 0xFF)) ∧
  CellValues

/-- R298, R299, R303, R304, R311: `tbind` zeroes its tile and sets its type; `tfill` fills it with the register's value, and
`tfill.id` with the entry's identity, trapping press-bind where there is none; `tmov` gets or puts one row or column; `pbind`
writes its descriptor or traps press-bind.
R289, R303: the head of a queue, performed whole, leaves it and writes `%tstat` of its block: operation, register, k-steps and
flags; a `tmov.get` then writes its registers in all lanes. -/
def Obligations.TileEntriesPerformAndWriteTstat : Prop :=
  (∀ (s : State) (core : Nat) (e : G5Entry) (b : Block) (l : Launch), EngineHead s core e b l →
      let acc := e.ops.acc.toNat
      let col := e.ops.mod.getLsbD 1
      let n := ((e.ops.mod.extractLsb' 2 7).toNat + e.r.toNat) % (if col then 128 else 64)
      let runs := fun (t : State) => exec (.group5EntryStart core) s = .next t
      (e.opk = 7 → ∃ t, runs t ∧ Performed t e 0 ∧ TileBecomes s t e b fun k =>
        { k with s32 := e.ops.mod.getLsbD 0, rows := List.replicate 64 (List.replicate 128 0) }) ∧
      (e.opk = 1 →
        let v := if e.ops.mod.getLsbD 0 then identity e.ops.opt.toNat (b.tile acc).s32 else some (BitVec.ofNat 32 e.a.toNat)
        (∀ u, v = some u → ∃ t, runs t ∧ Performed t e 0 ∧ TileBecomes s t e b fun k =>
          { k with rows := List.replicate 64 (List.replicate 128 u) }) ∧
        (v = none → runs (s.takeTrap (s.record e.ctx 3 0 0x10 e.wcore e.slot 0 e.pc.toNat 0 0xFFFFFFFF)))) ∧
      (e.opk = 4 → e.ops.mod.getLsbD 0 = false → ∃ (t : State) (e' : G5Entry), runs t ∧ t = { s with g5 := t.g5 } ∧ e' ∈ t.g5 ∧ e'.id = e.id ∧
        e'.st = .finished 0 0 ∧
        e'.vals = if col then (b.tile acc).rows.map fun r => r.getD n 0 else (b.tile acc).rows.getD n []) ∧
      (e.opk = 4 → e.ops.mod.getLsbD 0 = true → (b.tile acc).rows.length = 64 → (∀ r ∈ (b.tile acc).rows, r.length = 128) →
        ∃ t, runs t ∧ Performed t e 0 ∧ ∃ b', t.block? e.ctx e.cluster e.bid = some b' ∧ ∀ i < 64, ∀ j < 128,
          (((b'.tile acc).rows.getD i []).getD j 0) =
            if col then (if j = n then e.vals.getD i 0 else ((b.tile acc).rows.getD i []).getD j 0)
            else if i = n then e.vals.getD j 0 else ((b.tile acc).rows.getD i []).getD j 0) ∧
      (e.opk = 6 →
        let sb := (e.ops.mod.extractLsb' 0 14).toNat
        let ok := pbindOk e.ops.tya (l.nprs * 1024) e.a.toNat e.r.toNat sb
        (ok = false → runs (s.takeTrap (s.record e.ctx 3 0 0x10 e.wcore e.slot 0 e.pc.toNat 0 0xFFFFFFFF))) ∧
        (ok = true → ∃ (t : State) (b' : Block), runs t ∧ Performed t e 0 ∧ t.block? e.ctx e.cluster e.bid = some b' ∧
          (let d := b'.bind e.ops.prs.toNat
           bindBound d = true ∧ d.extractLsb' 58 5 = e.ops.tya.code ∧ bindK d = e.r.toNat ∧ bindScale d = sb ∧
             bindBase d = e.a.toNat) ∧
          b' = { b with binds := b'.binds } ∧
          (∀ j, j ≠ e.ops.prs.toNat → b'.bind j = b.bind j) ∧ t = { s with blocks := t.blocks, g5 := t.g5 }))) ∧
  (∀ (s : State) (core : Nat) (e : G5Entry) (rest : List G5Entry) (b : Block), s.queue core = e :: rest →
      e.st = .finished 0 0 → e.opk < 8 → s.block? e.ctx e.cluster e.bid = some b →
      ∃ (t : State) (b' : Block), exec (.group5EntryComplete core) s = .next t ∧ t.g5 = s.g5.filter (fun f => f.id != e.id) ∧
        t.block? e.ctx e.cluster e.bid = some b' ∧ b' = { b with tstat := b'.tstat } ∧
        (b'.tstat.extractLsb' 28 4).toNat = e.opk ∧
        (b'.tstat.extractLsb' 24 4).toNat =
          (if e.opk = 5 then 0 else if e.opk = 6 then e.ops.prs.toNat else e.ops.acc.toNat) ∧
        (b'.tstat.extractLsb' 11 13).toNat = (if e.opk = 0 then e.ops.kst.toNat else 0) ∧
        b'.tstat.extractLsb' 0 8 = e.flags ∧
        (∀ (w : Warp) (n : BitVec 8), e.opk = 4 → e.ops.mod.getLsbD 0 = false → e.ops.aop = .v n →
          s.warp? e.wcore e.slot = some w → w.form = e.form → w.lanes.length = 32 →
          (∃ i, (w.lane i).status = .runnable) → (∀ q ∈ w.ops, q.id ≠ e.id ∧ q.cpstat = none ∧ q.trapAddr = none ∧ q.uids = []) →
          let c := if e.ops.mod.getLsbD 1 then 2 else 4
          ∃ w', t.warp? e.wcore e.slot = some w' ∧ ∀ i < 32,
            (w'.lane i).v = regsAfter (w.lane i).v n.toNat c (joinWords (fun j => e.vals.getD j 0) (i * c) c)))

/-! ### Copy operations and placement operations -/

/-- What the issue of a copy operation leaves: the operation with its operands as the lowest executing lane holds them, counted in
CP; every active lane moved on; nothing else changed. -/
def Sys2Proof.Claims.StartsCopy (s t : State) (x : Iss) (opk : Nat) (d a b : Nat) (q : List Word) (mod : BitVec 16) (st : EngState) :
    Prop :=
  ∃ (c : CopyOp) (w : Warp) (op : OutOp), c.opk = opk ∧ c.o0 = BitVec.ofNat 64 d ∧ c.o1 = BitVec.ofNat 64 a ∧ c.o2 = BitVec.ofNat 32 b ∧ c.q = q ∧
    c.mod = mod ∧ c.core = x.w.core ∧ c.ctx = x.w.ctx ∧ c.cluster = x.w.cluster ∧ c.slot = x.w.slot ∧ c.form = x.w.form ∧
    c.pc = x.pc ∧ c.mask = maskOf x.ex ∧ c.st = st ∧ c.prog = 0 ∧ c.part = 0 ∧ c.uids = (x.ex.map fun i => (x.w.lane i).uid) ∧
    t.copyOps = s.copyOps ++ [c] ∧ t.warp? x.w.core x.w.slot = some w ∧ Turned { x.w with ops := x.w.ops ++ [op] } w ∧
    op.cls = .cp ∧ op.left = 1 ∧ op.id = c.id ∧
    (∀ i, w.lane i = if i ∈ x.act then { (x.w.lane i).arrive (nextPc x.pc) with lastIssue := s.cycle } else x.w.lane i) ∧
    (∀ c k, ¬(c = x.w.core ∧ k = x.w.slot) → t.warp? c k = s.warp? c k) ∧
    t = { s with warps := t.warps, copyOps := t.copyOps, nextId := t.nextId, issues := s.issues + 1 }

/-- R194, R220, R223, R325, R330, R333, R337, R339: a copy or placement instruction starts one operation, where its engine's queue
has room and the count is below 127; without an executing lane it moves on. That `rstrp` and `discard` need no room there is the
model's reading (assumption 10). -/
def Obligations.CopyInstructionsStartTheirOperation : Prop :=
  ∀ (s : State) (g : Guard) (o : ROps) (x : Iss),
    let i0 := x.ex.headD 0
    let d := x.read i0 o.d 2
    let a := x.read i0 o.a 2
    let b := x.readB i0 o.b 1
    let q := fun (n : Nat) => if n = 1 then [] else splitWords (x.read i0 o.c n) n
    let copy := fun (n : Nat) => [(o.d, 2), (o.a, 2), (o.c, n)] ++ o.b.use 1
    let room := (s.copyQueue x.w.core).length < 32
    (∀ (i : Instr) (opk n : Nat) (mod : BitVec 16),
      (i, opk, n, mod) ∈ [(Instr.cp g o, 0, 1, o.mod &&& 0xFFFE), (.cp2d g o, 0, 4, o.mod ||| 1), (.gath g o, 1, 2, o.mod),
        (.scat g o, 2, 2, o.mod), (.probe g o, 3, 1, o.mod), (.unpin g o, 4, 1, o.mod), (.cpseal g o, 8, 1, o.mod)] →
      i.wf = true → CanIssue s g x (copy n) →
      (x.ex = [] → ∃ t, exec i s = .next t ∧ MovesOn s t x) ∧
      (x.ex ≠ [] → (∀ j ∈ x.ex, s.acquiring (x.w.lane j).uid = false) → x.w.count .cp ≠ 127 → room →
        ∃ t, exec i s = .next t ∧ StartsCopy s t x opk d a b (q n) mod .queued)) ∧
    ((Instr.rstrp g o).wf = true → CanIssue s g x ([(o.a, 2), (o.c, 1)] ++ o.b.use 1) →
      (x.ex = [] → ∃ t, exec (.rstrp g o) s = .next t ∧ MovesOn s t x) ∧
      (x.ex ≠ [] → (∀ j ∈ x.ex, s.acquiring (x.w.lane j).uid = false) → x.w.count .cp ≠ 127 →
        ∃ t, exec (.rstrp g o) s = .next t ∧ StartsCopy s t x 6 0 a b [x.word i0 o.c] 0 .queued)) ∧
    ((Instr.discard g o).wf = true → CanIssue s g x [] →
      (x.ex = [] → ∃ t, exec (.discard g o) s = .next t ∧ MovesOn s t x) ∧
      (x.ex ≠ [] → (∀ j ∈ x.ex, s.acquiring (x.w.lane j).uid = false) → x.w.count .cp ≠ 127 →
        ∃ t, exec (.discard g o) s = .next t ∧ StartsCopy s t x 7 0 0 0 [] o.mod .running ∧
          ∃ c ∈ t.copyOps, c.aux0 = s.gtOf x.w.core ∧ c.slices = List.range 192))

/-- An operation that its engine works on, of a block whose SRAM is sound and in form. -/
structure Sys2Proof.Claims.Engaged (s : State) (c : CopyOp) (b : Block) : Prop where
  mem : c ∈ s.copyOps
  unique : ∀ d ∈ s.copyOps, d.id = c.id → d = c
  runs : s.engineRuns c.ctx = true
  block : s.block? c.ctx c.cluster c.bid = some b
  size : b.size ≤ 0x80000
  form : b.sram.wf = true
  sound : s.badSram = []
  pinless : c.slices = []
  own : c.orphan = false

/-- The device addresses of translated pieces on lines, byte by byte, as the homes now lie (R227). -/
def Sys2Proof.Claims.homesOf (s : State) (c : CopyOp) (ps : List Piece) : List Nat :=
  ps.flatMap fun p => match s.pieceTarget c.ctx p with
    | .line d => (List.range p.n).map fun j => d + j
    | _ => []

/-- Pieces that lie each within one line. -/
def Sys2Proof.Claims.OnLines (s : State) (c : CopyOp) (ps : List Piece) : Prop :=
  ∀ p ∈ ps, ∃ d, s.pieceTarget c.ctx p = .line d ∧ d % 128 + p.n ≤ 128

/-- Table 5 of 14_copy_and_gather: the atomic operation of a scatter operation. -/
def Sys2Proof.Claims.scatterOps : List (Nat × Nat) := [(1, 0x00), (2, 0x02), (3, 0x03), (4, 0x0B), (5, 0x0C), (6, 0x0D)]

/-- The operation as it stands afterwards. -/
def Sys2Proof.Claims.OpNow (t : State) (c : CopyOp) (prog : Nat) (st : EngState) : Prop :=
  ∃ c' ∈ t.copyOps, c'.id = c.id ∧ c'.opk = c.opk ∧ c'.prog = prog ∧ c'.st = st

/-- R276, R329, R331, R333 to R337, R339, R340: a `cp` that starts runs, ends at once when it is empty, and fails beyond its limits;
a chunk from the host or a peer into block SRAM, from device memory to the host or a peer, or from lines of device memory to others
moves its bytes and no others; a `cp` from a sealed page to the host writes nothing there and traps; the
probe pass reads the index list; a vector gathers its rows, or scatters them, the highest position of an index winning, or with a
reduction all positions of an index folded in ascending order and then onto the old elements once, and writes no other byte; `unpin`
lowers the pages of its range; `cpseal` writes its chained record and no other byte (that its digest is SHA-384 and its tag an HMAC of it
is presumed, assumption 20). The sides of the gathers lie in block SRAM.
R193, R218, R327: an ended operation leaves its engine and, as its count retires, writes `%cpstat`: operation, COUNT to bits 27
to 8 and the code; with TRAP set and an error its context takes engine-error. -/
def Obligations.CopyEnginesMoveBytesAndWriteCpstat : Prop :=
  (∀ (s : State) (c : CopyOp) (b : Block), Engaged s c b →
      let bs := fieldAt (s.bank c.ctx).bsbase 56 19
      let n := c.o2.toNat
      let t0 := c.prog * 4096
      let k := min n (t0 + 4096) - t0
      let R := (c.mod.extractLsb' 0 12).toNat + 1
      let sram := fun (t : State) (m : Memory) => ∃ b', t.block? c.ctx c.cluster c.bid = some b' ∧ b'.sram = m
      (∀ rest, c.st = .queued → s.copyQueue c.core = c :: rest → s.writesOut c.uids = false → c.opk = 0 →
        let rows := if c.mod.getLsbD 0 then (c.q.getD 0 0).toNat else 1
        ∃ t, exec (.copyOpStart c.core) s = .next t ∧
          (if rows = 0 ∨ n = 0 then OpNow t c 0 (.finished 0 0)
           else if 2 ^ 20 < rows ∨ 2 ^ 32 ≤ rows * n then ∃ p a, OpNow t c p (.finished 0x48 a)
           else OpNow t c c.prog .running ∧ t = { s with copyOps := t.copyOps })) ∧
      (∀ rest, c.st = .queued → s.copyQueue c.core = c :: rest → s.writesOut c.uids = false → c.opk = 4 →
        (∀ p ∈ s.pins, 0 < p.count) →
        let hit := fun (p : Pin) => p.core == c.core && p.ctx == c.ctx && n != 0 && decide (p.va < c.o1.toNat + n) &&
          decide (c.o1.toNat < p.va + p.size)
        ∃ t, exec (.copyOpStart c.core) s = .next t ∧ OpNow t c (s.pins.filter hit).length (.finished 0 0) ∧
          t.pins = s.pins.filterMap fun p =>
            if hit p then (if p.count = 1 then none else some { p with count := p.count - 1 }) else some p) ∧
      (∀ off, c.st = .running → c.probed = true → c.part = 0 → c.buf = [] → c.opk = 0 → c.mod.extractLsb' 0 5 = 0b00100 → t0 < n →
        c.o0.toNat = bs + off → off + n ≤ b.size →
        let port := c.o1.toNat / 2 ^ 60 % 8
        let from_ := c.o1.toNat % 2 ^ 57
        c.o1.toNat < 2 ^ 63 → c.o1.toNat / 2 ^ 57 % 8 = 0 → s.outside.linkUp.getLsbD port = true →
        (∃ p ∈ s.outside.peerWindows, p.1 = port ∧ p.2.1 ≤ from_ ∧ from_ + n ≤ p.2.2 ∧ p.2.2 ≤ 2 ^ 57) →
        ∃ t m, exec (.cpChunk c.id) s = .next t ∧ sram t m ∧ OpNow t c (c.prog + 1) (if n ≤ t0 + 4096 then .finished 0 0 else .running) ∧
          (∀ j, m.get j = if off + t0 ≤ j ∧ j < off + t0 + k then s.outside.peer.get (port * 2 ^ 57 + from_ + (j - off))
            else b.sram.get j) ∧
          t.outside = s.outside ∧ t.hbm = s.hbm ∧ t.warps = s.warps) ∧
      (c.st = .running → c.probed = true → c.part = 0 → c.buf = [] → c.opk = 0 → t0 < n → s.poison = [] →
        let a := c.mapSide s false [(((c.o1.toNat + t0 : Nat) : Int), k)]
        a.faults = [] → a.bad = none → (∀ p ∈ a.ok, p.m.sealed = false) →
        let bytes := a.ok.flatMap fun p => s.homeRead (s.pieceTarget c.ctx p) p.n
        let done := fun (t : State) => OpNow t c (c.prog + 1) (if n ≤ t0 + 4096 then .finished 0 0 else .running) ∧
          (SlicesSound s → ∀ d, t.devByte d = s.devByte d) ∧ t.blocks = s.blocks
        (c.mod.extractLsb' 0 5 = 0b01000 → s.outside.host.wf = true →
          (∃ p ∈ s.outside.apertures, p.1 ≤ c.o0.toNat ∧ c.o0.toNat + n ≤ p.2) →
          ∃ t, exec (.cpChunk c.id) s = .next t ∧ done t ∧ t.outside = { s.outside with host := t.outside.host } ∧
            Overwritten s.outside.host.get t.outside.host.get (c.o0.toNat + t0) k bytes) ∧
        (c.mod.extractLsb' 0 5 = 0b10000 → s.outside.peer.wf = true →
          let port := c.o0.toNat / 2 ^ 60 % 8
          let dest := c.o0.toNat % 2 ^ 57
          c.o0.toNat < 2 ^ 63 → c.o0.toNat / 2 ^ 57 % 8 = 0 → s.outside.linkUp.getLsbD port = true →
          (∃ p ∈ s.outside.peerWindows, p.1 = port ∧ p.2.1 ≤ dest ∧ dest + n ≤ p.2.2 ∧ p.2.2 ≤ 2 ^ 57) →
          ∃ t, exec (.cpChunk c.id) s = .next t ∧ done t ∧ t.outside = { s.outside with peer := t.outside.peer } ∧
            Overwritten s.outside.peer.get t.outside.peer.get (port * 2 ^ 57 + dest + t0) k bytes)) ∧
      (c.st = .running → c.probed = true → c.part = 0 → c.buf = [] → c.opk = 0 → c.mod.extractLsb' 0 5 = 0 → t0 < n → s.poison = [] →
        let a := c.mapSide s false [(((c.o1.toNat + t0 : Nat) : Int), k)]
        let d := c.mapSide a.s true [(((c.o0.toNat + t0 : Nat) : Int), k)]
        a.faults = [] → a.bad = none → d.faults = [] → d.bad = none → OnLines s c a.ok → OnLines s c d.ok → (homesOf s c d.ok).Nodup →
        SlicesSound s →
        ∃ t, exec (.cpChunk c.id) s = .next t ∧ OpNow t c (c.prog + 1) (if n ≤ t0 + 4096 then .finished 0 0 else .running) ∧
          (∀ x y i : Nat, (homesOf s c a.ok)[i]? = some x → (homesOf s c d.ok)[i]? = some y → t.devByte y = s.devByte x) ∧
          (∀ y, y ∉ homesOf s c d.ok → t.devByte y = s.devByte y) ∧ t.blocks = s.blocks ∧ t.outside = s.outside) ∧
      (∀ off, c.st = .running → c.probed = true → c.part = 0 → c.buf = [] → c.opk = 0 → c.mod.extractLsb' 0 5 = 0b00010 → t0 < n →
        c.o0.toNat = bs + off → off + n ≤ b.size → (∃ p ∈ s.outside.apertures, p.1 ≤ c.o1.toNat ∧ c.o1.toNat + n ≤ p.2) →
        ∃ t m, exec (.cpChunk c.id) s = .next t ∧ sram t m ∧ OpNow t c (c.prog + 1) (if n ≤ t0 + 4096 then .finished 0 0 else .running) ∧
          (∀ j, m.get j = if off + t0 ≤ j ∧ j < off + t0 + k then s.outside.host.get (c.o1.toNat + (j - off)) else b.sram.get j) ∧
          t.outside = s.outside ∧ t.hbm = s.hbm ∧ t.warps = s.warps) ∧
      (∀ l : Launch, c.st = .running → c.probed = true → c.part = 0 → c.opk = 0 → c.mod.extractLsb' 0 5 = 0b01000 → t0 < n →
        s.launch? c.ctx = some l → s.preempt = none →
        (∃ p ∈ s.outside.apertures, p.1 ≤ c.o0.toNat ∧ c.o0.toNat + n ≤ p.2) →
        let m := c.mapSide s false [(((c.o1.toNat + t0 : Nat) : Int), k)]
        m.faults = [] → m.bad = none → (∃ p ∈ m.ok, p.m.sealed = true) →
        ∃ (t : State) (l' : Launch), exec (.cpChunk c.id) s = .next t ∧ t.outside.host = s.outside.host ∧ t.outside.peer = s.outside.peer ∧
          t.launch? c.ctx = some l' ∧ l'.run = .halted) ∧
      (∀ (lo fo : Nat) (ta : Int), c.st = .running → c.probed = false → c.opk = 1 ∨ c.opk = 2 → c.q.length = 2 →
        c.listAt = bs + lo → c.flat = bs + fo → c.table = bs + ta → lo % 4 = 0 → lo + 4 * n ≤ b.size → fo + n * R ≤ b.size →
        let idx := fun (i : Nat) => BitVec.ofNat 32 (bytesToNat (b.sram.getN (lo + 4 * i) 4))
        (∀ i < n, 0 ≤ ta + (idx i).toInt * R ∧ ta + (idx i).toInt * R + R ≤ b.size) →
        ∃ t, exec (.gatherProbePass c.id) s = .next t ∧ t = { s with copyOps := t.copyOps } ∧
          { c with q := c.q ++ (List.range n).map idx, probed := true } ∈ t.copyOps) ∧
      (∀ (fo : Nat) (ta : Int), c.st = .running → c.probed = true → c.part = 0 → c.buf = [] → c.opk = 1 → 32 * c.prog < n → c.flat = bs + fo →
        c.table = bs + ta → fo + n * R ≤ b.size →
        (∀ i < n, 0 ≤ ta + c.index i * R ∧ ta + c.index i * R + R ≤ b.size ∧
          (ta + c.index i * R + R ≤ fo ∨ fo + n * R ≤ ta + c.index i * R)) →
        ∃ t m, exec (.gatherVector c.id) s = .next t ∧ sram t m ∧
          OpNow t c (if n ≤ 32 * (c.prog + 1) then n else c.prog + 1) (if n ≤ 32 * (c.prog + 1) then .finished 0 0 else .running) ∧
          (∀ i, 32 * c.prog ≤ i → i < n → i < 32 * (c.prog + 1) →
            m.getN (fo + i * R) R = b.sram.getN (ta + c.index i * R).toNat R) ∧
          ∀ j, j < fo + 32 * c.prog * R ∨ fo + min n (32 * (c.prog + 1)) * R ≤ j → m.get j = b.sram.get j) ∧
      (∀ (fo : Nat) (ta : Int) (aop : Nat), c.st = .running → c.probed = true → c.part = 0 → c.buf = [] → c.opk = 2 →
        ((c.mod.extractLsb' 12 3).toNat, aop) ∈ scatterOps → c.ty.bits = 32 → R % 4 = 0 → 32 * c.prog < n → c.flat = bs + fo →
        c.table = bs + ta → fo + n * R ≤ b.size →
        (∀ i < n, 0 ≤ ta + c.index i * R ∧ ta + c.index i * R + R ≤ b.size ∧
          (ta + c.index i * R + R ≤ fo ∨ fo + n * R ≤ ta + c.index i * R)) →
        let vector := fun (i : Nat) => 32 * c.prog ≤ i ∧ i < n ∧ i < 32 * (c.prog + 1)
        let combine := fun (old v : Nat) => aopValue aop c.ty c.aux0 old v 0
        ∃ t m, exec (.gatherVector c.id) s = .next t ∧ sram t m ∧
          (∀ i e first rest, vector i → 4 * e < R → ((List.range n).filter fun j => decide (vector j) && c.index j == c.index i) = first :: rest →
            let value := fun (j : Nat) => bytesToNat (b.sram.getN (fo + j * R + 4 * e) 4)
            let at_ := (ta + c.index i * R).toNat + 4 * e
            m.getN at_ 4 = natToBytes 4 (combine (bytesToNat (b.sram.getN at_ 4))
              (rest.foldl (fun v j => combine v (value j)) (value first)))) ∧
          ∀ j : Nat, (∀ i, vector i → j < ta + c.index i * R ∨ ta + c.index i * R + R ≤ j) → m.get j = b.sram.get j) ∧
      (∀ (fo : Nat) (ta : Int), c.st = .running → c.probed = true → c.part = 0 → c.buf = [] → c.opk = 2 →
        (c.mod.extractLsb' 12 3).toNat = 0 → 32 * c.prog < n → c.flat = bs + fo → c.table = bs + ta → fo + n * R ≤ b.size →
        (∀ i < n, 0 ≤ ta + c.index i * R ∧ ta + c.index i * R + R ≤ b.size ∧
          (ta + c.index i * R + R ≤ fo ∨ fo + n * R ≤ ta + c.index i * R)) →
        ∃ t m, exec (.gatherVector c.id) s = .next t ∧ sram t m ∧
          OpNow t c (if n ≤ 32 * (c.prog + 1) then n else c.prog + 1) (if n ≤ 32 * (c.prog + 1) then .finished 0 0 else .running) ∧
          (∀ i, 32 * c.prog ≤ i → i < n → i < 32 * (c.prog + 1) →
            (∀ j, i < j → j < n → j < 32 * (c.prog + 1) → c.index j ≠ c.index i) →
            m.getN (ta + c.index i * R).toNat R = b.sram.getN (fo + i * R) R) ∧
          ∀ j : Nat, (∀ i, 32 * c.prog ≤ i → i < n → i < 32 * (c.prog + 1) → j < ta + c.index i * R ∨ ta + c.index i * R + R ≤ j) →
            m.get j = b.sram.get j) ∧
      (c.st = .running → c.probed = true → c.opk = 8 → n ≤ t0 → s.outside.host.wf = true →
        let data := c.q.flatMap fun w => natToBytes 4 w.toNat
        let head := sha384 data ++ natToBytes 8 Config.devId.toNat ++ natToBytes 8 s.service.seq ++
          natToBytes 16 (s.service.measurement c.aux1).toNat
        let tag := (hmac384 Config.deviceKey (head ++ natToBytes 16 s.service.headTag.toNat)).take 16
        ∃ t p, exec (.cpsealRecordWrite c.id) s = .next t ∧ OpNow t c p (.finished 0 0) ∧
          Overwritten s.outside.host.get t.outside.host.get (c.o0.toNat + n) 96 (head ++ tag) ∧
          t.outside = { s.outside with host := t.outside.host } ∧ t.hbm = s.hbm ∧ t.l2 = s.l2 ∧ t.blocks = s.blocks ∧
          t.service = { s.service with seq := (s.service.seq + 1) % 2 ^ 64, headTag := BitVec.ofNat 128 (bytesToNat tag) })) ∧
  (∀ (s : State) (c : CopyOp) (w : Warp) (q : OutOp) (l : Launch) (code addr : Nat), c ∈ s.copyOps →
      (∀ d ∈ s.copyOps, d.id = c.id → d = c) → c.st = .finished code addr → c.opk < 16 → c.opk ≠ 5 → code < 256 →
      s.warp? c.core c.slot = some w → w.ops = [q] → q.id = c.id → q.cls = .cp → (∃ i, (w.lane i).status = .runnable) →
      s.launch? w.ctx = some l → l.run = .live → s.preempt = none →
      ∃ (t : State) (w' : Warp), exec (.copyOpRetire c.id) s = .next t ∧ (∀ d ∈ t.copyOps, d.id ≠ c.id) ∧ t.warp? c.core c.slot = some w' ∧
        w'.ops = [] ∧ (w'.cpstat.extractLsb' 28 4).toNat = c.opk ∧
        (w'.cpstat.extractLsb' 8 20).toNat = min c.prog (2 ^ 20 - 1) ∧ (w'.cpstat.extractLsb' 0 8).toNat = code ∧
        (c.opk ≠ 6 → c.opk ≠ 7 → c.mod.getLsbD 15 = true → code ≠ 0 →
          ∃ l', t.launch? w.ctx = some l' ∧ l'.run = .halted ∧ l'.dtrap.extractLsb' 16 8 = 0x12) ∧
        (c.mod.getLsbD 15 = false ∨ code = 0 → t.launches = s.launches))

/-- R220 to R229: a slice walked by `discard` loses, unwritten, exactly its lines of the tag not written after T (that a write
performed after the `discard` issued counts as later is the model's reading, assumption 58); an `rstrp` of no pages ends at once, and
one whose range or geometry fails its checks ends with their code and moves nothing; one whose pool has frames and return entries
enough takes them: HEAD passes its frames, the reservation rises by its pages, and its moves may begin (which return entries count
as taken is assumption 13); a line copied reads at its new home as it did; the shootdown writes frame and geometry into the PTE and
removes the page's TLB entries; the return entry waits for the old accesses, then frees one reservation. -/
def Obligations.PlacementOperationsDiscardAndMoveLines : Prop :=
  (∀ (s : State) (c : CopyOp) (slice : Nat), c ∈ s.copyOps → (∀ d ∈ s.copyOps, d.id = c.id → d = c) → c.opk = 7 →
    c.st = .running → slice ∈ c.slices →
    let hit := fun (k : L2Line) => sliceOf (k.line * 128) = slice ∧ k.tag = (c.mod.extractLsb' 0 8).toNat ∧
      ∀ w, k.wrote = some w → w ≤ c.aux0 ∧ k.order ≤ c.id
    ∃ t, exec (.discardSliceWalk c.id slice) s = .next t ∧ t = { s with l2 := t.l2, copyOps := t.copyOps } ∧
      (∀ k, k ∈ t.l2 ↔ k ∈ s.l2 ∧ ¬hit k) ∧
      ∃ c' ∈ t.copyOps, c'.id = c.id ∧ (∀ k, k ∈ c'.slices ↔ k ∈ c.slices ∧ k ≠ slice) ∧
        c'.aux1 + t.l2.length = c.aux1 + s.l2.length ∧
        ((∀ k ∈ c.slices, k = slice) → c'.st = .finished 0 0 ∧ c'.prog = c'.aux1)) ∧
  (∀ (s : State) (c : CopyOp), c ∈ s.copyOps → (∀ d ∈ s.copyOps, d.id = c.id → d = c) → c.opk = 6 → c.probed = false →
    c.st = .queued → s.engineRuns c.ctx = true →
    let ends := fun (code : Nat) => ∃ t, exec (.rstrpStart c.id) s = .next t ∧ OpNow t c 0 (.finished code 0) ∧
      t = { s with copyOps := t.copyOps }
    (c.o2 = 0 → ends 0) ∧
    (c.o2 ≠ 0 → s.rangeSize c = none → ends 0x02) ∧
    (c.o2 ≠ 0 → s.rangeSize c ≠ none →
      (64 ≤ (c.q.getD 0 0).toNat ∨ (geometry (s.geoEntry c.ctx (c.q.getD 0 0).toNat)).valid = false ∨
        (geometry (s.geoEntry c.ctx (c.q.getD 0 0).toNat)).pool = 0) → ends 0x03)) ∧
  (∀ (s : State) (c : CopyOp) (p : Nat) (pc : Piece), c ∈ s.copyOps → (∀ d ∈ s.copyOps, d.id = c.id → d = c) → c.opk = 6 →
    c.probed = false → c.st = .queued → s.engineRuns c.ctx = true → SlicesSound s →
    let n := c.o2.toNat
    let gi := (c.q.getD 0 0).toNat
    let pool := (geometry (s.geoEntry c.ctx gi)).pool
    let desc := c.mapSide s true [((pool : Int), 64)]
    let d := poolOf (s.engRead c.ctx desc.ok)
    let u := s.engTouch c.ctx desc.ok
    let range := fun (write : Bool) (a k : Nat) => c.mapSide u write [((a : Int), k)]
    let at_ := u.pieceTarget c.ctx pc
    0 < n → s.rangeSize c = some p → gi < 64 → (geometry (s.geoEntry c.ctx gi)).valid = true → pool ≠ 0 →
    desc.s = s → desc.faults = [] → desc.bad = none →
    (∀ m ∈ [range false d.list (8 * d.cap), range true d.rlist (16 * d.rcap), range true (pool + 0x14) 4],
      m.s = u ∧ m.faults = [] ∧ m.bad = none) →
    (range true (pool + 0x14) 4).ok = [pc] →
    ((∃ a, at_ = .line a ∧ a % 128 + 4 ≤ 128) ∨ ∃ x k i o b, at_ = .sram x k i o ∧ s.block? x k i = some b ∧ b.sram.wf = true) →
    d.valid = true → d.frame = p → s.rangeBusy c p = false →
    let key := u.poolKey c pool
    let out := s.rsvOf key + s.returnedOf key
    n ≤ (d.tail - d.head).toNat → (d.rtail - d.rhead).toNat + out + n ≤ d.rcap →
    ∃ t, exec (.rstrpStart c.id) s = .next t ∧
      { c with st := .running, probed := true, prog := 0, aux0 := d.head.toNat, slices := [p, pool],
               aux1 := (d.rtail + BitVec.ofNat 32 out).toNat } ∈ t.copyOps ∧
      t.rsvOf key = s.rsvOf key + n ∧ t.homeRead at_ 4 = natToBytes 4 (d.head + BitVec.ofNat 32 n).toNat ∧
      (∀ a, at_ = .line a → ∀ x, x < a ∨ a + 4 ≤ x → t.devByte x = s.devByte x) ∧
      t.moving = s.moving ∧ t.warps = s.warps ∧ t.tlbs = s.tlbs) ∧
  (∀ (s : State) (c : CopyOp) (m : Moving) (a b : Nat), c ∈ s.copyOps → (∀ d ∈ s.copyOps, d.id = c.id → d = c) →
    c.opk = 6 → c.probed = true → c.st = .running → s.engineRuns c.ctx = true →
    s.moving.find? (fun n => n.op == c.id) = some m → m.moved * 128 < m.size → m.place false (m.moved * 128) = some a →
    m.place true (m.moved * 128) = some b → a % 128 = 0 → b % 128 = 0 → SlicesSound s →
    ∃ t m', exec (.rstrpLineCopy c.id) s = .next t ∧ t.moving.find? (fun n => n.op == c.id) = some m' ∧
      m' = { m with moved := m.moved + 1 } ∧ (∀ j < 128, t.devByte (b + j) = s.devByte (a + j)) ∧
      t.blocks = s.blocks ∧ t.warps = s.warps) ∧
  (∀ (s : State) (m : Moving), m ∈ s.moving → (∀ n ∈ s.moving, n.op = m.op → n = m) → m.shot = false →
    m.size ≤ m.moved * 128 → s.engineRuns m.ctx = true → (∃ c ∈ s.copyOps, c.id = m.op) →
    (∀ c ∈ s.copyOps, c.id = m.op → c.ctx = m.ctx) → m.pteAt % 128 + 8 ≤ 128 → SlicesSound s →
    ∃ t, exec (.rstrpPageShootdown m.op) s = .next t ∧ { m with shot := true } ∈ t.moving ∧
      (let pte : DWord := BitVec.ofNat 64 (bytesToNat (t.devRead m.pteAt 8))
       let old : DWord := BitVec.ofNat 64 (bytesToNat (s.devRead m.pteAt 8))
       pte.extractLsb' 8 23 = m.new_.extractLsb' 8 23 ∧ pte.extractLsb' 48 6 = m.new_.extractLsb' 48 6 ∧
         pte.extractLsb' 0 8 = old.extractLsb' 0 8 ∧ pte.extractLsb' 31 17 = old.extractLsb' 31 17 ∧
         pte.extractLsb' 54 10 = old.extractLsb' 54 10) ∧
      (∀ e ∈ t.tlbs, ¬(e.ctx = m.ctx ∧ e.va < m.va + m.size ∧ m.va < e.va + e.size)) ∧ t.warps = s.warps) ∧
  (∀ (s : State) (c : CopyOp) (m : Moving) (bs : List Byte), c ∈ s.copyOps → (∀ d ∈ s.copyOps, d.id = c.id → d = c) →
    c.st = .running → s.engineRuns c.ctx = true → m ∈ s.moving → (∀ n ∈ s.moving, n.op = c.id → n = m) → m.op = c.id →
    m.shot = true →
    (s.oldAccess m = true → exec (.rstrpReturnEntry c.id) s = .next s) ∧
    (let pool := c.slices.getD 1 0
     let va : Nat := (poolOf bs).rlist + 16 * ((c.aux1 + c.prog) % 2 ^ 32 % (poolOf bs).rcap)
     let w := c.mapSide s true [((va : Int), 16)]
     let v := c.mapSide s true [(((pool + 0x24 : Nat) : Int), 4)]
     s.oldAccess m = false → c.readAt s pool 64 = (s, some bs) → w.s = s → w.faults = [] → w.bad = none → v.s = s →
     v.faults = [] → v.bad = none →
     ∃ t, exec (.rstrpReturnEntry c.id) s = .next t ∧ (∀ n ∈ t.moving, n.op ≠ c.id) ∧
       t.rsvOf (s.poolKey c pool) = s.rsvOf (s.poolKey c pool) - 1 ∧
       (if c.o2.toNat ≤ c.prog + 1 then OpNow t c c.o2.toNat (.finished 0 0) else OpNow t c (c.prog + 1) .running)))

/-! ### The sorter -/

/-- R272, R345, R348 to R350, R361: without an executing lane a sorter instruction moves on; with no acquire outstanding, outside a reorder-enabled launch and in a
handler thread it traps illegal-instruction; `sortw` traps a lane enrolled at a convergence barrier or pending at a named one, and
else, once its holds end, offers its run: its lanes wait for the sorter, each with its key and payload; `sortq` asks; `sortd` marks
baskets for drain; `sortc` sets or clears the withdrawn flag. That the keys are those
read as the run is offered (assumption 50), and that a sortw waits for its thread's arrival packet (assumption 86), are the model's. -/
def Obligations.SorterInstructionsOfferRunsAskAndMark : Prop :=
  ∀ (s : State) (g : Guard) (o : ROps) (x : Iss), NoneHeld x → (∀ i ∈ x.ex, s.acquiring (x.w.lane i).uid = false) →
    let n := (o.mod.extractLsb' 0 4).toNat
    let domainIs := fun (t : State) (e : Domain) =>
      ∃ c', t.cluster? x.w.ctx x.w.cluster = some c' ∧ c'.domain = some e
    let asked := fun (i : Instr) (asks : List (Nat × Option Nat)) =>
      ∃ (t : State) (w : Warp), exec i s = .next t ∧ t = { s with warps := t.warps } ∧ t.warp? x.w.core x.w.slot = some w ∧
        w = { x.w with hold := w.hold } ∧ w.holdAt x.pc = some (.sortq (maskOf x.act) o.d asks)
    (∀ (i : Instr) (uses : List RegUse),
      (i, uses) ∈ [(Instr.sortw g o, [(o.a, 1), (o.c, n)]), (.sortqKey g o, [(o.d, 1), (o.a, 1)]), (.sortqAll g o, [(o.d, 1)]),
        (.sortd g o, []), (.sortdKey g o, [(o.a, 1)]), (.sortc g o, []), (.sortcJoin g o, [])] →
      i.wf = true → (n = 0 ∨ ∃ q, o.c = .v q ∧ q.toNat + n ≤ x.l.nreg) → CanIssue s g x uses →
      (x.ex = [] → ∃ t, exec i s = .next t ∧ MovesOn s t x) ∧
      (x.ex ≠ [] → x.l.reorder = false ∨ x.w.kind = .handler → exec i s = .next (x.trap 0x01))) ∧
    (x.ex ≠ [] → x.l.reorder = true → x.w.kind ≠ .handler →
      ((Instr.sortw g o).wf = true → (n = 0 ∨ ∃ q, o.c = .v q ∧ q.toNat + n ≤ x.l.nreg) → CanIssue s g x [(o.a, 1), (o.c, n)] →
        (∀ pre i post code, x.ex = pre ++ i :: post → (∀ j ∈ pre, x.sortStop j = none) → x.sortStop i = some code →
          exec (.sortw g o) s = .next (x.trapLane code i 0) ∧
          (code = 0x0E ↔ ∃ m ∈ x.w.cb, m.1.getLsbD i = true)) ∧
        ((∀ i ∈ x.ex, x.sortStop i = none) → x.w.count .ld = 0 → x.w.count .cp = 0 → x.w.count .mx = 0 →
          (∀ i ∈ x.ex, s.cbarInFlight x.w.ctx x.w.cluster (x.w.lane i).bid (x.w.lane i).tid = false) → x.fenced 1 = true →
          ∃ (t : State) (w : Warp), exec (.sortw g o) s = .next t ∧ t = { s with warps := t.warps } ∧ t.warp? x.w.core x.w.slot = some w ∧
            Turned x.w w ∧ w.hold = x.w.hold ++ [(x.pc, .sorter s.cycle (maskOf x.act) (maskOf x.ex) n (payloadBase o.c)
              (x.ex.map fun i => (i, x.read i o.a 1 % 4096)))] ∧
            ∀ i, w.lane i = if i ∈ x.act then { x.w.lane i with status := .waiting .sorter } else x.w.lane i)) ∧
      ((Instr.sortqKey g o).wf = true → CanIssue s g x [(o.d, 1), (o.a, 1)] →
        asked (.sortqKey g o) (x.ex.map fun i => (i, some (x.read i o.a 1 % 4096)))) ∧
      ((Instr.sortqAll g o).wf = true → CanIssue s g x [(o.d, 1)] → asked (.sortqAll g o) (x.ex.map fun i => (i, none))) ∧
      (∀ d, x.c.domain = some d → (Instr.sortd g o).wf = true → CanIssue s g x [] →
        ∃ t e u, exec (.sortd g o) s = .next t ∧ MovesOn s u x ∧ t = { u with clusters := t.clusters } ∧ domainIs t e ∧
          e = { d with marks := e.marks } ∧
          ∀ b ∈ d.threads, (e.mark? b.stage b.lane.key.toNat).isSome = true) ∧
      (∀ d, x.c.domain = some d → (Instr.sortdKey g o).wf = true → CanIssue s g x [(o.a, 1)] →
        let key := x.read (x.ex.headD 0) o.a 1 % 4096
        ∃ t e u, exec (.sortdKey g o) s = .next t ∧ MovesOn s u x ∧ t = { u with clusters := t.clusters } ∧ domainIs t e ∧
          e = { d with marks := e.marks } ∧ ((e.mark? x.w.stage key).isSome = true ↔
            ((d.mark? x.w.stage key).isSome = true ∨ d.basket x.w.stage key ≠ []))) ∧
      (∀ (i : Instr) (b : Bool), (i, b) ∈ [(Instr.sortc g o, true), (.sortcJoin g o, false)] → i.wf = true → CanIssue s g x [] →
        ∃ (t : State) (w : Warp), exec i s = .next t ∧ OnlyWarp s t x w ∧ Turned x.w w ∧
          Advances x w fun _ l => { l with withdrawn := b }))

/-- A thread whose fields lie in the ranges of Table 3, as it is spilled. -/
structure Sys2Proof.Claims.InTransit (b : Basketed) (nreg : Nat) : Prop where
  times : b.lane.vis < 2 ^ 64 ∧ b.lane.dgt < 2 ^ 64
  counts : b.lane.mc < 2 ^ 16 ∧ b.lane.pw < 2 ^ 16
  place : b.lane.tid < 1024 ∧ b.lane.bid < 2 ^ 16 ∧ b.stage < 4
  preds : b.lane.p.getLsbD 0 = false
  payload : b.n ≤ 12 ∧ b.q + b.n ≤ nreg ∧ (b.n = 0 → b.q = 0)
  regs : b.lane.v.length = nreg ∧ ∀ j, (j < b.q ∨ b.q + b.n ≤ j) → b.lane.v.getD j 0 = 0
  base : b.q < 256
  frames : b.lane.frames.length ≤ 4 ∧ b.lane.rsnap.length ≤ 4
  near : ∀ f ∈ b.lane.frames ++ b.lane.rsnap, -(2 ^ 31) ≤ (f.fin - f.start).toInt ∧ (f.fin - f.start).toInt < 2 ^ 31

/-- A warp of the sorter formed of the threads `e`, in order, which leave the domain. -/
def Sys2Proof.Claims.Emits (s t : State) (c : Cluster) (d : Domain) (stage core slot : Nat) (e : List Basketed) : Prop :=
  ∃ (w : Warp) (c' : Cluster) (d' : Domain), t.warps = s.warps ++ [w] ∧ w.core = core ∧ w.slot = slot ∧ w.ctx = c.ctx ∧ w.cluster = c.idx ∧ w.kind = .sorter ∧
    w.stage = stage ∧ w.lanes.length = 32 ∧
    (∀ i b, e[i]? = some b → w.lane i =
      { (b.lane.arrive b.lane.pc) with lastIssue := s.cycle, dgt := if b.left = core then b.settle else b.lane.dgt }) ∧
    (∀ i, e.length ≤ i → (w.lane i).status = .exited) ∧
    t.cluster? c.ctx c.idx = some c' ∧ c'.domain = some d' ∧ d'.threads = d.threads.filter (fun b => !e.contains b) ∧
    d'.progress = s.cycle ∧ t.hbm = s.hbm ∧ t.blocks = s.blocks

/-- R344, R347, R352 to R361: an accepted run joins the sorter in arrival order with its keys, PC and payload, its lanes departed; a full basket, or a
drained stage, emits up to 32 threads in order as one warp, with everything they brought, each arriving at its recorded PC (the model's reading,
assumption 74); a spilled thread reads back as it was,
and a record outside its ranges takes engine-error; a basket whose oldest thread reaches the age drains; `sortq` is answered with
counts; a domain stuck for the period takes basket-exhaustion. -/
def Obligations.SorterKeepsOrdersAndEmitsItsThreads : Prop :=
  (∀ (s : State) (w : Warp) (l : Launch) (c : Cluster) (d : Domain) (pc : VAddr) (since n q : Nat) (act ex : Mask)
    (keys : List (Nat × Nat)), s.warp? w.core w.slot = some w → s.launch? w.ctx = some l →
    s.cluster? w.ctx w.cluster = some c → c.domain = some d → s.engineRuns w.ctx = true →
    (∃ pre post, w.hold = pre ++ (pc, .sorter since act ex n q keys) :: post ∧ ∀ h ∈ pre, h.2.isSorter = false) →
    d.inSram + (keys.map fun k => recordCount (w.lane k.1) n).sum ≤ d.quota →
    ∃ t c' d' new, exec (.sorterRunAccept w.core w.slot) s = .next t ∧ t.cluster? w.ctx w.cluster = some c' ∧
      c'.domain = some d' ∧ d'.threads = d.threads ++ new ∧ d'.progress = s.cycle ∧
      new.length = keys.length ∧ (∀ (j : Nat) (b : Basketed) (k : Nat × Nat), new[j]? = some b → keys[j]? = some k →
        b.place = .sram ∧ b.arr = d.nextArr + BitVec.ofNat 32 j ∧ b.stage = w.stage ∧ b.n = n ∧ b.lane.pc = nextPc pc ∧
        b.lane.key = BitVec.ofNat 12 k.2 ∧ b.lane.p = (w.lane k.1).p ∧ b.lane.frames = (w.lane k.1).frames ∧
        b.lane.vis = (w.lane k.1).vis ∧ b.lane.uid = (w.lane k.1).uid ∧ b.lane.status = .runnable ∧
        ((w.lane k.1).v.length = l.nreg → q + n ≤ l.nreg → ∀ r < l.nreg, b.lane.v.getD r 0 =
          if q ≤ r ∧ r < q + n then (w.lane k.1).v.getD r 0 else 0)) ∧
      (∀ w', t.warp? w.core w.slot = some w' → ∀ i < w.lanes.length, ex.getLsbD i = true →
        (w'.lane i).status = .departed)) ∧
  (∀ (s : State) (c : Cluster) (l : Launch) (d : Domain) (stage key core slot : Nat), s.launch? c.ctx = some l →
    s.cluster? c.ctx c.idx = some c → c.domain = some d → s.engineRuns c.ctx = true → s.emitCore c l = some core →
    (s.quadFree core (s.bestQuad core)).head? = some slot →
    (d.mark? stage key = none → 32 ≤ (d.basket stage key).length → d.first ((d.basket stage key).take 32) = true →
      (∀ b ∈ (d.basket stage key).take 32, b.place = .sram) →
      ∃ t, exec (.basketEmit c.ctx c.idx stage key) s = .next t ∧
        Emits s t c d stage core slot ((d.basket stage key).take 32)) ∧
    (d.first ((d.drainSeq stage).take 32) = true → (∀ b ∈ (d.drainSeq stage).take 32, b.place = .sram) →
      ∃ t, exec (.drainEmission c.ctx c.idx stage) s = .next t ∧ Emits s t c d stage core slot ((d.drainSeq stage).take 32))) ∧
  (∀ (s : State) (c : Cluster) (l : Launch) (d : Domain) (b : Basketed) (u r : Nat), s.launch? c.ctx = some l →
    s.cluster? c.ctx c.idx = some c → c.domain = some d → b.place = .spill u r →
    d.threads.find? (fun e => e.arr.toNat == b.arr.toNat && e.place != .sram && !e.readBack) = some b →
    let off := l.spill + 4096 * u + 64 * r
    let bytes := s.tsGet off (64 * b.records)
    let f := fun (o n : Nat) => bytesToNat ((bytes.drop o).take n)
    let depths := f 0x32 1
    let outside := 2 ^ 57 ≤ f 0x00 8 ∨ 2 ^ 57 ≤ f 0x08 8 ∨ 4096 ≤ f 0x28 2 ∨ 1024 ≤ f 0x2A 2 ∨ f 0x2E 1 % 2 = 1 ∨ 8 ≤ f 0x2F 1 ∨ 12 < f 0x30 1 ∨
      (f 0x30 1 = 0 ∧ f 0x31 1 ≠ 0) ∨ l.nreg < f 0x31 1 + f 0x30 1 ∨ 4 < depths % 8 ∨ 4 < depths / 8 ∨ f 0x38 8 ≠ 0 ∨
      f 0x33 1 ≠ 1 + (if depths % 8 = 0 then 0 else 1) + (if depths / 8 = 0 then 0 else 1) + (if f 0x30 1 = 0 then 0 else 1)
    (bytes = b.bytes → InTransit b l.nreg →
      ∃ (t : State) (c' : Cluster) (d' : Domain), exec (.spillReadback c.ctx c.idx b.arr.toNat) s = .next t ∧ t = { s with clusters := t.clusters } ∧
        t.cluster? c.ctx c.idx = some c' ∧ c'.domain = some d' ∧
        d' = { d with threads := d.threads.map fun e => if e = b then { b with readBack := true } else e }) ∧
    (outside → l.run = .live → s.preempt = none →
      ∃ (t : State) (l' : Launch), exec (.spillReadback c.ctx c.idx b.arr.toNat) s = .next t ∧ t.launch? c.ctx = some l' ∧ l'.run = .halted ∧
        l'.dtrap.extractLsb' 16 8 = 0x12)) ∧
  (∀ (s : State) (c : Cluster) (d : Domain) (stage key : Nat) (b : Basketed) (rest : List Basketed),
    s.cluster? c.ctx c.idx = some c → c.domain = some d → d.basket stage key = b :: rest → s.sys.bage.toNat % 65536 ≠ 0 →
    b.came + max 64 (s.sys.bage.toNat % 65536) ≤ s.cycle →
    ∃ (t : State) (c' : Cluster) (d' : Domain), exec (.basketAgeExpiry c.ctx c.idx stage key) s = .next t ∧ t = { s with clusters := t.clusters } ∧
      t.cluster? c.ctx c.idx = some c' ∧ c'.domain = some d' ∧ d'.threads = d.threads ∧
      (d'.mark? stage key).isSome = true) ∧
  (∀ (s : State) (x : Iss) (dest : Sel) (ex : List Nat) (k : Nat → Option Nat) (c : Cluster) (d : Domain),
    s.standing x.w.core x.w.slot = some x → s.cluster? x.w.ctx x.w.cluster = some c → c.domain = some d →
    ex = (List.range 32).filter (fun i => ex.contains i) → (∀ i ∈ ex, i ∈ x.act) →
    x.w.holdAt x.pc = some (.sortq (maskOf x.act) dest (ex.map fun i => (i, k i))) →
    ∃ t, exec (.sortqReply x.w.core x.w.slot) s = .next t ∧
      WritesD s t { x with ex := ex } dest 1 (fun i => match k i with
        | some key => (d.threads.filter fun b => b.stage == x.w.stage && b.lane.key.toNat == key).length
        | none => d.threads.length) x.w.fstat) ∧
  (∀ (s : State) (c : Cluster) (l : Launch) (d : Domain) (w : Warp) (pc : VAddr) (since : Nat) (ex : Mask),
    s.launch? c.ctx = some l → s.cluster? c.ctx c.idx = some c → c.domain = some d →
    (d.emissions = [] ∨ s.emitCore c l = none) → s.engineRuns c.ctx = true →
    longestHeld (s.heldRuns c.ctx c.idx) = some (w, pc, since, ex) →
    d.progress + (if s.sys.bage.toNat % 65536 = 0 then 2048 else max 64 (s.sys.bage.toNat % 65536)) ≤ s.cycle →
    exec (.domainStuck c.ctx c.idx) s =
      .next (s.takeTrap (s.record c.ctx 3 0 0x0F w.core w.slot ((lanesOf ex).headD 0) pc.toNat 0 ex)))

/-! ### Launches -/

/-- R18, R21, R384 to R388, R391, R393, R396, R397: `launch` appends its record, a zero STATUS in it, and answers the record's
number or why not, and traps at a misaligned address; the driver publishes records; LAUNCH_ACCEPT rejects a head with its code or
enters the best one in the lowest free entry; a placed cluster has all its blocks, zeroed, and all their warps, at the entry. What
`launch` answers for a queue whose QSIZE is 0, and for a ring that R465 keeps the part from, is the model's choice (assumption 56). -/
def Obligations.LaunchesAreAppendedAcceptedAndPlaced : Prop :=
  (∀ (s : State) (g : Guard) (o : ROps) (x : Iss), (Instr.launch g o).wf = true →
    CanIssue s g x ([(o.d, 1), (o.a, 2)] ++ o.b.use 1) → x.w.hold = [] →
    (x.ex = [] → ∃ t, exec (.launch g o) s = .next t ∧ MovesOn s t x) ∧
    (∀ j, x.ex.find? (fun i => decide (x.read i o.a 2 % 256 ≠ 0)) = some j →
      exec (.launch g o) s = .next (x.trapLane 0x07 j (x.read j o.a 2 % 2 ^ 57))) ∧
    (∀ (i off : Nat) (bl : Block), x.ex = [i] → x.fenceOk 2 i = true → x.w.kind ≠ .handler →
      s.block? x.w.ctx x.w.cluster (x.w.lane i).bid = some bl → bl.size ≤ 0x80000 →
      x.read i o.a 2 = fieldAt (s.bank x.w.ctx).bsbase 56 19 + off → off % 256 = 0 → off + 256 ≤ bl.size →
      let q := x.readB i o.b 1
      let r := s.queueRegs q
      let bs := bl.sram.getN off 256
      let code : Option Nat :=
        if 64 ≤ q then some 0x80000003
        else if r.ctl.getLsbD 0 = false ∨ r.ctl.getLsbD 1 = false then some 0x80000002
        else if (bs.getD 0x32 0).getLsbD 3 = true ∧ x.l.super = false then some 0x80000004
        else if (r.wr - r.rd).toNat = 2 ^ (r.size.toNat % 16) then some 0x80000001 else none
      let v : State := if code = none then s.tsPut (r.at r.wr.toNat) (overlayAt bs 0x44 [0, 0, 0, 0]) else s
      ∃ t u, exec (.launch g o) s = .next t ∧ WritesD s u x o.d 1 (fun _ => code.getD (r.wr.toNat % 2 ^ 31)) x.w.fstat ∧
        t = { u with hbm := v.hbm, l2 := v.l2, poison := v.poison, sys := t.sys } ∧
        t.sys = { s.sys with queues := t.sys.queues } ∧
        (∀ k, k < s.sys.queues.length → t.queueRegs k =
          if k = q ∧ code = none then { r with wr := r.wr + 1 } else s.queueRegs k))) ∧
  (∀ (s : State) (q : Nat) (w : Word), q < s.sys.queues.length →
    ∃ t, exec (.hostQueuePublish q w) s = .next t ∧ t = { s with sys := { s.sys with queues := t.sys.queues } } ∧
      ∀ k, t.queueRegs k = if k = q then { s.queueRegs q with wr := w } else s.queueRegs k) ∧
  (∀ (s : State) (ctx : Nat), s.freeEntry = some ctx → s.service.recovery = false → s.sys.queues.length = 64 →
    s.gens.length = 64 →
    (∀ (h : Head) (code : Nat), (s.heads ctx).find? Head.failed = some h → h.out.2 = .inl code →
      ∃ t, exec .launchAccept s = .next t ∧ t.launches = s.launches ∧ t.gens = s.gens ∧
        (t.queueRegs h.q).rd = (s.queueRegs h.q).rd + 1 ∧
        t.hbm = (h.out.1.tsWrite ((s.queueRegs h.q).at (s.queueRegs h.q).rd.toNat + 0x44) (natToBytes 4 code)).hbm) ∧
    (∀ (h : Head) (ht : List Nat) (wt : List (Nat × Nat)), (s.heads ctx).find? Head.failed = none →
      bestHead (s.heads ctx) = some h → h.out.2 = .inr (ht, wt) →
      ∃ (t : State) (l : Launch), exec .launchAccept s = .next t ∧ t.launches = s.launches ++ [l] ∧ l.ctx = ctx ∧ ctx < 64 ∧
        (∀ k ∈ s.launches, k.ctx ≠ ctx) ∧ l.gen = (s.gens.getD ctx 0 + 1) % 1024 ∧ l.rec_ = h.l.rec_ ∧ l.htab = ht ∧
        l.wtab = wt ∧ l.run = .live ∧ l.placed = [] ∧ (t.queueRegs h.q).rd = (s.queueRegs h.q).rd + 1 ∧
        t.lastQueue = h.q ∧ t.warps = s.warps)) ∧
  (∀ s : State, s.freeEntry = none → exec .launchAccept s = .next s) ∧
  (∀ (s : State) (l : Launch) (idx : Nat) (o : Nat × Nat × Nat), s.launch? l.ctx = some l →
    (∀ k ∈ s.launches, k.before l = true → s.plan k = none) → s.plan l = some (.place idx o) → 0 < l.cw → 0 < l.bpc →
    ∃ (t : State) (c : Cluster) (blocks : List Block) (new : List Warp) (l' : Launch),
      exec (.clusterPlace l.ctx) s = .next t ∧ t.clusters = s.clusters ++ [c] ∧ c.ctx = l.ctx ∧ c.idx = idx ∧
      (c.die, c.oy, c.ox) = o ∧ t.blocks = s.blocks ++ blocks ∧ blocks.length = l.cw * l.ch * l.bpc ∧
      (∀ (k : Nat) (b : Block), blocks[k]? = some b → b.bid = k ∧ b.ctx = l.ctx ∧ b.cluster = idx ∧ b.home = c.home l k ∧
        b.sram = [] ∧ b.press = [] ∧ b.tstat = 0 ∧ b.exited = [] ∧ b.threads = l.nx * l.ny * l.nz ∧
        (∀ p ∈ b.binds, p = 0) ∧ (∀ r ∈ b.rings, r = 0) ∧ ∀ p ∈ b.tiles, ∀ r ∈ p.rows, ∀ e ∈ r, e = 0) ∧
      t.warps = s.warps ++ new ∧ new.length = l.cw * l.ch * l.bpc * ((l.nx * l.ny * l.nz + 31) / 32) ∧
      (∀ w ∈ new, w.ctx = l.ctx ∧ w.cluster = idx ∧ w.kind = .block ∧ w.fstat = 0 ∧ w.cpstat = 0 ∧ w.ops = [] ∧
        (∀ r ∈ w.k, r = 0) ∧ ∃ bid < l.cw * l.ch * l.bpc, w.core = c.home l bid ∧ ∀ i < 32,
          if 32 * w.wid + i < l.nx * l.ny * l.nz then
            (w.lane i).status = .runnable ∧ (w.lane i).pc = l.entry ∧ (w.lane i).bid = bid ∧ (w.lane i).tid = 32 * w.wid + i ∧
              (w.lane i).v = List.replicate l.nreg 0 ∧ (w.lane i).frames = []
          else (w.lane i).status = .exited) ∧
      t.launch? l.ctx = some l' ∧ l' = { l with placed := l.placed ++ [idx] })

/-- The launch ends: `v` with CTX and GEN stands as STATUS in its record, and of the device memory that `u` has nothing else changes;
where the record asks for it the host is interrupted (R388). -/
def Sys2Proof.Claims.Final (u t : State) (l : Launch) (v : Nat) : Prop :=
  t.launch? l.ctx = none ∧ (l.irq = true → 1 ∈ t.outside.irqs) ∧
  match l.statusAt with
  | some o => ∀ a, t.devByte a = (u.tsPut o (natToBytes 4 (v + 256 * l.ctx + 65536 * l.gen))).devByte a
  | none => ∀ a, t.devByte a = u.devByte a

/-- All that a context has, but for operations that outlived a launch of its number, is of clusters placed. -/
structure Sys2Proof.Claims.AllPlaced (s : State) (ctx : Nat) : Prop where
  warps : ∀ v ∈ s.warps, v.ctx = ctx → ∃ c ∈ s.clusters, c.ctx = v.ctx ∧ c.idx = v.cluster
  blocks : ∀ b ∈ s.blocks, b.ctx = ctx → ∃ c ∈ s.clusters, c.ctx = b.ctx ∧ c.idx = b.cluster
  entries : ∀ e ∈ s.g5, e.ctx = ctx → ∃ c ∈ s.clusters, c.ctx = e.ctx ∧ c.idx = e.cluster
  messages : ∀ m ∈ s.msgs, m.ctx = ctx → ∃ c ∈ s.clusters, c.ctx = m.ctx ∧ c.idx = m.cluster
  packets : ∀ p ∈ s.packets, p.ctx = ctx → ∃ c ∈ s.clusters, c.ctx = p.ctx ∧ c.idx = p.cluster
  logged : ∀ m ∈ s.mends, m.ctx = ctx → ∃ c ∈ s.clusters, c.ctx = m.ctx ∧ c.idx = m.cluster
  copies : ∀ d ∈ s.copyOps, d.ctx = ctx → d.cluster < goneCluster → ∃ c ∈ s.clusters, c.ctx = d.ctx ∧ c.idx = d.cluster

/-- Every write of the cluster has come back, its log entries included, and the GT of its origin core has passed the largest VIS of
its threads (R388, R394). -/
def Sys2Proof.Claims.WritesSeen (s : State) (c : Cluster) : Prop :=
  s.clusterVis c < s.gtOf (coreAt c.die c.oy c.ox) ∧ (∀ m ∈ s.mends, ¬(m.ctx = c.ctx ∧ m.cluster = c.idx)) ∧
    ∀ r ∈ s.reqs, r.ctx = c.ctx → r.cluster = c.idx → r.kind = .store ∨ r.kind = .atom ∨ r.kind = .red → r.backW = true

/-- R225, R338, R380, R381, R387, R388, R394, R395, R432: a block that is done releases what it held, and with the last block of its
launch go the launch's pins; a retired cluster releases its rectangle and, once its writes are visible to the device, sets its
completion bit and no other; the last one completes its launch, with STATUS 2; a kill, which leaves STATUS 0x90, leaves nothing of its
context but its writes to lines of the slices and an `rstrp` past its checks (that these go on, and under what mark, is the model's reading,
assumptions 37 and 63); a cluster reset discards its cluster, its messages and packets, and counts those that were partly injected (which
of those in flight they are is free, assumption 67). -/
def Obligations.RetirementKillAndResetReleaseWhatTheyName : Prop :=
  (∀ (s : State) (ctx cl bid : Nat) (b : Block), s.block? ctx cl bid = some b →
    ∃ t, exec (.blockRetire ctx cl bid) s = .next t ∧ t = { s with blocks := t.blocks, pins := t.pins } ∧
      (s.retires b = true → ∀ l, s.launch? ctx = some l →
        let last := l.gx * l.gy ≤ l.placed.length ∧ l.toRestore = [] ∧ ∀ d ∈ t.blocks, d.ctx ≠ ctx
        ∀ p, p ∈ t.pins ↔ p ∈ s.pins ∧ ¬(last ∧ p.ctx = ctx)) ∧
      (s.retires b = true → ∀ d, d ∈ t.blocks ↔ d ∈ s.blocks ∧ ¬(d.ctx = ctx ∧ d.cluster = cl ∧ d.bid = bid)) ∧
      (b.exited.length < b.threads → t = s)) ∧
  (∀ (s : State) (c : Cluster) (l : Launch), s.cluster? c.ctx c.idx = some c → s.launch? c.ctx = some l → c.retired = false →
    l.run = .live → (∀ b ∈ s.blocks, ¬(b.ctx = c.ctx ∧ b.cluster = c.idx)) →
    (∀ m ∈ s.msgs, ¬(m.ctx = c.ctx ∧ m.cluster = c.idx)) → s.handlerLive c.ctx c.idx = false →
    (l.cmap ≠ 0 ∨ ¬WritesSeen s c → ∃ t c', exec (.clusterRetire c.ctx c.idx) s = .next t ∧
      t = { s with clusters := t.clusters, packets := s.packets.filter fun p => !(p.ctx == c.ctx && p.cluster == c.idx) } ∧
      t.cluster? c.ctx c.idx = some c' ∧
      c' = { c with retired := true, domain := none, pinned := [], allow := [] }) ∧
    (l.cmap = 0 → WritesSeen s c → ∃ t, exec (.clusterRetire c.ctx c.idx) s = .next t ∧ t.cluster? c.ctx c.idx = none ∧
      (if l.gx * l.gy ≤ l.done.length + 1 then Final s t l (if l.broken then 0x90 else 2)
       else t.hbm = s.hbm ∧ t.l2 = s.l2 ∧ ∃ l', t.launch? c.ctx = some l' ∧ l' = { l with done := l.done ++ [c.idx] }))) ∧
  (∀ (s : State) (c : Cluster) (l : Launch), s.cluster? c.ctx c.idx = some c → s.launch? c.ctx = some l → c.retired = true →
    l.run = .live → l.cmap = 0 →
    (¬WritesSeen s c → exec (.clusterRetire c.ctx c.idx) s = .next s) ∧
    (WritesSeen s c → l.gx * l.gy ≤ l.done.length + 1 →
      ∃ t, exec (.clusterRetire c.ctx c.idx) s = .next t ∧ Final s t l (if l.broken then 0x90 else 2))) ∧
  (∀ (s : State) (c : Cluster) (l : Launch) (m : Mapped) (d : Nat), s.cluster? c.ctx c.idx = some c →
    s.launch? c.ctx = some l → c.retired = true → l.run = .live → l.cmap ≠ 0 → l.mapFault = [] → SlicesSound s →
    (¬WritesSeen s c → exec (.cmapBitSet c.ctx c.idx) s = .next s) ∧
    (WritesSeen s c →
      s.engPlace (partWho c.origin c.ctx l.super) ⟨c.ctx, 0, 0, 0⟩ false (l.cmap + c.idx / 8) 1 true = .ok m →
      m.tgt = .line d → s.forward c.ctx (l.cmap + c.idx / 8) d = d →
      ∃ t u, exec (.cmapBitSet c.ctx c.idx) s = .next t ∧ t.cluster? c.ctx c.idx = none ∧
        (∀ a, u.devByte a = if a = d then s.devByte d ||| (1#8 <<< (c.idx % 8)) else s.devByte a) ∧
        (if l.gx * l.gy ≤ l.done.length + 1 then Final u t l (if l.broken then 0x90 else 2) else ∀ a, t.devByte a = u.devByte a))) ∧
  (∀ (s : State) (w : Word),
    (s.named w.toNat = none → exec (.kill w) s = .next { s with sys := { s.sys with kill := w &&& 0xFFFF } }) ∧
    (∀ l, s.named w.toNat = some l → (∀ k ∈ s.launches, k.ctx = l.ctx → k = l) → AllPlaced s l.ctx →
      ∃ t, exec (.kill w) s = .next t ∧
        (l.run ≠ .halted → Final s t l 0x90) ∧ (l.run = .halted → t.launch? l.ctx = none ∧ ∀ a, t.devByte a = s.devByte a) ∧
        (∀ e ∈ t.g5, e.ctx ≠ l.ctx) ∧ (∀ m ∈ t.msgs, m.ctx ≠ l.ctx) ∧ (∀ p ∈ t.packets, p.ctx ≠ l.ctx) ∧
        (∀ m ∈ t.mends, m.ctx ≠ l.ctx) ∧
        (∀ d ∈ t.copyOps, d.ctx = l.ctx → d ∈ s.copyOps ∨ d.opk = 6 ∧ d.probed = true ∧ d.cluster = goneCluster + l.gen) ∧
        (∀ c ∈ t.clusters, c.ctx ≠ l.ctx) ∧
        (∀ v ∈ t.warps, v.ctx ≠ l.ctx) ∧ (∀ b ∈ t.blocks, b.ctx ≠ l.ctx) ∧ (∀ p ∈ t.pins, p.ctx ≠ l.ctx) ∧
        (∀ v ∈ s.warps, v.ctx ≠ l.ctx → v ∈ t.warps) ∧ (∀ k ∈ s.launches, k.ctx ≠ l.ctx → k ∈ t.launches) ∧
        (∀ r ∈ s.reqs, r.survives = true → ∃ q ∈ t.reqs, q = { r with cluster := q.cluster }))) ∧
  (∀ (s : State) (w : DWord) (l : Launch) (c : Cluster), s.named w.toNat = some l → s.launch? l.ctx = some l →
    s.cluster? l.ctx (w.toNat / 2 ^ 32) = some c → c.retired = false →
    ∃ t, exec (.clusterReset w) s = .next t ∧ t.cluster? c.ctx c.idx = none ∧
      (∀ v ∈ t.warps, ¬(v.ctx = c.ctx ∧ v.cluster = c.idx)) ∧ (∀ b ∈ t.blocks, ¬(b.ctx = c.ctx ∧ b.cluster = c.idx)) ∧
      (∀ m ∈ t.msgs, ¬(m.ctx = c.ctx ∧ m.cluster = c.idx)) ∧
      (∀ p ∈ t.packets, ¬(p.ctx = c.ctx ∧ p.cluster = c.idx)) ∧
      (∃ n ≤ (s.msgs.filter fun m => m.ctx == c.ctx && m.cluster == c.idx && !m.arrived).length +
          (s.packets.filter fun p => p.ctx == c.ctx && p.cluster == c.idx).length,
        t.sys.msgdrop.toNat = min 0xFFFFFFFF (s.sys.msgdrop.toNat + n)) ∧
      (∀ v ∈ s.warps, ¬(v.ctx = c.ctx ∧ v.cluster = c.idx) →
        v.ctx ≠ c.ctx ∨ l.run ≠ .live ∨ l.done.length + 1 < l.gx * l.gy → v ∈ t.warps) ∧
      (l.run = .live → l.done.length + 1 < l.gx * l.gy → ∃ l', t.launch? l.ctx = some l' ∧ l'.broken = true))

/-! ### Pre-emption, the debug pages, the host and the peers -/

/-- R398 to R400, R403 to R406, R408: a soft request begins one, or a hard one where the launch, the deadline or the request says so,
and a request that names no live context, or whose area is unusable, ends at once with ERR; a hard request hardens the soft one it
names; engines acknowledge at their stop units; the deadline hardens; the save writes the image's bytes at PIMG where they fit the
area, ends with DONE and frees the context alone; a restore takes a new entry or ends with ERR. -/
def Obligations.PreemptionStopsSavesAndRestores : Prop :=
  let begins := fun (s t : State) (w : Word) (l : Launch) (op : Nat) (hard : Bool) =>
    t = { s with sys := { s.sys with prq := t.sys.prq }, preempt := t.preempt } ∧
      t.preempt = some { ctx := l.ctx, gen := l.gen, hard := hard, start := s.gt, saving := hard, acks := [] } ∧
      t.sys.prq.extractLsb' 0 16 = w.extractLsb' 0 16 ∧ (t.sys.prq.extractLsb' 18 2).toNat = op ∧
      t.sys.prq.extractLsb' 20 4 = if hard then 0b1010 else 0b1000
  let ended := fun (s t : State) => t.sys.prq.getLsbD 20 = true ∧ t.sys.prq.getLsbD 21 = s.sys.prq.getLsbD 21 ∧
    t.sys.prq.extractLsb' 22 2 = 0b01
  let fails := fun (s t : State) => t.preempt = none ∧ ended s t ∧ t.outside.irqs = s.outside.irqs ++ [2] ∧
    t.launches = s.launches ∧ t.warps = s.warps
  (∀ (s : State) (w : Word), s.sys.prq.getLsbD 23 = false →
    (s.named w.toNat = none ∨ s.imageArea = false →
      (∃ t, exec (.preemptSoft w) s = .next t ∧ fails s t) ∧ ∃ t, exec (.preemptHard w) s = .next t ∧ fails s t) ∧
    (∀ l, s.named w.toNat = some l → l.run = .halted →
      (∃ t, exec (.preemptSoft w) s = .next t ∧ fails s t) ∧ ∃ t, exec (.preemptHard w) s = .next t ∧ fails s t) ∧
    (∀ l, s.named w.toNat = some l → l.run = .live → s.imageArea = true →
      (∃ t, exec (.preemptSoft w) s = .next t ∧
        begins s t w l 1 (l.hardPre || decide (s.sys.pdeadline.toNat % 2 ^ 24 = 0))) ∧
      ∃ t, exec (.preemptHard w) s = .next t ∧ begins s t w l 2 true) ∧
    (s.freeEntry = none → ∃ t, exec (.restore w) s = .next t ∧ ended s t ∧ t.launches = s.launches) ∧
    (∀ ctx, s.freeEntry = some ctx →
      (s.imageArea = false → ∃ t, exec (.restore w) s = .next t ∧ ended s t ∧ t.launches = s.launches) ∧
      (s.service.recovery = false → s.imageArea = true → s.imageOk s.imageBase s.imageRoom = true →
        s.imgDirectory s.imageBase ≠ [] →
        ∃ (t : State) (l : Launch) (r : Restoring), exec (.restore w) s = .next t ∧ t.sys.prq.getLsbD 20 = false ∧
          t.sys.prq.getLsbD 21 = s.sys.prq.getLsbD 21 ∧ t.sys.prq.extractLsb' 22 2 = 0b10 ∧ t.launches = s.launches ++ [l] ∧
          l.ctx = ctx ∧ l.gen = (s.gens.getD ctx 0 + 1) % 1024 ∧ l.rec_ = s.tsRead (s.imageBase + 0x100) 256 ∧
          l.toRestore = s.imgDirectory s.imageBase ∧ t.restoring = some r ∧ r.ctx = ctx ∧ r.base = s.imageBase ∧
          t.warps = s.warps))) ∧
  (∀ (s : State) (w : Word) (p : Preempt), s.sys.prq.getLsbD 23 = true → s.preempt = some p →
    exec (.preemptSoft w) s = .next s ∧ exec (.restore w) s = .next s ∧
    (w.toNat % 64 = p.ctx → w.toNat / 64 % 1024 = p.gen → p.hard = false → ∃ t, exec (.preemptHard w) s = .next t ∧
      t.preempt = some { p with hard := true, saving := true } ∧ t.sys.prq.getLsbD 21 = true ∧ t.warps = s.warps)) ∧
  (∀ (s : State) (p : Preempt) (l : Launch) (e : Engine), s.preempt = some p → s.launch? p.ctx = some l → p.saving = true →
    e ∈ s.enginesOf l → e ∉ p.acks →
    let stops := match e with
      | .vector k => (∀ w ∈ s.warps, w.core = k → w.ctx = p.ctx → ∀ h ∈ w.hold, h.2.hasBegun = false) ∧
          ∀ r ∈ s.reqs, ¬(r.core = k ∧ r.ctx = p.ctx)
      | .matrix k => ∀ f ∈ s.queue k, f.ctx = p.ctx → (∀ a b, f.st ≠ .finished a b) ∧ (f.st = .running → f.opk = 0 →
          ∀ b, s.block? f.ctx f.cluster f.bid = some b → (b.tile f.ops.acc.toNat).prog ≠ 0)
      | .copy k => ∀ c ∈ s.copyOps, c.core = k → c.ctx = p.ctx → c.cluster < 2 ^ 32 → (∀ a b, c.st = .finished a b →
          let i := s.issuerOf c
          ∃ w, s.warp? i.1 i.2 = some w ∧ ∃ o ∈ w.ops, o.cls = .cp ∧ o.id < c.id ∧ o.left ≠ 0) ∧
          (c.st = .running → c.opk ≠ 7) ∧ ((∀ a b, c.st ≠ .finished a b) → c.part = 0)
      | .sorter _ => True
      | .messages k => (∀ q ∈ s.packets, ¬(q.core = k ∧ q.ctx = p.ctx)) ∧
          (∀ m ∈ s.msgs, ¬(m.core = k ∧ m.ctx = p.ctx ∧ m.arrived = false)) ∧
          ∀ w ∈ s.warps, w.core = k → w.ctx = p.ctx → ∀ h ∈ w.hold, h.2.hasBegun = false
    (stops → exec (.engineStopAck e) s = .next { s with preempt := some { p with acks := p.acks ++ [e] } }) ∧
    (¬stops → exec (.engineStopAck e) s = .next s)) ∧
  (∀ (s : State) (p : Preempt), s.preempt = some p → p.saving = false →
    (s.gt < p.start + 1000 * (s.sys.pdeadline.toNat % 2 ^ 24) → exec .pdeadlineExpiry s = .next s) ∧
    (p.start + 1000 * (s.sys.pdeadline.toNat % 2 ^ 24) ≤ s.gt → ∃ t, exec .pdeadlineExpiry s = .next t ∧
      t.preempt = some { p with hard := true, saving := true } ∧ t.sys.prq.getLsbD 21 = true ∧ t.warps = s.warps)) ∧
  (∀ (s : State) (p : Preempt) (l : Launch), s.preempt = some p → s.launch? p.ctx = some l → l.ctx = p.ctx → p.saving = true →
    ((∃ e ∈ s.enginesOf l, e ∉ p.acks) → exec .contextSave s = .next s) ∧
    ((∀ e ∈ s.enginesOf l, e ∈ p.acks) →
      let u := s.settleSave l
      let fits := u.imageArea = true ∧ (u.image p.hard l).length ≤ u.imageRoom ∧ u.allStowed l.ctx = true
      ∃ t, exec .contextSave s = .next t ∧ t.preempt = none ∧ t.launch? p.ctx = none ∧ (∀ c ∈ t.clusters, c.ctx ≠ p.ctx) ∧
        (∀ k ∈ s.launches, k.ctx ≠ p.ctx → k ∈ t.launches) ∧ 2 ∈ t.outside.irqs ∧ t.sys.prq.getLsbD 22 = true ∧
        t.sys.prq.getLsbD 23 = false ∧ t.sys.prq.getLsbD 21 = p.hard ∧
        (t.sys.prq.getLsbD 20 = true ↔ ¬fits) ∧
        (SlicesSound u → fits → (∀ o < (u.image p.hard l).length, (u.tsPlace (u.imageBase + o)).isSome = true) →
          t.tsRead s.imageBase (u.image p.hard l).length = u.image p.hard l)))

/-- R421, R422: DRES resumes the selected warp, or every warp at a breakpoint, with its lanes at their recorded PCs, a lane at an
invalid one trapping bad-target; the host writes a register or PC of a warp at a breakpoint through the window, and of no other. -/
def Obligations.DebugResumesAndWritesTheSelectedWarp : Prop :=
  (∀ (s : State) (w : Warp) (l : Launch), s.selected w.ctx = some w → s.warp? w.core w.slot = some w →
    s.launch? w.ctx = some l → l.run = .live →
    (w.brk = false → exec (.debugResumeWarp w.ctx) s = .next s) ∧
    (w.brk = true → (∀ i < 32, (w.lane i).status ≠ .exited → (w.lane i).status ≠ .departed → validPc (w.lane i).pc = true) →
      ∃ (t : State) (w' : Warp), exec (.debugResumeWarp w.ctx) s = .next t ∧ t.warp? w.core w.slot = some w' ∧ w'.brk = false ∧
        (∀ i < w.lanes.length, w'.lane i =
          { w.lane i with lastIssue := min s.cycle ((w.lane i).lastIssue + (s.cycle - w.brkAt)) }) ∧ t = { s with warps := t.warps }) ∧
    (∀ i, w.brk = true → s.preempt = none → (w.lane i).status = .runnable → (w.lane i).uid ≠ 0 → validPc (w.lane i).pc = false → i < 32 →
      (∀ j < i, (w.lane j).status = .exited) →
      ∃ (t : State) (l' : Launch), exec (.debugResumeWarp w.ctx) s = .next t ∧ t.launch? w.ctx = some l' ∧ l'.run = .halted ∧
        l'.dtrap.extractLsb' 16 8 = 0x03)) ∧
  (∀ (s : State) (ctx : Nat) (l : Launch), s.launch? ctx = some l → l.run = .live →
    (∀ v ∈ s.warps, s.warp? v.core v.slot = some v) →
    (∀ v ∈ s.warps, v.ctx = ctx → v.brk = true → ∀ i < 32, (v.lane i).status ≠ .exited → (v.lane i).status ≠ .departed →
      validPc (v.lane i).pc = true) →
    ∃ t, exec (.debugResumeAll ctx) s = .next t ∧ t = { s with warps := t.warps } ∧
      ∀ v ∈ s.warps, ∃ v', t.warp? v.core v.slot = some v' ∧
        if v.ctx = ctx ∧ v.brk = true then
          v'.brk = false ∧ ∀ i < v.lanes.length, v'.lane i =
            { v.lane i with lastIssue := min s.cycle ((v.lane i).lastIssue + (s.cycle - v.brkAt)) }
        else v' = v) ∧
  (∀ (s : State) (ctx : Nat) (w : Warp) (l : Launch) (i r : Nat) (v : Word), s.launch? ctx = some l → s.selected ctx = some w →
    s.warp? w.core w.slot = some w → i < w.lanes.length → i < 32 → r < (w.lane i).v.length → r < 256 →
    (w.lane i).status = .runnable → (w.lane i).uid ≠ 0 →
    let write := exec (.debugWindowWrite ctx (0x1200 + 0x500 * i + 0xC0 + 4 * r) (natToBytes 4 v.toNat)) s
    (w.brk = true → l.run = .live → ∃ (t : State) (w' : Warp), write = .next t ∧ t = { s with warps := t.warps } ∧
      t.warp? w.core w.slot = some w' ∧ (w'.lane i).v = (w.lane i).v.set r v ∧ ∀ j, j ≠ i → w'.lane j = w.lane j) ∧
    (w.brk = false ∨ l.run = .halted → write = .next s))

/-- R278, R414, R415, R423, R424: the host window reads and writes the bytes of host-owned pages alone, refusing others and counting
them; a peer's access is performed on device-owned pages of its window's context alone, else dropped and counted; a link that goes
down ends the copies through it; a flip begins for a page that may be flipped, waits, writes its owner and raises vector 3. -/
def Obligations.HostAndPeersReachOnlyTheirPages : Prop :=
  (∀ (s : State) (offset n : Nat) (data : List Byte), offset + n ≤ 2 ^ 36 → data.length = n →
    let r := s.reach (s.sys.hwinctx.toNat % 64) (s.sys.hwinbase.toNat + offset) n fun p => pteOwn p.pte
    let counted := if s.sys.hostviol = 0xFFFFFFFF then s.sys.hostviol else s.sys.hostviol + 1
    (r.2 = none →
      (∃ t, exec (.hostWindowRead offset n) s = .next t ∧ t.outside.reply = .unsupported ∧ t.sys.hostviol = counted ∧
        t.hbm = s.hbm ∧ t.l2 = s.l2) ∧
      ∃ t, exec (.hostWindowWrite offset data) s = .next t ∧ t.outside.reply = .dropped ∧ t.sys.hostviol = counted ∧
        t.hbm = s.hbm ∧ t.l2 = s.l2) ∧
    (∀ rs, r.2 = some rs →
      (∀ q ∈ rs, pteOwn q.page.pte = true ∧ s.pageSealed q.page q.va = false) ∧
      (∃ t, exec (.hostWindowRead offset n) s = .next t ∧ t.sys = { s.sys with pinover := t.sys.pinover } ∧
        (SlicesSound s → t.outside.reply = .data (rs.flatMap fun q => s.devRead q.dev q.n) ∧ ∀ a, t.devByte a = s.devByte a)) ∧
      (∃ t, exec (.hostWindowWrite offset data) s = .next t ∧ t.outside.reply = .done ∧ t.sys.hostviol = s.sys.hostviol ∧
        (∀ q, rs = [q] → q.n = n → q.dev % 128 + n ≤ 128 → SlicesSound s →
          ∀ a, t.devByte a = if q.dev ≤ a ∧ a < q.dev + n then data.getD (a - q.dev) 0 else s.devByte a)))) ∧
  (∀ (s : State) (port a n : Nat) (data : List Byte), s.outside.linkUp.getLsbD port = true → data.length = n →
    let counted := if s.sys.peerdrop = 0xFFFFFFFF then s.sys.peerdrop else s.sys.peerdrop + 1
    let w := s.inbound port a n true
    let r := s.inbound port a n false
    (w.2 = none → ∃ t, exec (.peerInboundWrite port a data) s = .next t ∧ t.outside.reply = .dropped ∧ t.hbm = s.hbm ∧
      t.l2 = s.l2 ∧ t.sys.peerdrop = counted) ∧
    (r.2 = none → ∃ t, exec (.peerInboundRead port a n) s = .next t ∧ t.outside.reply = .dropped ∧ t.hbm = s.hbm ∧
      t.sys.peerdrop = counted) ∧
    (∀ rs, w.2 = some rs → (∀ q ∈ rs, pteOwn q.page.pte = false ∧ pteWr q.page.pte = true ∧
        s.pageSealed q.page q.va = false) ∧
      ∃ t c, exec (.peerInboundWrite port a data) s = .next t ∧ t.outside.reply = .done ∧
        t.sys = { s.sys with pinover := t.sys.pinover } ∧ t.outside.acks = s.outside.acks ++ [(port, c)] ∧
        (∀ q, rs = [q] → q.n = n → q.dev % 128 + n ≤ 128 → SlicesSound s →
          ∀ b, t.devByte b = if q.dev ≤ b ∧ b < q.dev + n then data.getD (b - q.dev) 0 else s.devByte b)) ∧
    (∀ rs, r.2 = some rs → ∃ t, exec (.peerInboundRead port a n) s = .next t ∧ t.sys = { s.sys with pinover := t.sys.pinover } ∧
      (SlicesSound s → t.outside.reply = .data (rs.flatMap fun q => s.devRead q.dev q.n) ∧ ∀ a, t.devByte a = s.devByte a))) ∧
  (∀ (s : State) (port a : Nat) (c : CopyOp), port < 8 → s.copyOps = [c] → c.underWay = true → c.peerAt port = some a →
    ∃ t p, exec (.peerLinkDown port) s = .next t ∧ t.outside.linkUp.getLsbD port = false ∧
      (∀ q < 8, q ≠ port → t.outside.linkUp.getLsbD q = s.outside.linkUp.getLsbD q) ∧ OpNow t c p (.finished 0x47 a)) ∧
  (∀ (s : State) (w : Word) (l : Launch) (p : Page) (toDevice : Bool), s.sys.ownf1.getLsbD 18 = false →
    s.named w.toNat = some l → s.page l.ctx (fieldAt s.sys.ownf0 56 16) = some p →
    let i : Instr := if toDevice then .ownershipFlipToDevice w else .ownershipFlipToHost w
    let may := pteOk p.pte = true ∧ (pteWord p.pte).hc ≠ 3 ∧
      coveringWindow (fieldAt s.sys.ownf0 56 16) (s.bank l.ctx).heap = none ∧ pteOwn p.pte = toDevice
    (may → ∃ t, exec i s = .next t ∧ t.flipping = some (l.ctx, p.va, toDevice) ∧ t.sys.ownf1.extractLsb' 16 3 =
      (if toDevice then 0b101 else 0b100) ∧ t = { s with sys := { s.sys with ownf1 := t.sys.ownf1 }, flipping := t.flipping }) ∧
    (¬may → ∃ t, exec i s = .next t ∧ t.flipping = s.flipping ∧ t.sys.ownf1.extractLsb' 17 2 = 0b01)) ∧
  (∀ (s : State) (ctx va o : Nat) (toDevice : Bool) (p : Page), s.flipping = some (ctx, va, toDevice) →
    s.page ctx va = some p → s.leafOffset ctx va = some o →
    (s.flipReady ctx p toDevice = false → exec .ownershipFlipComplete s = .next s) ∧
    (s.flipReady ctx p toDevice = true → ∃ t, exec .ownershipFlipComplete s = .next t ∧ t.flipping = none ∧
      t.sys.ownf1.getLsbD 18 = false ∧ t.sys.ownf1.getLsbD 17 = false ∧ t.outside.irqs = s.outside.irqs ++ [3] ∧
      t.hbm = (s.tsWrite o (natToBytes 8 (if toDevice then p.pte &&& ~~~4#64 else p.pte ||| 4).toNat)).hbm ∧
      ∀ e ∈ t.tlbs, ¬(e.ctx = ctx ∧ e.va < p.va + p.size ∧ p.va < e.va + e.size)))

/-! ### The mailbox, errors, power and resets -/

/-- The mailbox holds a request whose header names this command and length, and the door its tag; the part is not in recovery. -/
structure Sys2Proof.Claims.Asks (s : State) (cmd len : Nat) : Prop where
  busy : s.sys.mbstat.getLsbD 0 = true
  cmd : bytesToNat (s.service.request.getN 0 4) = cmd
  len : bytesToNat (s.service.request.getN 4 4) = len
  tag : bytesToNat (s.service.request.getN 8 4) = s.sys.mbdoor.toNat
  normal : s.service.recovery = false

/-- The answer: DONE set and BUSY clear with the tag, vector 5 raised, and the response buffer begins with the status, the length of
the payload, the tag and the payload. -/
def Sys2Proof.Claims.Answers (s t : State) (status : Nat) (payload : List Byte) : Prop :=
  let bytes := natToBytes 4 status ++ natToBytes 4 payload.length ++ natToBytes 4 s.sys.mbdoor.toNat ++ natToBytes 4 0 ++ payload
  t.sys.mbstat.extractLsb' 0 2 = 0b10 ∧ t.sys.mbstat.extractLsb' 16 16 = s.sys.mbdoor.extractLsb' 0 16 ∧
    t.outside.irqs = s.outside.irqs ++ [5] ∧ t.service.response.getN 0 bytes.length = bytes ∧ t.warps = s.warps

/-- R425 to R430, R434: a request is answered by its command: a report with the nonce, the device's identity, the measurement of the
firmware, the slots and the chain head; the lowest free code slot; a slot freed; the chain head; an unsealed frame zeroed; black-box
records, oldest first, each with its time, kind and source; a stored image, or BADSIG. A wrong length is BADARG, and in recovery every
command but BBREAD and FWLOAD is refused. SHA-384 is the model's (assumption 20), and the kinds' codes are free (assumption 17). -/
def Obligations.MailboxAnswersEachCommand : Prop :=
  ∀ s : State, s.service.response.wf = true →
    let v := s.service
    let arg := fun (o n : Nat) => bytesToNat (v.request.getN (16 + o) n)
    (∀ (i : Instr) (cmd len : Nat), (i, cmd, len) ∈ [(Instr.attest, 1, 48), (.regcode, 2, 64), (.unregcode, 3, 4), (.signhead, 4, 0),
        (.unseal, 5, 16), (.bbread, 6, 8), (.fwload, 7, 16)] →
      (s.sys.mbstat.getLsbD 0 = false → exec i s = .next s) ∧
      (∀ n, n ≤ 32752 → n ≠ len → Asks s cmd n → ∃ t, exec i s = .next t ∧ Answers s t 2 [] ∧ t.service.slots = v.slots) ∧
      (s.sys.mbstat.getLsbD 0 = true → bytesToNat (v.request.getN 0 4) = cmd → cmd ≤ 5 → v.recovery = true →
        bytesToNat (v.request.getN 4 4) ≤ 32752 → bytesToNat (v.request.getN 8 4) = s.sys.mbdoor.toNat →
        ∃ t, exec i s = .next t ∧ Answers s t 7 [])) ∧
    (Asks s 1 48 → v.leaves < 2 ^ 15 → ∃ t report, exec .attest s = .next t ∧ Answers s t 0 report ∧
      report.take 0x38 = natToBytes 48 (arg 0 48) ++ natToBytes 8 Config.devId.toNat ∧
      (∀ k < 16, (report.drop (0x68 + 48 * k)).take 48 = natToBytes 48 (v.measurement k).toNat) ∧
      (v.firmware ≠ [] → (report.drop 0x38).take 48 = sha384 v.firmware) ∧
      (report.drop 0x368).take 8 = (if v.seq = 0 then List.replicate 8 0xFF else natToBytes 8 (v.seq - 1)) ∧
      (report.drop 0x370).take 16 = natToBytes 16 v.headTag.toNat ∧ report.length = 2756 ∧
      t.service.leaves = v.leaves + 1) ∧
    (Asks s 2 64 → arg 0 8 % 64 = 0 → arg 8 8 % 64 = 0 → 64 ≤ arg 8 8 → arg 8 8 ≤ 2 ^ 28 → arg 0 8 + arg 8 8 ≤ 2 ^ 57 →
      (∀ k, 1 ≤ k → k < 15 → (∀ c ∈ v.slots, c.slot ≠ k) → (∀ j, 1 ≤ j → j < k → ∃ c ∈ v.slots, c.slot = j) →
        ∃ t, exec .regcode s = .next t ∧ Answers s t 0 (natToBytes 4 k) ∧
          t.service.slots = v.slots ++ [{ slot := k, va := arg 0 8, len := arg 8 8, digest := BitVec.ofNat 384 (arg 16 48) }]) ∧
      ((∀ k, 1 ≤ k → k < 15 → ∃ c ∈ v.slots, c.slot = k) → ∃ t, exec .regcode s = .next t ∧ Answers s t 4 [])) ∧
    (Asks s 3 4 → ∃ t, exec .unregcode s = .next t ∧
      (if ∃ c ∈ v.slots, c.slot = arg 0 4 then Answers s t 0 [] ∧ ∀ c, c ∈ t.service.slots ↔ c ∈ v.slots ∧ c.slot ≠ arg 0 4
       else Answers s t 5 [] ∧ t.service.slots = v.slots)) ∧
    (Asks s 4 0 → (v.seq = 0 → ∃ t, exec .signhead s = .next t ∧ Answers s t 5 []) ∧
      (v.seq ≠ 0 → ∃ t bs, exec .signhead s = .next t ∧ Answers s t 0 bs ∧
        bs.take 24 = natToBytes 8 (v.seq - 1) ++ natToBytes 16 v.headTag.toNat)) ∧
    (∀ (l : Launch) (p : Page) (d : Nat), Asks s 5 16 → s.named (arg 0 1 % 64 + 64 * (arg 2 2 % 1024)) = some l →
      s.page l.ctx (arg 8 8) = some p → p.place p.va = some d →
      (∃ f ∈ s.sealedFrames, (geometry f.2.1).holds f.2.2 f.1 d = true) → (∀ k ∈ s.l2, k.data.length = 128) →
      ∃ t, exec .unseal s = .next t ∧ Answers s t 0 [] ∧
        (∀ f ∈ t.sealedFrames, (geometry f.2.1).holds f.2.2 f.1 d = false) ∧
        (∀ a, s.l2.any (fun k => k.line == a / 128) = false →
          let zeroed := (geometry p.geo).holds p.size (pteFrame p.pte) a = true ∨
            ∃ f ∈ s.sealedFrames, (geometry f.2.1).holds f.2.2 f.1 d = true ∧ (geometry f.2.1).holds f.2.2 f.1 a = true
          (zeroed → t.devByte a = 0) ∧ (¬zeroed → t.devByte a = s.devByte a))) ∧
    (∀ l : Launch, Asks s 5 16 → s.named (arg 0 1 % 64 + 64 * (arg 2 2 % 1024)) = some l →
      (s.page l.ctx (arg 8 8) = none ∨
        ∃ p, s.page l.ctx (arg 8 8) = some p ∧ p.place p.va = none ∧ (pteWord p.pte).hc ≠ 3) →
      ∃ t, exec .unseal s = .next t ∧ Answers s t 2 [] ∧ t.hbm = s.hbm ∧ t.l2 = s.l2) ∧
    (Asks s 6 8 → ∃ t bs, exec .bbread s = .next t ∧
      (if 1 ≤ arg 4 4 ∧ arg 4 4 ≤ 511 then Answers s t 0 bs ∧ bs.length = 64 * min (arg 4 4) (v.box.length - arg 0 4) ∧
         ∀ (k : Nat) (r : BoxRec), k < arg 4 4 → v.box[arg 0 4 + k]? = some r → (bs.drop (64 * k)).take 12 =
           natToBytes 8 r.gt ++ natToBytes 2 (Config.boxKind r.kind).toNat ++ natToBytes 2 r.source
       else Answers s t 2 [])) ∧
    (Asks s 7 16 → 1 ≤ arg 8 8 → arg 8 8 ≤ 2 ^ 26 → s.hostOk (arg 0 8) (arg 8 8) = true →
      let img := s.outside.host.getN (arg 0 8) (arg 8 8)
      ∃ t, exec .fwload s = .next t ∧
        (if Config.imageSigned img = true ∧ v.rollback ≤ Config.imageVersion img then Answers s t 0 [] ∧ t.service.stored = img
         else Answers s t 6 [] ∧ t.service.stored = v.stored) ∧ t.service.firmware = v.firmware)

/-- R4, R146, R259, R416, R431, R433 to R435: an error counts and marks its sector; a retired group clears its bit, raises bit 31 and
kills the contexts that had a cluster in it; the governor sets its die's clock in steps of 25 MHz; a thermal stop stops issue; a
cold reset gives every register its reset value and global time 0; a warm reset keeps global time, generations, the counters and the
bytes of memory. Each but the governor's and a corrected error's step enters the black box. The values of registers that the spec
gives no reset value for are the model's (assumption 5), as is that a cold reset brings retired groups that the fuse map does not
mark back into service (assumption 39), and that an error at no sector of memory is counted and recorded alone (assumption 69). -/
def Obligations.ErrorsPowerAndResetsActAsStated : Prop :=
  ∀ s : State,
    let up := fun (w : Word) => if w = 0xFFFFFFFF then w else w + 1
    let boxed := fun (t : State) (kind source : Nat) =>
      4 ∈ t.outside.irqs ∧ ∃ b ∈ t.service.box, b.kind = kind ∧ b.source = source ∧ t.service.box.length ≤ max 4096 s.service.box.length
    (exec .softErrorCorrected s = .next { s with sys := { s.sys with corrcnt := up s.sys.corrcnt } }) ∧
    (∀ k, k < 384 * 2 ^ 26 → ∃ t, exec (.uncorrectableError (.memory k)) s = .next t ∧ t.sys.unccnt = up s.sys.unccnt ∧
      k ∈ t.poison ∧ (∀ j ∈ t.poison, j = k ∨ j ∈ s.poison) ∧ t.hbm = s.hbm ∧ boxed t 2 (sliceOf (k * 32) % 192)) ∧
    (∀ core, ∃ t, exec (.uncorrectableError (.other core)) s = .next t ∧ t.sys.unccnt = up s.sys.unccnt ∧
      t.poison = s.poison ∧ boxed t 2 core) ∧
    (∀ g < 24, g ∉ s.retired → (∀ k ∈ s.l2, k.locked = none) → s.launches = [] → ∃ t, exec (.coreGroupRetire g) s = .next t ∧
      t.retired = s.retired ++ [g] ∧ t.sys.svcstat.getLsbD g = false ∧ t.sys.svcstat.getLsbD 31 = true ∧
      (∀ j < 31, j ≠ g → t.sys.svcstat.getLsbD j = s.sys.svcstat.getLsbD j) ∧
      (∀ k ∈ t.l2, groupOf (sliceOf (k.line * 128)) ≠ g) ∧ boxed t 1 (coreAt (g / 12) (2 * (g % 12 / 3)) (4 * (g % 3)))) ∧
    (∀ g, g ∉ s.retired → g < 24 → ∀ l ∈ s.launches, (∀ k ∈ s.launches, k.ctx = l.ctx → k = l) → s.inGroup l g = true →
      ∃ t, exec (.coreGroupRetire g) s = .next t ∧ t.launch? l.ctx = none) ∧
    (∀ die < 2, ∀ m, 32 ≤ m → m ≤ 84 → ∃ t, exec (.clockGovernorStep die (25 * m)) s = .next t ∧
      (t.sys.clkstat.extractLsb' (16 * die) 16).toNat = 25 * m ∧
      t.sys.clkstat.extractLsb' (16 * (1 - die)) 16 = s.sys.clkstat.extractLsb' (16 * (1 - die)) 16 ∧
      t = { s with sys := { s.sys with clkstat := t.sys.clkstat } }) ∧
    (∃ t, exec .thermalShutdown s = .next t ∧ t.stopped = true ∧ boxed t 3 0 ∧
      ∀ (w : Warp) (l : Launch), t.mayIssue w l = false) ∧
    (∃ t, exec .coldReset s = .next t ∧ t.gt = 0 ∧ t.sys = { SysRegs.reset with svcstat := t.sys.svcstat } ∧
      (∀ g < 24, t.sys.svcstat.getLsbD g = true ↔ g ∉ s.outside.fuses) ∧ (s.outside.fuses = [] → t.sys = SysRegs.reset) ∧
      ((∃ g < 24, g ∈ s.outside.fuses) → t.sys.svcstat.getLsbD 31 = true) ∧
      (∀ g, g ∈ t.retired ↔ g ∈ s.outside.fuses ∧ g < 24) ∧ t.banks = List.replicate 64 CtxRegs.reset ∧
      t.launches = [] ∧ t.warps = [] ∧ t.clusters = [] ∧ t.blocks = [] ∧ t.gens = List.replicate 64 0 ∧ t.service.seq = 0 ∧
      t.service.slots = []) ∧
    (s.hbm.wf = true → (∀ k ∈ s.l2, k.data.length = 128) → (∀ k ∈ s.l2, ∀ j ∈ s.l2, j.line = k.line → j = k) →
      (∀ k ∈ s.l2, k.dirty = false → ∀ j < 128, s.hbm.get (k.line * 128 + j) = k.data.getD j 0) →
      ∃ t, exec .warmReset s = .next t ∧ t.gt = s.gt ∧ t.gens = s.gens ∧ t.launches = [] ∧ t.warps = [] ∧
        t.sys.corrcnt = s.sys.corrcnt ∧ t.sys.unccnt = s.sys.unccnt ∧ t.sys.msgdrop = s.sys.msgdrop ∧
        t.sys.hostviol = s.sys.hostviol ∧ t.sys.peerdrop = s.sys.peerdrop ∧ t.sys.frlate = s.sys.frlate ∧
        t.sys.pinover = s.sys.pinover ∧ t.sys.nbv = 3 ∧ t.sys.lease = 8 ∧ (∀ a, t.devByte a = s.devByte a) ∧
        t.service.seq = s.service.seq ∧ t.sealedFrames = s.sealedFrames)

/-! ### Encoding, the step, reset -/

/-- R38, R45 to R62: every well-formed instruction has one word, the decoder reads it back from the slot's bytes with every operand as
it was, and whatever the decoder accepts is well-formed and the word it read is that instruction's: no legal word has a second reading and no
bit of it is dropped. A word that is no legal instruction is rejected by name. -/
def Obligations.DecodingInvertsEncoding : Prop :=
  (∀ i : Instr, i.wf = true → ∃ w, encode i = some w ∧ decode (natToBytes 12 w.toNat) = .ok i) ∧
  (∀ (bs : List Byte) (i : Instr), decode bs = .ok i →
    12 ≤ bs.length ∧ i.wf = true ∧ encode i = some (BitVec.ofNat 96 (bytesToNat (bs.take 12)))) ∧
  (∀ w : IWord, (¬∃ i : Instr, i.wf = true ∧ encode i = some w) →
    decode (natToBytes 12 w.toNat) = .error (.illegalInstruction (w.extractLsb' 69 10)))

/-- R37, R96, R122, R157, R179, R226, R260, R291, R369, R401, R419: the words that the spec works out decode to what it says they encode. -/
def Obligations.WorkedEncodingsDecode : Prop :=
  let all : Guard := ⟨0xFF, 0, 0, 0⟩
  decodeTableWord 96 0x0000415FFFFFFC007FC00000 = some (.nop ⟨0, 0, 0, 0⟩ ⟨.z, .z, .z, .reg .z, .s32, 0⟩) ∧
  decodeTableWord 96 0x30280000501FFC0001C00000 = some (.add ⟨0x30, 1, 2, 0⟩ ⟨.v 5, .v 3, .z, .reg (.v 7), .s32, 0⟩) ∧
  decodeTableWord 96 0xF020401FFFFFFB1FF0000000 = some (.bra ⟨0xF0, 1, 0, 0⟩ ⟨0xFFFFFFD8, .z, 0, 0⟩) ∧
  decodeTableWord 96 0xFF0020040802001FF0000000 = some (.icmp all ⟨1, 0, 0, 4, .v 2, .reg .z, .s32⟩) ∧
  decodeTableWord 96 0xFF001220200FFC007FC80020 = some (.cvt all ⟨.v 2, .v 1, .z, .reg .z, .f32, 0x20⟩) ∧
  decodeTableWord 96 0xFF0030002020040001024F00 = some (.ld all ⟨.v 2, .v 4, .v 1, 0x40, 2, 2, .b32, 0, 0⟩) ∧
  decodeTableWord 96 0xFF0041803F82FE0000000000 = some (.wait all ⟨0, 127, 2, 127⟩) ∧
  decodeTableWord 96 0xFF005004208FF85001000000 = some (.mma all ⟨2, 1, .v 8, .z, 0, .bf16, 4, 0, 0⟩) ∧
  decodeTableWord 96 0xFF0060008057FC0003000000 = some (.cp all ⟨.v 8, .v 10, .z, .reg (.v 12), .s32, 0⟩) ∧
  decodeTableWord 96 0xFF00619FF047FC0000800105 = some (.msend all ⟨.z, .v 8, .z, .reg (.v 2), .s32, 0x105⟩) ∧
  decodeTableWord 96 0xFF00425FFFF8180000000003 = some (.ppoint all ⟨6, 0, 3⟩) ∧
  decodeTableWord 96 0xFF00703FF017FC007FC10001 = some (.syswr all ⟨.z, .v 2, .z, .reg .z, .n32, 1⟩) ∧
  decodeTableWord 96 0xFF0070804FFFFC007FC70000 = some (.gtime all ⟨.v 4, .z, .z, .reg .z, .n64, 0⟩) ∧
  decodeTableWord 96 0 = none

/-- R24 to R31, R82: when a quadrant's turn has come and the line at the current PC of its first warp is at hand, clean, of right parity
and a lawful target, and the slot's bytes decode to an instruction, the step runs that instruction on that warp; what the part notices
after every act follows. A held instruction leaves the quadrant to its next warp. A turn of the part runs its event. -/
def Obligations.AStepRunsTheDecodedInstruction : Prop :=
  ∀ (s : State) (ns cycles : Nat) (ts : List Turn),
    let s1 : State := { s with schedule := ts, gt := s.gt + ns, cycle := s.cycle + cycles }
    (∀ (core quad slot : Nat) (rest : List Nat) (x : Iss) (c : CLine) (i : Instr) (t : State),
      s.schedule = ⟨ns, cycles, .issue core quad⟩ :: ts → s1.candidates core quad = slot :: rest →
      ({ s1 with issuing := some (core, slot) } : State).iss ⟨0xFF, 0, 0, 0⟩ = some x →
      s1.iline core x.w.ctx (x.pc.toNat / 64) = some c → c.bad = [] → c.again = [] → linePar c.data = true → lineClean c.data = true →
      validPc x.pc = true → (slotTgt c.data (slotIndex x.pc) = true ∨ x.w.chk = []) →
      slotPar c.data (slotIndex x.pc) = true → decode (slotBytes c.data (slotIndex x.pc)) = .ok i →
      exec i { s1 with issuing := some (core, slot) } = .next t →
      (t.issues ≠ s1.issues ∨ rest = [] → step s = .next { s1.noticed t with issuing := none }) ∧
      (t.issues = s1.issues → step s = s1.turnEnd (issueFrom core rest t))) ∧
    (∀ (i : Instr) (t : State), s.schedule = ⟨ns, cycles, .event i⟩ :: ts → isEvent i = true →
      (s.stopped = false ∨ onDies i = false → exec i s1 = .next t → step s = .next { s1.noticed t with issuing := none }) ∧
      (s.stopped = true → onDies i = true → step s = .next { s1.noticed s1 with issuing := none })) ∧
    (∀ core quad, ∃ ws : List Warp, s.candidates core quad = ws.map (fun w => w.slot) ∧
      ws.Perm (s.warps.filter fun w => w.core == core && w.slot / 16 == quad) ∧
      ws.Pairwise fun a b => a.rankKey.1 < b.rankKey.1 ∨ (a.rankKey.1 = b.rankKey.1 ∧ a.form ≤ b.form))

/-- Every row answers a next state in every state, but an instruction where no path stands to issue it, which is the one fault; and
every step answers a next state: the machine never stops. -/
def Obligations.EveryStepAnswersANextState : Prop :=
  (∀ (i : Instr) (s : State), (∃ t, exec i s = .next t) ∨
    (exec i s = .fault .noIssuingPath ∧ ∃ g b, i.body = some (g, b) ∧ s.iss g = none)) ∧
  (∀ (i : Instr) (s : State) (g : Guard) (b : BitVec 69) (x : Iss), i.body = some (g, b) → s.iss g = some x → ∃ t, exec i s = .next t) ∧
  ∀ s : State, ∃ t, step s = .next t

/-- R4, R142, R146, R217, R251, R259, R272, R340, R387, R416, R433: what cold reset leaves, as the tables of the registers and those rules give it;
no launch, no warp, nothing under way. -/
def Obligations.ResetLeavesWhatTheSpecStates : Prop :=
  let s := State.reset
  s.gt = 0 ∧ s.sys.nbv = 3 ∧ s.sys.lease = 8 ∧ s.sys.fairt.toNat % 65536 = 1024 ∧ s.sys.wdog.toNat % 64 = 30 ∧ s.sys.slpin = 0 ∧
    s.sys.frtail = 0 ∧ s.sys.frhead = 0 ∧ s.sys.frlate = 0 ∧ s.sys.corrcnt = 0 ∧ s.sys.unccnt = 0 ∧ s.sys.msgdrop = 0 ∧
    s.sys.hostviol = 0 ∧ s.sys.peerdrop = 0 ∧ s.sys.mbstat = 0 ∧ s.service.seq = 0 ∧
    s.gens = List.replicate 64 0 ∧ s.sys.pinover = List.replicate 192 0 ∧
    s.launches = [] ∧ s.warps = [] ∧ s.clusters = [] ∧ s.blocks = [] ∧ s.memOk = true

/-- Memory keeps its canonical form: whatever the state, a step from a state whose memories (the channels, host and peer memory, the
mailbox, every block's SRAM and press region, every core-pinned frame) list strictly rising addresses and no zero byte leaves them so. -/
def Obligations.EveryStepKeepsMemoryInForm : Prop :=
  ∀ (s t : State), s.memOk = true → step s = .next t → t.memOk = true

/-! ### Placement -/

/-- R208 to R210, R212, R213: a byte of a frame region lies at the stripe, row and channel that the geometry entry gives: under the
XOR-fold in full rows, in order in the last one; an address past a channel's 2 GB is none; and no two bytes of a region share a place. -/
def Obligations.BytesArePlacedByStripes : Prop :=
  ∀ (w : BitVec 128) (f b : Nat), (geometry w).valid = true → f ≤ 2 ^ 57 → b % (geometry w).stripe = 0 →
    let u := 256 * 4 ^ (w.extractLsb' 29 2).toNat
    let chans := (List.range 384).filter fun c => w.getLsbD (12 + c / 32) && w.getLsbD (32 + c % 32)
    let n := chans.length
    (∀ o < f, ∃ k x c, n ≤ 2 ^ k ∧ (k = 0 ∨ 2 ^ (k - 1) < n) ∧
      (∀ i, Nat.testBit x i = (decide (i < k) && ((List.range 64).filter fun p => (o / u / n).testBit (k * p + i)).length % 2 == 1)) ∧
      c = (if w.getLsbD 28 = false ∧ o / u / n < f / (n * u) then (o / u % n + x) % n else o / u % n) ∧
      let la := b + o / u / n * u + o % u
      (geometry w).place f b o = if la < 2 ^ 31 then some (chans.getD c 0 * 2 ^ 31 + la) else none) ∧
    (∀ o < f, ∀ p < f, ∀ d, (geometry w).place f b o = some d → (geometry w).place f b p = some d → o = p)

/-- R215: the map of channels to slices; two channels to a slice of the same die. -/
def Obligations.ChannelsAreHomedTwoToASlice : Prop :=
  (∀ d < 2, ∀ q < 6, ∀ ch < 32,
    let chan := 32 * (6 * d + q) + ch
    let y := if q < 3 then ch / 8 else 7 - ch / 8
    let x := 4 * (q % 3) + ch % 8 / 2
    sliceOfChannel chan = 96 * d + 12 * y + x ∧ y < 8 ∧ x < 12 ∧ ∀ la < 2 ^ 31, sliceOf (chan * 2 ^ 31 + la) = sliceOfChannel chan) ∧
  (∀ slice < 192, ((List.range 384).filter fun chan => sliceOfChannel chan == slice).length = 2) ∧
  (∀ chan < 384, sliceOfChannel chan / 96 = chan / 192) ∧
  (∀ k < 192, sliceOfChannel (2 * k) = sliceOfChannel (2 * k + 1)) ∧
  sliceOfChannel 9 = 12 ∧ sliceOfChannel (32 * 10 + 17) = 160
end

