-- ==== Sys2Proof/Laws/State.lean ====
section
/-! SUPPORT. One lemma per field of State per named update: what the update leaves as it was. -/

namespace Sys2Proof.Machine

open Sys2Proof

variable (s : State)

@[simp] theorem State.setWarp_gt (w : Warp) : (s.setWarp w).gt = s.gt := rfl
@[simp] theorem State.setWarp_cycle (w : Warp) : (s.setWarp w).cycle = s.cycle := rfl
@[simp] theorem State.setWarp_skews (w : Warp) : (s.setWarp w).skews = s.skews := rfl
@[simp] theorem State.setWarp_sys (w : Warp) : (s.setWarp w).sys = s.sys := rfl
@[simp] theorem State.setWarp_banks (w : Warp) : (s.setWarp w).banks = s.banks := rfl
@[simp] theorem State.setWarp_gens (w : Warp) : (s.setWarp w).gens = s.gens := rfl
@[simp] theorem State.setWarp_launches (w : Warp) : (s.setWarp w).launches = s.launches := rfl
@[simp] theorem State.setWarp_lastQueue (w : Warp) : (s.setWarp w).lastQueue = s.lastQueue := rfl
@[simp] theorem State.setWarp_acceptNo (w : Warp) : (s.setWarp w).acceptNo = s.acceptNo := rfl
@[simp] theorem State.setWarp_clusters (w : Warp) : (s.setWarp w).clusters = s.clusters := rfl
@[simp] theorem State.setWarp_blocks (w : Warp) : (s.setWarp w).blocks = s.blocks := rfl
@[simp] theorem State.setWarp_forms (w : Warp) : (s.setWarp w).forms = s.forms := rfl
@[simp] theorem State.setWarp_reserved (w : Warp) : (s.setWarp w).reserved = s.reserved := rfl
@[simp] theorem State.setWarp_reqs (w : Warp) : (s.setWarp w).reqs = s.reqs := rfl
@[simp] theorem State.setWarp_copies (w : Warp) : (s.setWarp w).copies = s.copies := rfl
@[simp] theorem State.setWarp_fills (w : Warp) : (s.setWarp w).fills = s.fills := rfl
@[simp] theorem State.setWarp_ccache (w : Warp) : (s.setWarp w).ccache = s.ccache := rfl
@[simp] theorem State.setWarp_icache (w : Warp) : (s.setWarp w).icache = s.icache := rfl
@[simp] theorem State.setWarp_cwaits (w : Warp) : (s.setWarp w).cwaits = s.cwaits := rfl
@[simp] theorem State.setWarp_tlbs (w : Warp) : (s.setWarp w).tlbs = s.tlbs := rfl
@[simp] theorem State.setWarp_mends (w : Warp) : (s.setWarp w).mends = s.mends := rfl
@[simp] theorem State.setWarp_hbm (w : Warp) : (s.setWarp w).hbm = s.hbm := rfl
@[simp] theorem State.setWarp_l2 (w : Warp) : (s.setWarp w).l2 = s.l2 := rfl
@[simp] theorem State.setWarp_leases (w : Warp) : (s.setWarp w).leases = s.leases := rfl
@[simp] theorem State.setWarp_ev (w : Warp) : (s.setWarp w).ev = s.ev := rfl
@[simp] theorem State.setWarp_poison (w : Warp) : (s.setWarp w).poison = s.poison := rfl
@[simp] theorem State.setWarp_badSram (w : Warp) : (s.setWarp w).badSram = s.badSram := rfl
@[simp] theorem State.setWarp_sealedFrames (w : Warp) : (s.setWarp w).sealedFrames = s.sealedFrames := rfl
@[simp] theorem State.setWarp_lineSlots (w : Warp) : (s.setWarp w).lineSlots = s.lineSlots := rfl
@[simp] theorem State.setWarp_pins (w : Warp) : (s.setWarp w).pins = s.pins := rfl
@[simp] theorem State.setWarp_moving (w : Warp) : (s.setWarp w).moving = s.moving := rfl
@[simp] theorem State.setWarp_rsv (w : Warp) : (s.setWarp w).rsv = s.rsv := rfl
@[simp] theorem State.setWarp_returned (w : Warp) : (s.setWarp w).returned = s.returned := rfl
@[simp] theorem State.setWarp_copyOps (w : Warp) : (s.setWarp w).copyOps = s.copyOps := rfl
@[simp] theorem State.setWarp_shelf (w : Warp) : (s.setWarp w).shelf = s.shelf := rfl
@[simp] theorem State.setWarp_drops (w : Warp) : (s.setWarp w).drops = s.drops := rfl
@[simp] theorem State.setWarp_g5 (w : Warp) : (s.setWarp w).g5 = s.g5 := rfl
@[simp] theorem State.setWarp_packets (w : Warp) : (s.setWarp w).packets = s.packets := rfl
@[simp] theorem State.setWarp_msgs (w : Warp) : (s.setWarp w).msgs = s.msgs := rfl
@[simp] theorem State.setWarp_pendingRecs (w : Warp) : (s.setWarp w).pendingRecs = s.pendingRecs := rfl
@[simp] theorem State.setWarp_ovfNext (w : Warp) : (s.setWarp w).ovfNext = s.ovfNext := rfl
@[simp] theorem State.setWarp_preempt (w : Warp) : (s.setWarp w).preempt = s.preempt := rfl
@[simp] theorem State.setWarp_restoring (w : Warp) : (s.setWarp w).restoring = s.restoring := rfl
@[simp] theorem State.setWarp_flipping (w : Warp) : (s.setWarp w).flipping = s.flipping := rfl
@[simp] theorem State.setWarp_dsel (w : Warp) : (s.setWarp w).dsel = s.dsel := rfl
@[simp] theorem State.setWarp_retired (w : Warp) : (s.setWarp w).retired = s.retired := rfl
@[simp] theorem State.setWarp_stopped (w : Warp) : (s.setWarp w).stopped = s.stopped := rfl
@[simp] theorem State.setWarp_service (w : Warp) : (s.setWarp w).service = s.service := rfl
@[simp] theorem State.setWarp_outside (w : Warp) : (s.setWarp w).outside = s.outside := rfl
@[simp] theorem State.setWarp_nextId (w : Warp) : (s.setWarp w).nextId = s.nextId := rfl
@[simp] theorem State.setWarp_issues (w : Warp) : (s.setWarp w).issues = s.issues := rfl
@[simp] theorem State.setWarp_rr (w : Warp) : (s.setWarp w).rr = s.rr := rfl
@[simp] theorem State.setWarp_schedule (w : Warp) : (s.setWarp w).schedule = s.schedule := rfl
@[simp] theorem State.setWarp_issuing (w : Warp) : (s.setWarp w).issuing = s.issuing := rfl

@[simp] theorem State.modWarp_gt (c k : Nat) (f : Warp → Warp) : (s.modWarp c k f).gt = s.gt := rfl
@[simp] theorem State.modWarp_cycle (c k : Nat) (f : Warp → Warp) : (s.modWarp c k f).cycle = s.cycle := rfl
@[simp] theorem State.modWarp_skews (c k : Nat) (f : Warp → Warp) : (s.modWarp c k f).skews = s.skews := rfl
@[simp] theorem State.modWarp_sys (c k : Nat) (f : Warp → Warp) : (s.modWarp c k f).sys = s.sys := rfl
@[simp] theorem State.modWarp_banks (c k : Nat) (f : Warp → Warp) : (s.modWarp c k f).banks = s.banks := rfl
@[simp] theorem State.modWarp_gens (c k : Nat) (f : Warp → Warp) : (s.modWarp c k f).gens = s.gens := rfl
@[simp] theorem State.modWarp_launches (c k : Nat) (f : Warp → Warp) : (s.modWarp c k f).launches = s.launches := rfl
@[simp] theorem State.modWarp_lastQueue (c k : Nat) (f : Warp → Warp) : (s.modWarp c k f).lastQueue = s.lastQueue := rfl
@[simp] theorem State.modWarp_acceptNo (c k : Nat) (f : Warp → Warp) : (s.modWarp c k f).acceptNo = s.acceptNo := rfl
@[simp] theorem State.modWarp_clusters (c k : Nat) (f : Warp → Warp) : (s.modWarp c k f).clusters = s.clusters := rfl
@[simp] theorem State.modWarp_blocks (c k : Nat) (f : Warp → Warp) : (s.modWarp c k f).blocks = s.blocks := rfl
@[simp] theorem State.modWarp_forms (c k : Nat) (f : Warp → Warp) : (s.modWarp c k f).forms = s.forms := rfl
@[simp] theorem State.modWarp_reserved (c k : Nat) (f : Warp → Warp) : (s.modWarp c k f).reserved = s.reserved := rfl
@[simp] theorem State.modWarp_reqs (c k : Nat) (f : Warp → Warp) : (s.modWarp c k f).reqs = s.reqs := rfl
@[simp] theorem State.modWarp_copies (c k : Nat) (f : Warp → Warp) : (s.modWarp c k f).copies = s.copies := rfl
@[simp] theorem State.modWarp_fills (c k : Nat) (f : Warp → Warp) : (s.modWarp c k f).fills = s.fills := rfl
@[simp] theorem State.modWarp_ccache (c k : Nat) (f : Warp → Warp) : (s.modWarp c k f).ccache = s.ccache := rfl
@[simp] theorem State.modWarp_icache (c k : Nat) (f : Warp → Warp) : (s.modWarp c k f).icache = s.icache := rfl
@[simp] theorem State.modWarp_cwaits (c k : Nat) (f : Warp → Warp) : (s.modWarp c k f).cwaits = s.cwaits := rfl
@[simp] theorem State.modWarp_tlbs (c k : Nat) (f : Warp → Warp) : (s.modWarp c k f).tlbs = s.tlbs := rfl
@[simp] theorem State.modWarp_mends (c k : Nat) (f : Warp → Warp) : (s.modWarp c k f).mends = s.mends := rfl
@[simp] theorem State.modWarp_hbm (c k : Nat) (f : Warp → Warp) : (s.modWarp c k f).hbm = s.hbm := rfl
@[simp] theorem State.modWarp_l2 (c k : Nat) (f : Warp → Warp) : (s.modWarp c k f).l2 = s.l2 := rfl
@[simp] theorem State.modWarp_leases (c k : Nat) (f : Warp → Warp) : (s.modWarp c k f).leases = s.leases := rfl
@[simp] theorem State.modWarp_ev (c k : Nat) (f : Warp → Warp) : (s.modWarp c k f).ev = s.ev := rfl
@[simp] theorem State.modWarp_poison (c k : Nat) (f : Warp → Warp) : (s.modWarp c k f).poison = s.poison := rfl
@[simp] theorem State.modWarp_badSram (c k : Nat) (f : Warp → Warp) : (s.modWarp c k f).badSram = s.badSram := rfl
@[simp] theorem State.modWarp_sealedFrames (c k : Nat) (f : Warp → Warp) : (s.modWarp c k f).sealedFrames = s.sealedFrames := rfl
@[simp] theorem State.modWarp_lineSlots (c k : Nat) (f : Warp → Warp) : (s.modWarp c k f).lineSlots = s.lineSlots := rfl
@[simp] theorem State.modWarp_pins (c k : Nat) (f : Warp → Warp) : (s.modWarp c k f).pins = s.pins := rfl
@[simp] theorem State.modWarp_moving (c k : Nat) (f : Warp → Warp) : (s.modWarp c k f).moving = s.moving := rfl
@[simp] theorem State.modWarp_rsv (c k : Nat) (f : Warp → Warp) : (s.modWarp c k f).rsv = s.rsv := rfl
@[simp] theorem State.modWarp_returned (c k : Nat) (f : Warp → Warp) : (s.modWarp c k f).returned = s.returned := rfl
@[simp] theorem State.modWarp_copyOps (c k : Nat) (f : Warp → Warp) : (s.modWarp c k f).copyOps = s.copyOps := rfl
@[simp] theorem State.modWarp_shelf (c k : Nat) (f : Warp → Warp) : (s.modWarp c k f).shelf = s.shelf := rfl
@[simp] theorem State.modWarp_drops (c k : Nat) (f : Warp → Warp) : (s.modWarp c k f).drops = s.drops := rfl
@[simp] theorem State.modWarp_g5 (c k : Nat) (f : Warp → Warp) : (s.modWarp c k f).g5 = s.g5 := rfl
@[simp] theorem State.modWarp_packets (c k : Nat) (f : Warp → Warp) : (s.modWarp c k f).packets = s.packets := rfl
@[simp] theorem State.modWarp_msgs (c k : Nat) (f : Warp → Warp) : (s.modWarp c k f).msgs = s.msgs := rfl
@[simp] theorem State.modWarp_pendingRecs (c k : Nat) (f : Warp → Warp) : (s.modWarp c k f).pendingRecs = s.pendingRecs := rfl
@[simp] theorem State.modWarp_ovfNext (c k : Nat) (f : Warp → Warp) : (s.modWarp c k f).ovfNext = s.ovfNext := rfl
@[simp] theorem State.modWarp_preempt (c k : Nat) (f : Warp → Warp) : (s.modWarp c k f).preempt = s.preempt := rfl
@[simp] theorem State.modWarp_restoring (c k : Nat) (f : Warp → Warp) : (s.modWarp c k f).restoring = s.restoring := rfl
@[simp] theorem State.modWarp_flipping (c k : Nat) (f : Warp → Warp) : (s.modWarp c k f).flipping = s.flipping := rfl
@[simp] theorem State.modWarp_dsel (c k : Nat) (f : Warp → Warp) : (s.modWarp c k f).dsel = s.dsel := rfl
@[simp] theorem State.modWarp_retired (c k : Nat) (f : Warp → Warp) : (s.modWarp c k f).retired = s.retired := rfl
@[simp] theorem State.modWarp_stopped (c k : Nat) (f : Warp → Warp) : (s.modWarp c k f).stopped = s.stopped := rfl
@[simp] theorem State.modWarp_service (c k : Nat) (f : Warp → Warp) : (s.modWarp c k f).service = s.service := rfl
@[simp] theorem State.modWarp_outside (c k : Nat) (f : Warp → Warp) : (s.modWarp c k f).outside = s.outside := rfl
@[simp] theorem State.modWarp_nextId (c k : Nat) (f : Warp → Warp) : (s.modWarp c k f).nextId = s.nextId := rfl
@[simp] theorem State.modWarp_issues (c k : Nat) (f : Warp → Warp) : (s.modWarp c k f).issues = s.issues := rfl
@[simp] theorem State.modWarp_rr (c k : Nat) (f : Warp → Warp) : (s.modWarp c k f).rr = s.rr := rfl
@[simp] theorem State.modWarp_schedule (c k : Nat) (f : Warp → Warp) : (s.modWarp c k f).schedule = s.schedule := rfl
@[simp] theorem State.modWarp_issuing (c k : Nat) (f : Warp → Warp) : (s.modWarp c k f).issuing = s.issuing := rfl

@[simp] theorem State.modWarps_gt (f : Warp → Warp) : (s.modWarps f).gt = s.gt := rfl
@[simp] theorem State.modWarps_cycle (f : Warp → Warp) : (s.modWarps f).cycle = s.cycle := rfl
@[simp] theorem State.modWarps_skews (f : Warp → Warp) : (s.modWarps f).skews = s.skews := rfl
@[simp] theorem State.modWarps_sys (f : Warp → Warp) : (s.modWarps f).sys = s.sys := rfl
@[simp] theorem State.modWarps_banks (f : Warp → Warp) : (s.modWarps f).banks = s.banks := rfl
@[simp] theorem State.modWarps_gens (f : Warp → Warp) : (s.modWarps f).gens = s.gens := rfl
@[simp] theorem State.modWarps_launches (f : Warp → Warp) : (s.modWarps f).launches = s.launches := rfl
@[simp] theorem State.modWarps_lastQueue (f : Warp → Warp) : (s.modWarps f).lastQueue = s.lastQueue := rfl
@[simp] theorem State.modWarps_acceptNo (f : Warp → Warp) : (s.modWarps f).acceptNo = s.acceptNo := rfl
@[simp] theorem State.modWarps_clusters (f : Warp → Warp) : (s.modWarps f).clusters = s.clusters := rfl
@[simp] theorem State.modWarps_blocks (f : Warp → Warp) : (s.modWarps f).blocks = s.blocks := rfl
@[simp] theorem State.modWarps_forms (f : Warp → Warp) : (s.modWarps f).forms = s.forms := rfl
@[simp] theorem State.modWarps_reserved (f : Warp → Warp) : (s.modWarps f).reserved = s.reserved := rfl
@[simp] theorem State.modWarps_reqs (f : Warp → Warp) : (s.modWarps f).reqs = s.reqs := rfl
@[simp] theorem State.modWarps_copies (f : Warp → Warp) : (s.modWarps f).copies = s.copies := rfl
@[simp] theorem State.modWarps_fills (f : Warp → Warp) : (s.modWarps f).fills = s.fills := rfl
@[simp] theorem State.modWarps_ccache (f : Warp → Warp) : (s.modWarps f).ccache = s.ccache := rfl
@[simp] theorem State.modWarps_icache (f : Warp → Warp) : (s.modWarps f).icache = s.icache := rfl
@[simp] theorem State.modWarps_cwaits (f : Warp → Warp) : (s.modWarps f).cwaits = s.cwaits := rfl
@[simp] theorem State.modWarps_tlbs (f : Warp → Warp) : (s.modWarps f).tlbs = s.tlbs := rfl
@[simp] theorem State.modWarps_mends (f : Warp → Warp) : (s.modWarps f).mends = s.mends := rfl
@[simp] theorem State.modWarps_hbm (f : Warp → Warp) : (s.modWarps f).hbm = s.hbm := rfl
@[simp] theorem State.modWarps_l2 (f : Warp → Warp) : (s.modWarps f).l2 = s.l2 := rfl
@[simp] theorem State.modWarps_leases (f : Warp → Warp) : (s.modWarps f).leases = s.leases := rfl
@[simp] theorem State.modWarps_ev (f : Warp → Warp) : (s.modWarps f).ev = s.ev := rfl
@[simp] theorem State.modWarps_poison (f : Warp → Warp) : (s.modWarps f).poison = s.poison := rfl
@[simp] theorem State.modWarps_badSram (f : Warp → Warp) : (s.modWarps f).badSram = s.badSram := rfl
@[simp] theorem State.modWarps_sealedFrames (f : Warp → Warp) : (s.modWarps f).sealedFrames = s.sealedFrames := rfl
@[simp] theorem State.modWarps_lineSlots (f : Warp → Warp) : (s.modWarps f).lineSlots = s.lineSlots := rfl
@[simp] theorem State.modWarps_pins (f : Warp → Warp) : (s.modWarps f).pins = s.pins := rfl
@[simp] theorem State.modWarps_moving (f : Warp → Warp) : (s.modWarps f).moving = s.moving := rfl
@[simp] theorem State.modWarps_rsv (f : Warp → Warp) : (s.modWarps f).rsv = s.rsv := rfl
@[simp] theorem State.modWarps_returned (f : Warp → Warp) : (s.modWarps f).returned = s.returned := rfl
@[simp] theorem State.modWarps_copyOps (f : Warp → Warp) : (s.modWarps f).copyOps = s.copyOps := rfl
@[simp] theorem State.modWarps_shelf (f : Warp → Warp) : (s.modWarps f).shelf = s.shelf := rfl
@[simp] theorem State.modWarps_drops (f : Warp → Warp) : (s.modWarps f).drops = s.drops := rfl
@[simp] theorem State.modWarps_g5 (f : Warp → Warp) : (s.modWarps f).g5 = s.g5 := rfl
@[simp] theorem State.modWarps_packets (f : Warp → Warp) : (s.modWarps f).packets = s.packets := rfl
@[simp] theorem State.modWarps_msgs (f : Warp → Warp) : (s.modWarps f).msgs = s.msgs := rfl
@[simp] theorem State.modWarps_pendingRecs (f : Warp → Warp) : (s.modWarps f).pendingRecs = s.pendingRecs := rfl
@[simp] theorem State.modWarps_ovfNext (f : Warp → Warp) : (s.modWarps f).ovfNext = s.ovfNext := rfl
@[simp] theorem State.modWarps_preempt (f : Warp → Warp) : (s.modWarps f).preempt = s.preempt := rfl
@[simp] theorem State.modWarps_restoring (f : Warp → Warp) : (s.modWarps f).restoring = s.restoring := rfl
@[simp] theorem State.modWarps_flipping (f : Warp → Warp) : (s.modWarps f).flipping = s.flipping := rfl
@[simp] theorem State.modWarps_dsel (f : Warp → Warp) : (s.modWarps f).dsel = s.dsel := rfl
@[simp] theorem State.modWarps_retired (f : Warp → Warp) : (s.modWarps f).retired = s.retired := rfl
@[simp] theorem State.modWarps_stopped (f : Warp → Warp) : (s.modWarps f).stopped = s.stopped := rfl
@[simp] theorem State.modWarps_service (f : Warp → Warp) : (s.modWarps f).service = s.service := rfl
@[simp] theorem State.modWarps_outside (f : Warp → Warp) : (s.modWarps f).outside = s.outside := rfl
@[simp] theorem State.modWarps_nextId (f : Warp → Warp) : (s.modWarps f).nextId = s.nextId := rfl
@[simp] theorem State.modWarps_issues (f : Warp → Warp) : (s.modWarps f).issues = s.issues := rfl
@[simp] theorem State.modWarps_rr (f : Warp → Warp) : (s.modWarps f).rr = s.rr := rfl
@[simp] theorem State.modWarps_schedule (f : Warp → Warp) : (s.modWarps f).schedule = s.schedule := rfl
@[simp] theorem State.modWarps_issuing (f : Warp → Warp) : (s.modWarps f).issuing = s.issuing := rfl

@[simp] theorem State.modLaunch_gt (c : Nat) (f : Launch → Launch) : (s.modLaunch c f).gt = s.gt := rfl
@[simp] theorem State.modLaunch_cycle (c : Nat) (f : Launch → Launch) : (s.modLaunch c f).cycle = s.cycle := rfl
@[simp] theorem State.modLaunch_skews (c : Nat) (f : Launch → Launch) : (s.modLaunch c f).skews = s.skews := rfl
@[simp] theorem State.modLaunch_sys (c : Nat) (f : Launch → Launch) : (s.modLaunch c f).sys = s.sys := rfl
@[simp] theorem State.modLaunch_banks (c : Nat) (f : Launch → Launch) : (s.modLaunch c f).banks = s.banks := rfl
@[simp] theorem State.modLaunch_gens (c : Nat) (f : Launch → Launch) : (s.modLaunch c f).gens = s.gens := rfl
@[simp] theorem State.modLaunch_lastQueue (c : Nat) (f : Launch → Launch) : (s.modLaunch c f).lastQueue = s.lastQueue := rfl
@[simp] theorem State.modLaunch_acceptNo (c : Nat) (f : Launch → Launch) : (s.modLaunch c f).acceptNo = s.acceptNo := rfl
@[simp] theorem State.modLaunch_clusters (c : Nat) (f : Launch → Launch) : (s.modLaunch c f).clusters = s.clusters := rfl
@[simp] theorem State.modLaunch_blocks (c : Nat) (f : Launch → Launch) : (s.modLaunch c f).blocks = s.blocks := rfl
@[simp] theorem State.modLaunch_warps (c : Nat) (f : Launch → Launch) : (s.modLaunch c f).warps = s.warps := rfl
@[simp] theorem State.modLaunch_forms (c : Nat) (f : Launch → Launch) : (s.modLaunch c f).forms = s.forms := rfl
@[simp] theorem State.modLaunch_reserved (c : Nat) (f : Launch → Launch) : (s.modLaunch c f).reserved = s.reserved := rfl
@[simp] theorem State.modLaunch_reqs (c : Nat) (f : Launch → Launch) : (s.modLaunch c f).reqs = s.reqs := rfl
@[simp] theorem State.modLaunch_copies (c : Nat) (f : Launch → Launch) : (s.modLaunch c f).copies = s.copies := rfl
@[simp] theorem State.modLaunch_fills (c : Nat) (f : Launch → Launch) : (s.modLaunch c f).fills = s.fills := rfl
@[simp] theorem State.modLaunch_ccache (c : Nat) (f : Launch → Launch) : (s.modLaunch c f).ccache = s.ccache := rfl
@[simp] theorem State.modLaunch_icache (c : Nat) (f : Launch → Launch) : (s.modLaunch c f).icache = s.icache := rfl
@[simp] theorem State.modLaunch_cwaits (c : Nat) (f : Launch → Launch) : (s.modLaunch c f).cwaits = s.cwaits := rfl
@[simp] theorem State.modLaunch_tlbs (c : Nat) (f : Launch → Launch) : (s.modLaunch c f).tlbs = s.tlbs := rfl
@[simp] theorem State.modLaunch_mends (c : Nat) (f : Launch → Launch) : (s.modLaunch c f).mends = s.mends := rfl
@[simp] theorem State.modLaunch_hbm (c : Nat) (f : Launch → Launch) : (s.modLaunch c f).hbm = s.hbm := rfl
@[simp] theorem State.modLaunch_l2 (c : Nat) (f : Launch → Launch) : (s.modLaunch c f).l2 = s.l2 := rfl
@[simp] theorem State.modLaunch_leases (c : Nat) (f : Launch → Launch) : (s.modLaunch c f).leases = s.leases := rfl
@[simp] theorem State.modLaunch_ev (c : Nat) (f : Launch → Launch) : (s.modLaunch c f).ev = s.ev := rfl
@[simp] theorem State.modLaunch_poison (c : Nat) (f : Launch → Launch) : (s.modLaunch c f).poison = s.poison := rfl
@[simp] theorem State.modLaunch_badSram (c : Nat) (f : Launch → Launch) : (s.modLaunch c f).badSram = s.badSram := rfl
@[simp] theorem State.modLaunch_sealedFrames (c : Nat) (f : Launch → Launch) : (s.modLaunch c f).sealedFrames = s.sealedFrames := rfl
@[simp] theorem State.modLaunch_lineSlots (c : Nat) (f : Launch → Launch) : (s.modLaunch c f).lineSlots = s.lineSlots := rfl
@[simp] theorem State.modLaunch_pins (c : Nat) (f : Launch → Launch) : (s.modLaunch c f).pins = s.pins := rfl
@[simp] theorem State.modLaunch_moving (c : Nat) (f : Launch → Launch) : (s.modLaunch c f).moving = s.moving := rfl
@[simp] theorem State.modLaunch_rsv (c : Nat) (f : Launch → Launch) : (s.modLaunch c f).rsv = s.rsv := rfl
@[simp] theorem State.modLaunch_returned (c : Nat) (f : Launch → Launch) : (s.modLaunch c f).returned = s.returned := rfl
@[simp] theorem State.modLaunch_copyOps (c : Nat) (f : Launch → Launch) : (s.modLaunch c f).copyOps = s.copyOps := rfl
@[simp] theorem State.modLaunch_shelf (c : Nat) (f : Launch → Launch) : (s.modLaunch c f).shelf = s.shelf := rfl
@[simp] theorem State.modLaunch_drops (c : Nat) (f : Launch → Launch) : (s.modLaunch c f).drops = s.drops := rfl
@[simp] theorem State.modLaunch_g5 (c : Nat) (f : Launch → Launch) : (s.modLaunch c f).g5 = s.g5 := rfl
@[simp] theorem State.modLaunch_packets (c : Nat) (f : Launch → Launch) : (s.modLaunch c f).packets = s.packets := rfl
@[simp] theorem State.modLaunch_msgs (c : Nat) (f : Launch → Launch) : (s.modLaunch c f).msgs = s.msgs := rfl
@[simp] theorem State.modLaunch_pendingRecs (c : Nat) (f : Launch → Launch) : (s.modLaunch c f).pendingRecs = s.pendingRecs := rfl
@[simp] theorem State.modLaunch_ovfNext (c : Nat) (f : Launch → Launch) : (s.modLaunch c f).ovfNext = s.ovfNext := rfl
@[simp] theorem State.modLaunch_preempt (c : Nat) (f : Launch → Launch) : (s.modLaunch c f).preempt = s.preempt := rfl
@[simp] theorem State.modLaunch_restoring (c : Nat) (f : Launch → Launch) : (s.modLaunch c f).restoring = s.restoring := rfl
@[simp] theorem State.modLaunch_flipping (c : Nat) (f : Launch → Launch) : (s.modLaunch c f).flipping = s.flipping := rfl
@[simp] theorem State.modLaunch_dsel (c : Nat) (f : Launch → Launch) : (s.modLaunch c f).dsel = s.dsel := rfl
@[simp] theorem State.modLaunch_retired (c : Nat) (f : Launch → Launch) : (s.modLaunch c f).retired = s.retired := rfl
@[simp] theorem State.modLaunch_stopped (c : Nat) (f : Launch → Launch) : (s.modLaunch c f).stopped = s.stopped := rfl
@[simp] theorem State.modLaunch_service (c : Nat) (f : Launch → Launch) : (s.modLaunch c f).service = s.service := rfl
@[simp] theorem State.modLaunch_outside (c : Nat) (f : Launch → Launch) : (s.modLaunch c f).outside = s.outside := rfl
@[simp] theorem State.modLaunch_nextId (c : Nat) (f : Launch → Launch) : (s.modLaunch c f).nextId = s.nextId := rfl
@[simp] theorem State.modLaunch_issues (c : Nat) (f : Launch → Launch) : (s.modLaunch c f).issues = s.issues := rfl
@[simp] theorem State.modLaunch_rr (c : Nat) (f : Launch → Launch) : (s.modLaunch c f).rr = s.rr := rfl
@[simp] theorem State.modLaunch_schedule (c : Nat) (f : Launch → Launch) : (s.modLaunch c f).schedule = s.schedule := rfl
@[simp] theorem State.modLaunch_issuing (c : Nat) (f : Launch → Launch) : (s.modLaunch c f).issuing = s.issuing := rfl

@[simp] theorem State.modCluster_gt (c i : Nat) (f : Cluster → Cluster) : (s.modCluster c i f).gt = s.gt := rfl
@[simp] theorem State.modCluster_cycle (c i : Nat) (f : Cluster → Cluster) : (s.modCluster c i f).cycle = s.cycle := rfl
@[simp] theorem State.modCluster_skews (c i : Nat) (f : Cluster → Cluster) : (s.modCluster c i f).skews = s.skews := rfl
@[simp] theorem State.modCluster_sys (c i : Nat) (f : Cluster → Cluster) : (s.modCluster c i f).sys = s.sys := rfl
@[simp] theorem State.modCluster_banks (c i : Nat) (f : Cluster → Cluster) : (s.modCluster c i f).banks = s.banks := rfl
@[simp] theorem State.modCluster_gens (c i : Nat) (f : Cluster → Cluster) : (s.modCluster c i f).gens = s.gens := rfl
@[simp] theorem State.modCluster_launches (c i : Nat) (f : Cluster → Cluster) : (s.modCluster c i f).launches = s.launches := rfl
@[simp] theorem State.modCluster_lastQueue (c i : Nat) (f : Cluster → Cluster) : (s.modCluster c i f).lastQueue = s.lastQueue := rfl
@[simp] theorem State.modCluster_acceptNo (c i : Nat) (f : Cluster → Cluster) : (s.modCluster c i f).acceptNo = s.acceptNo := rfl
@[simp] theorem State.modCluster_blocks (c i : Nat) (f : Cluster → Cluster) : (s.modCluster c i f).blocks = s.blocks := rfl
@[simp] theorem State.modCluster_warps (c i : Nat) (f : Cluster → Cluster) : (s.modCluster c i f).warps = s.warps := rfl
@[simp] theorem State.modCluster_forms (c i : Nat) (f : Cluster → Cluster) : (s.modCluster c i f).forms = s.forms := rfl
@[simp] theorem State.modCluster_reserved (c i : Nat) (f : Cluster → Cluster) : (s.modCluster c i f).reserved = s.reserved := rfl
@[simp] theorem State.modCluster_reqs (c i : Nat) (f : Cluster → Cluster) : (s.modCluster c i f).reqs = s.reqs := rfl
@[simp] theorem State.modCluster_copies (c i : Nat) (f : Cluster → Cluster) : (s.modCluster c i f).copies = s.copies := rfl
@[simp] theorem State.modCluster_fills (c i : Nat) (f : Cluster → Cluster) : (s.modCluster c i f).fills = s.fills := rfl
@[simp] theorem State.modCluster_ccache (c i : Nat) (f : Cluster → Cluster) : (s.modCluster c i f).ccache = s.ccache := rfl
@[simp] theorem State.modCluster_icache (c i : Nat) (f : Cluster → Cluster) : (s.modCluster c i f).icache = s.icache := rfl
@[simp] theorem State.modCluster_cwaits (c i : Nat) (f : Cluster → Cluster) : (s.modCluster c i f).cwaits = s.cwaits := rfl
@[simp] theorem State.modCluster_tlbs (c i : Nat) (f : Cluster → Cluster) : (s.modCluster c i f).tlbs = s.tlbs := rfl
@[simp] theorem State.modCluster_mends (c i : Nat) (f : Cluster → Cluster) : (s.modCluster c i f).mends = s.mends := rfl
@[simp] theorem State.modCluster_hbm (c i : Nat) (f : Cluster → Cluster) : (s.modCluster c i f).hbm = s.hbm := rfl
@[simp] theorem State.modCluster_l2 (c i : Nat) (f : Cluster → Cluster) : (s.modCluster c i f).l2 = s.l2 := rfl
@[simp] theorem State.modCluster_leases (c i : Nat) (f : Cluster → Cluster) : (s.modCluster c i f).leases = s.leases := rfl
@[simp] theorem State.modCluster_ev (c i : Nat) (f : Cluster → Cluster) : (s.modCluster c i f).ev = s.ev := rfl
@[simp] theorem State.modCluster_poison (c i : Nat) (f : Cluster → Cluster) : (s.modCluster c i f).poison = s.poison := rfl
@[simp] theorem State.modCluster_badSram (c i : Nat) (f : Cluster → Cluster) : (s.modCluster c i f).badSram = s.badSram := rfl
@[simp] theorem State.modCluster_sealedFrames (c i : Nat) (f : Cluster → Cluster) : (s.modCluster c i f).sealedFrames = s.sealedFrames := rfl
@[simp] theorem State.modCluster_lineSlots (c i : Nat) (f : Cluster → Cluster) : (s.modCluster c i f).lineSlots = s.lineSlots := rfl
@[simp] theorem State.modCluster_pins (c i : Nat) (f : Cluster → Cluster) : (s.modCluster c i f).pins = s.pins := rfl
@[simp] theorem State.modCluster_moving (c i : Nat) (f : Cluster → Cluster) : (s.modCluster c i f).moving = s.moving := rfl
@[simp] theorem State.modCluster_rsv (c i : Nat) (f : Cluster → Cluster) : (s.modCluster c i f).rsv = s.rsv := rfl
@[simp] theorem State.modCluster_returned (c i : Nat) (f : Cluster → Cluster) : (s.modCluster c i f).returned = s.returned := rfl
@[simp] theorem State.modCluster_copyOps (c i : Nat) (f : Cluster → Cluster) : (s.modCluster c i f).copyOps = s.copyOps := rfl
@[simp] theorem State.modCluster_shelf (c i : Nat) (f : Cluster → Cluster) : (s.modCluster c i f).shelf = s.shelf := rfl
@[simp] theorem State.modCluster_drops (c i : Nat) (f : Cluster → Cluster) : (s.modCluster c i f).drops = s.drops := rfl
@[simp] theorem State.modCluster_g5 (c i : Nat) (f : Cluster → Cluster) : (s.modCluster c i f).g5 = s.g5 := rfl
@[simp] theorem State.modCluster_packets (c i : Nat) (f : Cluster → Cluster) : (s.modCluster c i f).packets = s.packets := rfl
@[simp] theorem State.modCluster_msgs (c i : Nat) (f : Cluster → Cluster) : (s.modCluster c i f).msgs = s.msgs := rfl
@[simp] theorem State.modCluster_pendingRecs (c i : Nat) (f : Cluster → Cluster) : (s.modCluster c i f).pendingRecs = s.pendingRecs := rfl
@[simp] theorem State.modCluster_ovfNext (c i : Nat) (f : Cluster → Cluster) : (s.modCluster c i f).ovfNext = s.ovfNext := rfl
@[simp] theorem State.modCluster_preempt (c i : Nat) (f : Cluster → Cluster) : (s.modCluster c i f).preempt = s.preempt := rfl
@[simp] theorem State.modCluster_restoring (c i : Nat) (f : Cluster → Cluster) : (s.modCluster c i f).restoring = s.restoring := rfl
@[simp] theorem State.modCluster_flipping (c i : Nat) (f : Cluster → Cluster) : (s.modCluster c i f).flipping = s.flipping := rfl
@[simp] theorem State.modCluster_dsel (c i : Nat) (f : Cluster → Cluster) : (s.modCluster c i f).dsel = s.dsel := rfl
@[simp] theorem State.modCluster_retired (c i : Nat) (f : Cluster → Cluster) : (s.modCluster c i f).retired = s.retired := rfl
@[simp] theorem State.modCluster_stopped (c i : Nat) (f : Cluster → Cluster) : (s.modCluster c i f).stopped = s.stopped := rfl
@[simp] theorem State.modCluster_service (c i : Nat) (f : Cluster → Cluster) : (s.modCluster c i f).service = s.service := rfl
@[simp] theorem State.modCluster_outside (c i : Nat) (f : Cluster → Cluster) : (s.modCluster c i f).outside = s.outside := rfl
@[simp] theorem State.modCluster_nextId (c i : Nat) (f : Cluster → Cluster) : (s.modCluster c i f).nextId = s.nextId := rfl
@[simp] theorem State.modCluster_issues (c i : Nat) (f : Cluster → Cluster) : (s.modCluster c i f).issues = s.issues := rfl
@[simp] theorem State.modCluster_rr (c i : Nat) (f : Cluster → Cluster) : (s.modCluster c i f).rr = s.rr := rfl
@[simp] theorem State.modCluster_schedule (c i : Nat) (f : Cluster → Cluster) : (s.modCluster c i f).schedule = s.schedule := rfl
@[simp] theorem State.modCluster_issuing (c i : Nat) (f : Cluster → Cluster) : (s.modCluster c i f).issuing = s.issuing := rfl

@[simp] theorem State.modBlock_gt (c i b : Nat) (f : Block → Block) : (s.modBlock c i b f).gt = s.gt := rfl
@[simp] theorem State.modBlock_cycle (c i b : Nat) (f : Block → Block) : (s.modBlock c i b f).cycle = s.cycle := rfl
@[simp] theorem State.modBlock_skews (c i b : Nat) (f : Block → Block) : (s.modBlock c i b f).skews = s.skews := rfl
@[simp] theorem State.modBlock_sys (c i b : Nat) (f : Block → Block) : (s.modBlock c i b f).sys = s.sys := rfl
@[simp] theorem State.modBlock_banks (c i b : Nat) (f : Block → Block) : (s.modBlock c i b f).banks = s.banks := rfl
@[simp] theorem State.modBlock_gens (c i b : Nat) (f : Block → Block) : (s.modBlock c i b f).gens = s.gens := rfl
@[simp] theorem State.modBlock_launches (c i b : Nat) (f : Block → Block) : (s.modBlock c i b f).launches = s.launches := rfl
@[simp] theorem State.modBlock_lastQueue (c i b : Nat) (f : Block → Block) : (s.modBlock c i b f).lastQueue = s.lastQueue := rfl
@[simp] theorem State.modBlock_acceptNo (c i b : Nat) (f : Block → Block) : (s.modBlock c i b f).acceptNo = s.acceptNo := rfl
@[simp] theorem State.modBlock_clusters (c i b : Nat) (f : Block → Block) : (s.modBlock c i b f).clusters = s.clusters := rfl
@[simp] theorem State.modBlock_warps (c i b : Nat) (f : Block → Block) : (s.modBlock c i b f).warps = s.warps := rfl
@[simp] theorem State.modBlock_forms (c i b : Nat) (f : Block → Block) : (s.modBlock c i b f).forms = s.forms := rfl
@[simp] theorem State.modBlock_reserved (c i b : Nat) (f : Block → Block) : (s.modBlock c i b f).reserved = s.reserved := rfl
@[simp] theorem State.modBlock_reqs (c i b : Nat) (f : Block → Block) : (s.modBlock c i b f).reqs = s.reqs := rfl
@[simp] theorem State.modBlock_copies (c i b : Nat) (f : Block → Block) : (s.modBlock c i b f).copies = s.copies := rfl
@[simp] theorem State.modBlock_fills (c i b : Nat) (f : Block → Block) : (s.modBlock c i b f).fills = s.fills := rfl
@[simp] theorem State.modBlock_ccache (c i b : Nat) (f : Block → Block) : (s.modBlock c i b f).ccache = s.ccache := rfl
@[simp] theorem State.modBlock_icache (c i b : Nat) (f : Block → Block) : (s.modBlock c i b f).icache = s.icache := rfl
@[simp] theorem State.modBlock_cwaits (c i b : Nat) (f : Block → Block) : (s.modBlock c i b f).cwaits = s.cwaits := rfl
@[simp] theorem State.modBlock_tlbs (c i b : Nat) (f : Block → Block) : (s.modBlock c i b f).tlbs = s.tlbs := rfl
@[simp] theorem State.modBlock_mends (c i b : Nat) (f : Block → Block) : (s.modBlock c i b f).mends = s.mends := rfl
@[simp] theorem State.modBlock_hbm (c i b : Nat) (f : Block → Block) : (s.modBlock c i b f).hbm = s.hbm := rfl
@[simp] theorem State.modBlock_l2 (c i b : Nat) (f : Block → Block) : (s.modBlock c i b f).l2 = s.l2 := rfl
@[simp] theorem State.modBlock_leases (c i b : Nat) (f : Block → Block) : (s.modBlock c i b f).leases = s.leases := rfl
@[simp] theorem State.modBlock_ev (c i b : Nat) (f : Block → Block) : (s.modBlock c i b f).ev = s.ev := rfl
@[simp] theorem State.modBlock_poison (c i b : Nat) (f : Block → Block) : (s.modBlock c i b f).poison = s.poison := rfl
@[simp] theorem State.modBlock_badSram (c i b : Nat) (f : Block → Block) : (s.modBlock c i b f).badSram = s.badSram := rfl
@[simp] theorem State.modBlock_sealedFrames (c i b : Nat) (f : Block → Block) : (s.modBlock c i b f).sealedFrames = s.sealedFrames := rfl
@[simp] theorem State.modBlock_lineSlots (c i b : Nat) (f : Block → Block) : (s.modBlock c i b f).lineSlots = s.lineSlots := rfl
@[simp] theorem State.modBlock_pins (c i b : Nat) (f : Block → Block) : (s.modBlock c i b f).pins = s.pins := rfl
@[simp] theorem State.modBlock_moving (c i b : Nat) (f : Block → Block) : (s.modBlock c i b f).moving = s.moving := rfl
@[simp] theorem State.modBlock_rsv (c i b : Nat) (f : Block → Block) : (s.modBlock c i b f).rsv = s.rsv := rfl
@[simp] theorem State.modBlock_returned (c i b : Nat) (f : Block → Block) : (s.modBlock c i b f).returned = s.returned := rfl
@[simp] theorem State.modBlock_copyOps (c i b : Nat) (f : Block → Block) : (s.modBlock c i b f).copyOps = s.copyOps := rfl
@[simp] theorem State.modBlock_shelf (c i b : Nat) (f : Block → Block) : (s.modBlock c i b f).shelf = s.shelf := rfl
@[simp] theorem State.modBlock_drops (c i b : Nat) (f : Block → Block) : (s.modBlock c i b f).drops = s.drops := rfl
@[simp] theorem State.modBlock_g5 (c i b : Nat) (f : Block → Block) : (s.modBlock c i b f).g5 = s.g5 := rfl
@[simp] theorem State.modBlock_packets (c i b : Nat) (f : Block → Block) : (s.modBlock c i b f).packets = s.packets := rfl
@[simp] theorem State.modBlock_msgs (c i b : Nat) (f : Block → Block) : (s.modBlock c i b f).msgs = s.msgs := rfl
@[simp] theorem State.modBlock_pendingRecs (c i b : Nat) (f : Block → Block) : (s.modBlock c i b f).pendingRecs = s.pendingRecs := rfl
@[simp] theorem State.modBlock_ovfNext (c i b : Nat) (f : Block → Block) : (s.modBlock c i b f).ovfNext = s.ovfNext := rfl
@[simp] theorem State.modBlock_preempt (c i b : Nat) (f : Block → Block) : (s.modBlock c i b f).preempt = s.preempt := rfl
@[simp] theorem State.modBlock_restoring (c i b : Nat) (f : Block → Block) : (s.modBlock c i b f).restoring = s.restoring := rfl
@[simp] theorem State.modBlock_flipping (c i b : Nat) (f : Block → Block) : (s.modBlock c i b f).flipping = s.flipping := rfl
@[simp] theorem State.modBlock_dsel (c i b : Nat) (f : Block → Block) : (s.modBlock c i b f).dsel = s.dsel := rfl
@[simp] theorem State.modBlock_retired (c i b : Nat) (f : Block → Block) : (s.modBlock c i b f).retired = s.retired := rfl
@[simp] theorem State.modBlock_stopped (c i b : Nat) (f : Block → Block) : (s.modBlock c i b f).stopped = s.stopped := rfl
@[simp] theorem State.modBlock_service (c i b : Nat) (f : Block → Block) : (s.modBlock c i b f).service = s.service := rfl
@[simp] theorem State.modBlock_outside (c i b : Nat) (f : Block → Block) : (s.modBlock c i b f).outside = s.outside := rfl
@[simp] theorem State.modBlock_nextId (c i b : Nat) (f : Block → Block) : (s.modBlock c i b f).nextId = s.nextId := rfl
@[simp] theorem State.modBlock_issues (c i b : Nat) (f : Block → Block) : (s.modBlock c i b f).issues = s.issues := rfl
@[simp] theorem State.modBlock_rr (c i b : Nat) (f : Block → Block) : (s.modBlock c i b f).rr = s.rr := rfl
@[simp] theorem State.modBlock_schedule (c i b : Nat) (f : Block → Block) : (s.modBlock c i b f).schedule = s.schedule := rfl
@[simp] theorem State.modBlock_issuing (c i b : Nat) (f : Block → Block) : (s.modBlock c i b f).issuing = s.issuing := rfl

@[simp] theorem State.interrupt_gt (v : Nat) : (s.interrupt v).gt = s.gt := rfl
@[simp] theorem State.interrupt_cycle (v : Nat) : (s.interrupt v).cycle = s.cycle := rfl
@[simp] theorem State.interrupt_skews (v : Nat) : (s.interrupt v).skews = s.skews := rfl
@[simp] theorem State.interrupt_sys (v : Nat) : (s.interrupt v).sys = s.sys := rfl
@[simp] theorem State.interrupt_banks (v : Nat) : (s.interrupt v).banks = s.banks := rfl
@[simp] theorem State.interrupt_gens (v : Nat) : (s.interrupt v).gens = s.gens := rfl
@[simp] theorem State.interrupt_launches (v : Nat) : (s.interrupt v).launches = s.launches := rfl
@[simp] theorem State.interrupt_lastQueue (v : Nat) : (s.interrupt v).lastQueue = s.lastQueue := rfl
@[simp] theorem State.interrupt_acceptNo (v : Nat) : (s.interrupt v).acceptNo = s.acceptNo := rfl
@[simp] theorem State.interrupt_clusters (v : Nat) : (s.interrupt v).clusters = s.clusters := rfl
@[simp] theorem State.interrupt_blocks (v : Nat) : (s.interrupt v).blocks = s.blocks := rfl
@[simp] theorem State.interrupt_warps (v : Nat) : (s.interrupt v).warps = s.warps := rfl
@[simp] theorem State.interrupt_forms (v : Nat) : (s.interrupt v).forms = s.forms := rfl
@[simp] theorem State.interrupt_reserved (v : Nat) : (s.interrupt v).reserved = s.reserved := rfl
@[simp] theorem State.interrupt_reqs (v : Nat) : (s.interrupt v).reqs = s.reqs := rfl
@[simp] theorem State.interrupt_copies (v : Nat) : (s.interrupt v).copies = s.copies := rfl
@[simp] theorem State.interrupt_fills (v : Nat) : (s.interrupt v).fills = s.fills := rfl
@[simp] theorem State.interrupt_ccache (v : Nat) : (s.interrupt v).ccache = s.ccache := rfl
@[simp] theorem State.interrupt_icache (v : Nat) : (s.interrupt v).icache = s.icache := rfl
@[simp] theorem State.interrupt_cwaits (v : Nat) : (s.interrupt v).cwaits = s.cwaits := rfl
@[simp] theorem State.interrupt_tlbs (v : Nat) : (s.interrupt v).tlbs = s.tlbs := rfl
@[simp] theorem State.interrupt_mends (v : Nat) : (s.interrupt v).mends = s.mends := rfl
@[simp] theorem State.interrupt_hbm (v : Nat) : (s.interrupt v).hbm = s.hbm := rfl
@[simp] theorem State.interrupt_l2 (v : Nat) : (s.interrupt v).l2 = s.l2 := rfl
@[simp] theorem State.interrupt_leases (v : Nat) : (s.interrupt v).leases = s.leases := rfl
@[simp] theorem State.interrupt_ev (v : Nat) : (s.interrupt v).ev = s.ev := rfl
@[simp] theorem State.interrupt_poison (v : Nat) : (s.interrupt v).poison = s.poison := rfl
@[simp] theorem State.interrupt_badSram (v : Nat) : (s.interrupt v).badSram = s.badSram := rfl
@[simp] theorem State.interrupt_sealedFrames (v : Nat) : (s.interrupt v).sealedFrames = s.sealedFrames := rfl
@[simp] theorem State.interrupt_lineSlots (v : Nat) : (s.interrupt v).lineSlots = s.lineSlots := rfl
@[simp] theorem State.interrupt_pins (v : Nat) : (s.interrupt v).pins = s.pins := rfl
@[simp] theorem State.interrupt_moving (v : Nat) : (s.interrupt v).moving = s.moving := rfl
@[simp] theorem State.interrupt_rsv (v : Nat) : (s.interrupt v).rsv = s.rsv := rfl
@[simp] theorem State.interrupt_returned (v : Nat) : (s.interrupt v).returned = s.returned := rfl
@[simp] theorem State.interrupt_copyOps (v : Nat) : (s.interrupt v).copyOps = s.copyOps := rfl
@[simp] theorem State.interrupt_shelf (v : Nat) : (s.interrupt v).shelf = s.shelf := rfl
@[simp] theorem State.interrupt_drops (v : Nat) : (s.interrupt v).drops = s.drops := rfl
@[simp] theorem State.interrupt_g5 (v : Nat) : (s.interrupt v).g5 = s.g5 := rfl
@[simp] theorem State.interrupt_packets (v : Nat) : (s.interrupt v).packets = s.packets := rfl
@[simp] theorem State.interrupt_msgs (v : Nat) : (s.interrupt v).msgs = s.msgs := rfl
@[simp] theorem State.interrupt_pendingRecs (v : Nat) : (s.interrupt v).pendingRecs = s.pendingRecs := rfl
@[simp] theorem State.interrupt_ovfNext (v : Nat) : (s.interrupt v).ovfNext = s.ovfNext := rfl
@[simp] theorem State.interrupt_preempt (v : Nat) : (s.interrupt v).preempt = s.preempt := rfl
@[simp] theorem State.interrupt_restoring (v : Nat) : (s.interrupt v).restoring = s.restoring := rfl
@[simp] theorem State.interrupt_flipping (v : Nat) : (s.interrupt v).flipping = s.flipping := rfl
@[simp] theorem State.interrupt_dsel (v : Nat) : (s.interrupt v).dsel = s.dsel := rfl
@[simp] theorem State.interrupt_retired (v : Nat) : (s.interrupt v).retired = s.retired := rfl
@[simp] theorem State.interrupt_stopped (v : Nat) : (s.interrupt v).stopped = s.stopped := rfl
@[simp] theorem State.interrupt_service (v : Nat) : (s.interrupt v).service = s.service := rfl
@[simp] theorem State.interrupt_nextId (v : Nat) : (s.interrupt v).nextId = s.nextId := rfl
@[simp] theorem State.interrupt_issues (v : Nat) : (s.interrupt v).issues = s.issues := rfl
@[simp] theorem State.interrupt_rr (v : Nat) : (s.interrupt v).rr = s.rr := rfl
@[simp] theorem State.interrupt_schedule (v : Nat) : (s.interrupt v).schedule = s.schedule := rfl
@[simp] theorem State.interrupt_issuing (v : Nat) : (s.interrupt v).issuing = s.issuing := rfl

end Sys2Proof.Machine
end

