-- ==== Sys2Proof/Laws/Issue.lean ====
section
/-! SUPPORT. Lanes, warps and the shared frame of an issue: what each operation on a warp leaves as it was, what stands
behind an issuing path, and everything that completing an issue does. -/

namespace Sys2Proof.Machine

open Sys2Proof Sys2Proof.Claims

/-! ### Lanes of a warp -/

theorem Warp.lane_eq (w : Warp) (i : Nat) : w.lane i = (w.lanes[i]?).getD Lane.dead := by
  simp [Warp.lane, List.getD_eq_getElem?_getD]

@[simp] theorem Warp.modLanes_length (w : Warp) (is : List Nat) (f : Nat → Lane → Lane) :
    (w.modLanes is f).lanes.length = w.lanes.length := by
  simp [Warp.modLanes]

/-- A lane of a warp after a function was applied to a list of its lanes. -/
theorem Warp.lane_modLanes (w : Warp) (is : List Nat) (f : Nat → Lane → Lane) (i : Nat) (h : i < w.lanes.length) :
    (w.modLanes is f).lane i = if i ∈ is then f i (w.lane i) else w.lane i := by
  simp only [Warp.lane_eq, Warp.modLanes, List.getElem?_mapIdx]
  rw [List.getElem?_eq_getElem h]
  by_cases hi : i ∈ is <;> simp [hi]

/-- A lane that is not named stays as it was. -/
theorem Warp.lane_modLanes_not_mem (w : Warp) (is : List Nat) (f : Nat → Lane → Lane) (i : Nat) (h : i ∉ is) :
    (w.modLanes is f).lane i = w.lane i := by
  simp only [Warp.lane_eq, Warp.modLanes, List.getElem?_mapIdx]
  cases w.lanes[i]? <;> simp [h]

theorem Warp.lane_of_lanes_eq {w w' : Warp} (h : w'.lanes = w.lanes) (i : Nat) : w'.lane i = w.lane i := by
  simp [Warp.lane, h]

/-- A lane that is not dead is one of the warp's lanes. -/
theorem Warp.lt_length_of_status {w : Warp} {i : Nat} (h : (w.lane i).status ≠ .exited) : i < w.lanes.length := by
  by_contra hn
  apply h
  rw [Warp.lane_eq, List.getElem?_eq_none (by omega)]
  rfl

theorem Warp.mem_activeAt {w : Warp} {pc : VAddr} {i : Nat} :
    i ∈ w.activeAt pc ↔ i < 32 ∧ (w.lane i).status = .runnable ∧ (w.lane i).pc = pc := by
  simp [Warp.activeAt]

theorem Warp.lt_length_of_mem_activeAt {w : Warp} {pc : VAddr} {i : Nat} (h : i ∈ w.activeAt pc) : i < w.lanes.length :=
  Warp.lt_length_of_status (by rw [(Warp.mem_activeAt.1 h).2.1]; decide)

/-! ### What the turn's bookkeeping leaves -/

/-- A turn's bookkeeping changes the current path, the waiting times and the turn's start alone. -/
theorem Warp.refresh_eq (w : Warp) (n : Nat) :
    w.refresh n = { w with cur := (w.refresh n).cur, since := (w.refresh n).since,
                           turnStart := (w.refresh n).turnStart } := by
  unfold Warp.refresh
  dsimp only
  repeat' split
  all_goals rfl

@[simp] theorem Warp.refresh_lanes (w : Warp) (n : Nat) : (w.refresh n).lanes = w.lanes := by rw [Warp.refresh_eq]
@[simp] theorem Warp.refresh_core (w : Warp) (n : Nat) : (w.refresh n).core = w.core := by rw [Warp.refresh_eq]
@[simp] theorem Warp.refresh_slot (w : Warp) (n : Nat) : (w.refresh n).slot = w.slot := by rw [Warp.refresh_eq]
@[simp] theorem Warp.refresh_lane (w : Warp) (n i : Nat) : (w.refresh n).lane i = w.lane i := by
  simp [Warp.lane]

theorem Warp.endTurn_eq (w : Warp) (n : Nat) (p : VAddr) :
    w.endTurn n p = { w with cur := (w.endTurn n p).cur, since := (w.endTurn n p).since,
                             turnStart := (w.endTurn n p).turnStart } := by
  unfold Warp.endTurn
  rw [Warp.refresh_eq]

@[simp] theorem Warp.endTurn_lanes (w : Warp) (n : Nat) (p : VAddr) : (w.endTurn n p).lanes = w.lanes := by
  rw [Warp.endTurn_eq]

@[simp] theorem Warp.endTurn_lane (w : Warp) (n : Nat) (p : VAddr) (i : Nat) : (w.endTurn n p).lane i = w.lane i := by
  simp [Warp.lane]

/-- The path that has waited longest is one of the paths. -/
theorem longest_mem (f : VAddr → Nat) : ∀ (ps : List VAddr) (p : VAddr), longest f ps = some p → p ∈ ps
  | [], _, h => by simp [longest] at h
  | q :: qs, p, h => by
    simp only [longest] at h
    split at h
    · simp_all
    · rename_i r hr
      split at h
      · simp only [Option.some.injEq] at h
        subst h
        exact List.mem_cons_of_mem _ (longest_mem f qs _ hr)
      · simp_all

/-! ### Writing registers -/

/-- The words of a value put over a register list, one by one. -/
theorem putWords_eq (l : List Word) (n : Nat) (ws : List Word) :
    putWords l n ws = l.mapIdx fun j r => if n ≤ j ∧ j < n + ws.length then ws.getD (j - n) 0 else r := by
  induction ws generalizing l n with
  | nil =>
    simp only [putWords]
    apply List.ext_getElem?
    intro j
    have h : ¬(n ≤ j ∧ j < n) := by omega
    rw [List.getElem?_mapIdx]
    cases l[j]? <;> simp [h]
  | cons w ws ih =>
    simp only [putWords, ih, setAt]
    apply List.ext_getElem?
    intro j
    simp only [List.getElem?_mapIdx, List.getElem?_set, List.length_cons]
    by_cases hj : n = j
    · subst hj
      by_cases hl : n < l.length <;> simp [hl]
    · simp only [hj, if_false]
      cases l[j]? with
      | none => rfl
      | some r =>
        simp only [Option.map_some, Option.some.injEq]
        by_cases h : n + 1 ≤ j ∧ j < n + 1 + ws.length
        · have h' : n ≤ j ∧ j < n + (ws.length + 1) := by omega
          have hs : j - n = (j - (n + 1)) + 1 := by omega
          simp only [h, h', and_self, if_true, hs, List.getD_cons_succ]
        · have h' : ¬(n ≤ j ∧ j < n + (ws.length + 1)) := by omega
          rw [if_neg h, if_neg h']

theorem splitWords_length (v n : Nat) : (splitWords v n).length = n := by
  induction n generalizing v with
  | zero => rfl
  | succ n ih => simp [splitWords, ih]

theorem splitWords_getD (v n j : Nat) (h : j < n) : (splitWords v n).getD j 0 = BitVec.ofNat 32 (v / 2 ^ (32 * j)) := by
  induction n generalizing v j with
  | zero => omega
  | succ n ih =>
    cases j with
    | zero => simp [splitWords]
    | succ j =>
      simp only [splitWords, List.getD_cons_succ]
      rw [ih _ j (by omega), Nat.div_div_eq_div_mul, ← Nat.pow_add]
      congr 3
      ring

theorem putWords_splitWords (l : List Word) (n regs val : Nat) :
    putWords l n (splitWords val regs) = regsAfter l n regs val := by
  rw [putWords_eq, regsAfter, splitWords_length]
  apply List.ext_getElem?
  intro j
  simp only [List.getElem?_mapIdx]
  cases l[j]? with
  | none => rfl
  | some r =>
    simp only [Option.map_some, Option.some.injEq]
    by_cases h : n ≤ j ∧ j < n + regs
    · rw [if_pos h, if_pos h, splitWords_getD _ _ _ (by omega)]
    · rw [if_neg h, if_neg h]

theorem find_map_fst (ex : List Nat) (f : Nat → Nat) (i : Nat) :
    ((ex.map fun i => (i, f i)).find? fun p => p.1 == i) = if i ∈ ex then some (i, f i) else none := by
  induction ex with
  | nil => simp
  | cons e ex ih =>
    by_cases he : e = i
    · subst he; simp
    · have hb : (e == i) = false := by simp [he]
      simp only [List.map_cons, List.find?_cons, hb, ih, List.mem_cons, Ne.symm he, false_or]

/-- What a write to a destination does to the warp: a vector register of each executing lane, the uniform register from the
lowest executing lane; `z` and specials nothing (R40, R115). -/
theorem Warp.write_eq (w : Warp) (d : Sel) (regs : Nat) (ex : List Nat) (f : Nat → Nat) :
    w.write d regs (ex.map fun i => (i, f i)) =
      match d with
      | .v n => w.modLanes ex fun i l => { l with v := regsAfter l.v n.toNat regs (f i) }
      | .k n => if ex = [] then w else { w with k := regsAfter w.k (n.toNat - 32) regs (f (ex.headD 0)) }
      | .sp _ => w
      | .z => w := by
  cases d with
  | v n =>
    simp only [Warp.write, Warp.modLanes]
    congr 1
    apply List.ext_getElem?
    intro i
    simp only [List.getElem?_mapIdx]
    cases w.lanes[i]? with
    | none => rfl
    | some l =>
      simp only [Option.map_some, Option.some.injEq, find_map_fst]
      by_cases h : i ∈ ex <;> simp [h, putWords_splitWords]
  | k n =>
    cases ex with
    | nil => rfl
    | cons e ex => simp [Warp.write, putWords_splitWords]
  | sp r => rfl
  | z => rfl

/-! ### The issuing path -/

/-- What stands behind an issuing path. -/
structure Standing (s : State) (g : Guard) (x : Iss) : Prop where
  state : x.s = s
  warp : s.warp? x.w.core x.w.slot = some x.w
  issuing : s.issuing = some (x.w.core, x.w.slot)
  launch : s.launch? x.w.ctx = some x.l
  cluster : s.cluster? x.w.ctx x.w.cluster = some x.c
  cur : x.w.cur = some x.pc
  act : x.act = x.w.activeAt x.pc
  some : x.act ≠ []
  may : s.mayIssue x.w x.l = true
  ex : x.ex = x.act.filter fun i => (x.w.lane i).guard g

theorem State.warp?_key {s : State} {c k : Nat} {w : Warp} (h : s.warp? c k = some w) : w.core = c ∧ w.slot = k := by
  have := List.find?_some h
  simpa using this

/-- An issuing path stands in the state. -/
theorem State.standing_of_iss {s : State} {g : Guard} {x : Iss} (h : s.iss g = some x) : Standing s g x := by
  unfold State.iss at h
  split at h
  · simp at h
  · rename_i core slot hi
    split at h
    · simp at h
    · rename_i w hw
      split at h
      · rename_i l c pc hl hc hp
        dsimp only at h
        split at h
        · simp at h
        · rename_i hg
          simp only [Option.some.injEq] at h
          subst h
          obtain ⟨h1, h2⟩ := State.warp?_key hw
          simp only [Bool.or_eq_true, not_or, Bool.not_eq_true, Bool.not_eq_false', List.isEmpty_eq_false_iff] at hg
          exact ⟨rfl, by simpa [h1, h2] using hw, by simp [hi, h1, h2], hl, hc, hp, rfl,
            by simpa using hg.1, by simpa using hg.2, rfl⟩
      · simp at h

theorem Standing.mem_act {s : State} {g : Guard} {x : Iss} (h : Standing s g x) {i : Nat} (hi : i ∈ x.act) :
    i < x.w.lanes.length := by
  rw [h.act] at hi
  exact Warp.lt_length_of_mem_activeAt hi

theorem Standing.ex_act {s : State} {g : Guard} {x : Iss} (h : Standing s g x) {i : Nat} (hi : i ∈ x.ex) : i ∈ x.act := by
  rw [h.ex] at hi
  exact (List.mem_filter.1 hi).1

/-! ### The shared frame of an issue -/

/-- An instruction whose registers are allocated and free, legal, and privileged only in a supervisor launch, has its
body's effect. -/
theorem issue_ready {g : Guard} {s : State} {uses : List RegUse} {legal : Iss → Bool} {priv : Bool} {body : Iss → State}
    {x : Iss} (h : s.iss g = some x) (ha : ∀ u ∈ uses, u.1.inAlloc x.l.nreg = true) (hl : legal x = true)
    (hp : priv = true → x.l.super = true) (hz : x.hazard uses = false) :
    issue g s uses legal priv body = .next (body x) := by
  have h1 : (uses.all fun u => u.1.inAlloc x.l.nreg) = true := List.all_eq_true.2 ha
  have h2 : (priv && !x.l.super) = false := by
    cases priv with
    | false => rfl
    | true => simp [hp rfl]
  simp [issue, h, h1, hl, h2, hz]

/-- Every answer of an issue. -/
theorem issue_cases (g : Guard) (s : State) (uses : List RegUse) (legal : Iss → Bool) (priv : Bool) (body : Iss → State) :
    (s.iss g = none ∧ issue g s uses legal priv body = .fault .noIssuingPath) ∨
    ∃ x, s.iss g = some x ∧
      (issue g s uses legal priv body = .next (x.trap 0x01) ∨
       (priv = true ∧ x.l.super = false ∧ issue g s uses legal priv body = .next (x.trap 0x04)) ∨
       (x.hazard uses = true ∧ issue g s uses legal priv body = .next s) ∨
       issue g s uses legal priv body = .next (body x)) := by
  cases h : s.iss g with
  | none => exact .inl ⟨rfl, by simp [issue, h]⟩
  | some x =>
    refine .inr ⟨x, rfl, ?_⟩
    have hx : x.s = s := (State.standing_of_iss h).state
    simp only [issue, h]
    split
    · exact .inl rfl
    · split
      · rename_i h1 h2
        simp only [Bool.and_eq_true, Bool.not_eq_true'] at h2
        exact .inr (.inl ⟨h2.1, h2.2, rfl⟩)
      · split
        · rename_i h3
          exact .inr (.inr (.inl ⟨h3, by simp [Iss.hold, hx]⟩))
        · exact .inr (.inr (.inr rfl))

/-- An issue never refuses, and faults only when no path stands to issue. -/
theorem issue_total (g : Guard) (s : State) (uses : List RegUse) (legal : Iss → Bool) (priv : Bool) (body : Iss → State) :
    (∃ t, issue g s uses legal priv body = .next t) ∨
      (s.iss g = none ∧ issue g s uses legal priv body = .fault .noIssuingPath) := by
  rcases issue_cases g s uses legal priv body with h | ⟨x, -, h | ⟨-, -, h⟩ | ⟨-, h⟩ | h⟩
  · exact .inr h
  all_goals exact .inl ⟨_, h⟩

/-! ### Replacing the warp of a slot -/

theorem State.warp?_setWarp {s : State} {w w0 : Warp} (h : s.warp? w.core w.slot = some w0) :
    (s.setWarp w).warp? w.core w.slot = some w := by
  unfold State.warp? State.setWarp at *
  simp only [List.find?_map]
  have : ((fun w_1 : Warp => w_1.core == w.core && w_1.slot == w.slot) ∘ fun x : Warp =>
      if (x.core == w.core && x.slot == w.slot) = true then w else x) =
      fun x => x.core == w.core && x.slot == w.slot := by
    funext x
    by_cases hx : (x.core == w.core && x.slot == w.slot) = true
    · simp only [Function.comp, hx, if_true, beq_self_eq_true, Bool.and_self]
    · simp [Function.comp, hx]
  rw [this, h]
  have hk := List.find?_some h
  simp only [Option.map_some, hk, if_true]

theorem State.warp?_setWarp_ne {s : State} {w : Warp} {c k : Nat} (h : ¬(c = w.core ∧ k = w.slot)) :
    (s.setWarp w).warp? c k = s.warp? c k := by
  unfold State.warp? State.setWarp
  simp only [List.find?_map]
  have : ((fun w_1 : Warp => w_1.core == c && w_1.slot == k) ∘ fun x : Warp =>
      if (x.core == w.core && x.slot == w.slot) = true then w else x) =
      fun x => x.core == c && x.slot == k := by
    funext x
    by_cases hx : (x.core == w.core && x.slot == w.slot) = true
    · simp only [Function.comp, hx, if_true]
      simp only [Bool.and_eq_true, beq_iff_eq] at hx
      rw [hx.1, hx.2]
    · simp [Function.comp, hx]
  rw [this]
  cases hf : s.warps.find? fun x => x.core == c && x.slot == k with
  | none => rfl
  | some x =>
    have hk := List.find?_some hf
    simp only [Bool.and_eq_true, beq_iff_eq] at hk
    have hx : ¬((x.core == w.core && x.slot == w.slot) = true) := by
      simp only [Bool.and_eq_true, beq_iff_eq]
      rintro ⟨h1, h2⟩
      exact h ⟨by omega, by omega⟩
    simp only [Option.map_some, if_neg hx]

/-! ### Completing an issue -/

theorem Iss.mark_lane (x : Iss) (w : Warp) (i : Nat) (h : i < w.lanes.length) :
    (x.mark w).lane i = if i ∈ x.act then { w.lane i with lastIssue := x.s.cycle } else w.lane i := by
  have : (x.mark w).lane i = (w.modLanes x.act fun _ l => { l with lastIssue := x.s.cycle }).lane i :=
    Warp.lane_of_lanes_eq rfl i
  rw [this, Warp.lane_modLanes _ _ _ _ h]

theorem Iss.mark_lane_not_mem (x : Iss) (w : Warp) (i : Nat) (h : i ∉ x.act) : (x.mark w).lane i = w.lane i := by
  have : (x.mark w).lane i = (w.modLanes x.act fun _ l => { l with lastIssue := x.s.cycle }).lane i :=
    Warp.lane_of_lanes_eq rfl i
  rw [this, Warp.lane_modLanes_not_mem _ _ _ _ h]

/-- The warp of the issue in the state after `settle`. -/
def Iss.settled (x : Iss) (s : State) (w : Warp) (lead : Nat) : Warp :=
  Warp.refresh { x.mark w with cur :=
    if ((x.mark w).lane lead).status == .runnable then some ((x.mark w).lane lead).pc else none } s.cycle

theorem Iss.settle_eq (x : Iss) (s : State) (w : Warp) (lead : Nat) :
    x.settle s w lead = { s.setWarp (x.settled s w lead) with issues := s.issues + 1 } := rfl

theorem Iss.settled_turned (x : Iss) (s : State) (w : Warp) (lead : Nat) : Turned w (x.settled s w lead) := by
  unfold Turned Iss.settled
  rw [Warp.refresh_eq]
  rfl

theorem Iss.settled_lane (x : Iss) (s : State) (w : Warp) (lead i : Nat) :
    (x.settled s w lead).lane i = (x.mark w).lane i := by
  unfold Iss.settled
  rw [Warp.refresh_lane]
  rfl

/-- The warp of the issue in the state after `settleEnd`. -/
def Iss.settledEnd (x : Iss) (s : State) (w : Warp) (lead : Nat) : Warp :=
  (x.mark w).endTurn s.cycle ((x.mark w).lane lead).pc

theorem Iss.settleEnd_eq (x : Iss) (s : State) (w : Warp) (lead : Nat) :
    x.settleEnd s w lead = { s.setWarp (x.settledEnd s w lead) with issues := s.issues + 1 } := rfl

theorem Iss.settledEnd_turned (x : Iss) (s : State) (w : Warp) (lead : Nat) : Turned w (x.settledEnd s w lead) := by
  unfold Turned Iss.settledEnd
  rw [Warp.endTurn_eq]
  rfl

theorem Iss.settledEnd_lane (x : Iss) (s : State) (w : Warp) (lead i : Nat) :
    (x.settledEnd s w lead).lane i = (x.mark w).lane i := by
  unfold Iss.settledEnd
  rw [Warp.endTurn_lane]

end Sys2Proof.Machine
end

