-- ==== Sys2Proof/Laws/Effect.lean ====
section
/-! SUPPORT. What completing an issue does, in the terms of the claims: only the issuing warp changes, and every active lane
advances; the shared shapes of the register instructions. -/

namespace Sys2Proof.Claims

open Sys2Proof Sys2Proof.Machine

theorem Turned.core {w0 w : Warp} (h : Turned w0 w) : w.core = w0.core := by rw [h]
theorem Turned.slot {w0 w : Warp} (h : Turned w0 w) : w.slot = w0.slot := by rw [h]

theorem Turned.trans {a b c : Warp} (h : Turned a b) (h' : Turned b c) : Turned a c := by
  unfold Turned at *
  rw [h', h]

theorem Turned.modLanes (w : Warp) (is : List Nat) (f : Nat → Lane → Lane) : Turned w (w.modLanes is f) := rfl
theorem Turned.move (w : Warp) (is : List Nat) (e : VAddr) : Turned w (w.move is e) := rfl
theorem Turned.refl (w : Warp) : Turned w w := rfl

end Sys2Proof.Claims

namespace Sys2Proof.Machine

open Sys2Proof Sys2Proof.Claims

variable {s : State} {g : Guard} {x : Iss}

theorem canIssue_stands {uses : List RegUse} (h : CanIssue s g x uses) : Standing s g x := State.standing_of_iss h.standing

/-- The issuing warp put back in its slot, one instruction issued. -/
theorem Standing.onlyWarp (h : Standing s g x) {w : Warp} (hc : w.core = x.w.core) (hk : w.slot = x.w.slot) :
    OnlyWarp s { s.setWarp w with issues := s.issues + 1 } x w := by
  refine ⟨?_, ?_, rfl⟩
  · have := State.warp?_setWarp (s := s) (w := w) (w0 := x.w) (by rw [hc, hk]; exact h.warp)
    rw [hc, hk] at this
    exact this
  · intro c k hne
    exact State.warp?_setWarp_ne (s := s) (w := w) (by rw [hc, hk]; exact hne)

theorem arrive_lane {w : Warp} {is : List Nat} {e : VAddr} {i : Nat} (h : i < w.lanes.length) :
    (w.move is e).lane i = if i ∈ is then (w.lane i).arrive e else w.lane i :=
  Warp.lane_modLanes w is _ i h

/-- Completing with `settle`: only the issuing warp changes. -/
theorem Standing.settle (h : Standing s g x) {w : Warp} (lead : Nat) (ht : w.core = x.w.core) (hk : w.slot = x.w.slot) :
    OnlyWarp s (x.settle x.s w lead) x (x.settled s w lead) := by
  rw [Iss.settle_eq, h.state]
  have := Iss.settled_turned x s w lead
  exact h.onlyWarp (this.core.trans ht) (this.slot.trans hk)

theorem Standing.settleEnd (h : Standing s g x) {w : Warp} (lead : Nat) (ht : w.core = x.w.core) (hk : w.slot = x.w.slot) :
    OnlyWarp s (x.settleEnd x.s w lead) x (x.settledEnd s w lead) := by
  rw [Iss.settleEnd_eq, h.state]
  have := Iss.settledEnd_turned x s w lead
  exact h.onlyWarp (this.core.trans ht) (this.slot.trans hk)

/-- The lanes after an ordinary instruction whose warp `w` differs from the issuing one in lanes as `up` says. -/
theorem Standing.advances (h : Standing s g x) {w : Warp} {up : Nat → Lane → Lane} (lead : Nat)
    (hl : w.lanes.length = x.w.lanes.length)
    (hu : ∀ i, i ∈ x.act → w.lane i = if i ∈ x.ex then up i (x.w.lane i) else x.w.lane i)
    (hn : ∀ i, i ∉ x.act → w.lane i = x.w.lane i) :
    Advances x (x.settled s (w.move x.act (nextPc x.pc)) lead) up := by
  intro i
  rw [Iss.settled_lane]
  by_cases hi : i ∈ x.act
  · have hlen := h.mem_act hi
    rw [Iss.mark_lane _ _ _ (by simp [Warp.move]; omega), if_pos hi, if_pos hi, arrive_lane (by omega), if_pos hi, hu i hi]
  · rw [Iss.mark_lane_not_mem _ _ _ hi, if_neg hi]
    exact (Warp.lane_modLanes_not_mem _ _ _ _ hi).trans (hn i hi)

/-- An ordinary instruction that wrote D and the sticky flags. -/
theorem Standing.writesD (h : Standing s g x) (d : Sel) (regs : Nat) (val : Nat → Nat) (fstat : Word) :
    WritesD s (x.next x.s { x.w.write d regs (x.ex.map fun i => (i, val i)) with fstat := fstat }) x d regs val fstat := by
  unfold Iss.next
  rw [Warp.write_eq]
  refine ⟨_, h.settle _ ?_ ?_, ?_, h.advances _ ?_ ?_ ?_⟩
  · cases d <;> simp only <;> try rfl
    split <;> rfl
  · cases d <;> simp only <;> try rfl
    split <;> rfl
  · refine Turned.trans ?_ (Iss.settled_turned x s _ _)
    cases d <;> simp only [kAfter] <;> try rfl
    split <;> rfl
  · cases d <;> simp [Warp.modLanes]
    split <;> rfl
  · intro i hi
    have hlen := h.mem_act hi
    cases d with
    | v n => exact Warp.lane_modLanes x.w x.ex _ i hlen
    | k n =>
      simp only [vAfter, ite_self]
      split <;> rfl
    | sp r => simp [vAfter, Warp.lane]
    | z => simp [vAfter, Warp.lane]
  · intro i hi
    have hx : i ∉ x.ex := fun h' => hi (h.ex_act h')
    cases d with
    | v n => exact Warp.lane_modLanes_not_mem x.w x.ex _ i hx
    | k n =>
      simp only
      split <;> rfl
    | sp r => rfl
    | z => rfl

/-- A window operand at hand is no wait. -/
theorem withWindow_atHand {b : BSrc} {regs : Nat} (h : WindowAtHand x b regs) (k : State) : x.withWindow b regs k = k := by
  unfold Iss.withWindow
  rcases h with h | ⟨h1, h2⟩
  · simp [h]
  · simp [h1, h2]

@[simp] theorem Warp.write_fstat (w : Warp) (d : Sel) (regs : Nat) (vals : List (Nat × Nat)) :
    (w.write d regs vals).fstat = w.fstat := by
  cases d <;> simp only [Warp.write]
  split <;> rfl

theorem Warp.write_keeps_fstat (w : Warp) (d : Sel) (regs : Nat) (vals : List (Nat × Nat)) :
    { w.write d regs vals with fstat := w.fstat } = w.write d regs vals := by
  cases d <;> simp only [Warp.write]
  split <;> rfl

/-- An ordinary instruction that wrote D alone. -/
theorem Standing.writesOnlyD (h : Standing s g x) (d : Sel) (regs : Nat) (val : Nat → Nat) :
    WritesD s (x.next x.s (x.w.write d regs (x.ex.map fun i => (i, val i)))) x d regs val x.w.fstat := by
  have := h.writesD d regs val x.w.fstat
  rwa [Warp.write_keeps_fstat] at this

/-- The shape `aluR`: where it is ready it writes its function of A, B and C. -/
theorem aluR_ready {o : ROps} {n : Spans} {f : Nat → Nat → Nat → Nat} (h : CanIssue s g x (o.regUses n))
    (hb : WindowAtHand x o.b n.b) (hd : nbvOk s o.ty = true) :
    ∃ t, aluR g o n f s = .next t ∧
      WritesD s t x o.d n.d (fun i => f (x.read i o.a n.a) (x.readB i o.b n.b) (x.read i o.c n.c)) x.w.fstat := by
  have hs := canIssue_stands h
  refine ⟨_, issue_ready h.standing h.allocated (by rw [hs.state]; exact hd) (by simp) h.free, ?_⟩
  rw [withWindow_atHand hb]
  exact hs.writesOnlyD o.d n.d _

/-- An instruction that is the shape `aluR` with a function in the stated relation. -/
theorem computes_aluR {mk : Guard → ROps → Instr} {n : ROps → Spans} {f : ROps → Nat → Nat → Nat → Nat}
    {spec : ROps → Nat → Nat → Nat → Nat → Prop} (hx : ∀ g o s, exec (mk g o) s = aluR g o (n o) (f o) s)
    (hf : ∀ g o a b c, (mk g o).wf = true → spec o a b c (f o a b c)) : Computes mk n spec := by
  intro s g o x hw hr hb hd
  obtain ⟨t, ht, hw'⟩ := aluR_ready (f := f o) hr hb hd
  exact ⟨t, _, by rw [hx, ht], fun i _ => hf g o _ _ _ hw, hw'⟩

/-- The flags of a list of results, put into the sticky word. -/
theorem raise_sticky (w : Warp) (hw : w.fstat = x.w.fstat) (f : Nat → Nat × Flags) :
    w.raise ((x.ex.map fun i => (i, f i)).foldl (fun m r => m ||| r.2.2) 0) =
      { w with fstat := sticky x fun i => (f i).2 } := by
  simp only [Warp.raise, sticky, List.foldl_map, hw]

/-- The shape `fluR`: a value, and flags put into the sticky word. -/
theorem fluR_ready {o : ROps} {n : Spans} {f : Nat → Nat → Nat → Nat → Nat × Flags} (h : CanIssue s g x (o.regUses n))
    (hb : WindowAtHand x o.b n.b) (hd : nbvOk s o.ty = true) :
    ∃ t, fluR g o n f s = .next t ∧
      WritesD s t x o.d n.d (fun i => (f s.nbv (x.read i o.a n.a) (x.readB i o.b n.b) (x.read i o.c n.c)).1)
        (sticky x fun i => (f s.nbv (x.read i o.a n.a) (x.readB i o.b n.b) (x.read i o.c n.c)).2) := by
  have hs := canIssue_stands h
  refine ⟨_, issue_ready h.standing h.allocated (by rw [hs.state]; exact hd) (by simp) h.free, ?_⟩
  rw [withWindow_atHand hb]
  generalize hv : (fun i => f x.s.nbv (x.read i o.a n.a) (x.readB i o.b n.b) (x.read i o.c n.c)) = v
  have e1 : (fun i => (f s.nbv (x.read i o.a n.a) (x.readB i o.b n.b) (x.read i o.c n.c)).1) = fun i => (v i).1 := by
    rw [← hv, hs.state]
  have e2 : (fun i => (f s.nbv (x.read i o.a n.a) (x.readB i o.b n.b) (x.read i o.c n.c)).2) = fun i => (v i).2 := by
    rw [← hv, hs.state]
  have e3 : (x.ex.map fun i => (i, f x.s.nbv (x.read i o.a n.a) (x.readB i o.b n.b) (x.read i o.c n.c))) =
      x.ex.map fun i => (i, v i) := by
    rw [← hv]
  rw [e1, e2]
  dsimp only
  rw [e3, List.map_map, raise_sticky _ (by simp)]
  exact hs.writesD o.d n.d (fun i => (v i).1) (sticky x fun i => (v i).2)

/-- The shape `predR`. -/
theorem predR_ready {o : ROps} {n : Spans} {f : Lane → Nat → Nat → Nat} (h : CanIssue s g x (o.regUses n))
    (hb : WindowAtHand x o.b n.b) :
    ∃ t, predR g o n f s = .next t ∧
      WritesD s t x o.d n.d (fun i => f (x.w.lane i) (x.read i o.a n.a) (x.readB i o.b n.b)) x.w.fstat := by
  refine ⟨_, issue_ready h.standing h.allocated rfl (by simp) h.free, ?_⟩
  rw [withWindow_atHand hb]
  exact (canIssue_stands h).writesOnlyD o.d n.d _

/-- The shape `aluI`. -/
theorem aluI_ready {o : IOps} {f : Nat → Nat} (h : CanIssue s g x [(o.d, o.ty.regs), (o.a, o.ty.regs)]) :
    ∃ t, aluI g o f s = .next t ∧
      WritesD s t x o.d o.ty.regs (fun i => f (x.read i o.a o.ty.regs)) x.w.fstat :=
  ⟨_, issue_ready h.standing h.allocated rfl (by simp) h.free, (canIssue_stands h).writesOnlyD o.d o.ty.regs _⟩

/-- An ordinary instruction that changed the predicates of the executing lanes, and the sticky flags. -/
theorem Standing.writesPredicates (h : Standing s g x) (p : Nat → Lane → BitVec 8) (fstat : Word) :
    WritesPredicates s (x.next x.s { x.w.modLanes x.ex (fun i l => { l with p := p i l }) with fstat := fstat }) x p fstat := by
  unfold Iss.next
  refine ⟨_, h.settle _ rfl rfl, Turned.trans ?_ (Iss.settled_turned x s _ _), h.advances _ ?_ ?_ ?_⟩
  · rfl
  · simp [Warp.modLanes]
  · intro i hi
    exact Warp.lane_modLanes x.w x.ex _ i (h.mem_act hi)
  · intro i hi
    exact Warp.lane_modLanes_not_mem x.w x.ex _ i fun h' => hi (h.ex_act h')

/-- The same where nothing but the lanes changed. -/
theorem Standing.writesOnlyPredicates (h : Standing s g x) (p : Nat → Lane → BitVec 8) :
    WritesPredicates s (x.next x.s (x.w.modLanes x.ex fun i l => { l with p := p i l })) x p x.w.fstat :=
  h.writesPredicates p x.w.fstat

/-- The shape `cmpP`: the pair of each executing lane folded, and flags put into the sticky word. -/
theorem cmpP_ready {o : POps} {na nb : Nat} {f : Nat → Nat → Nat → Bool × Flags}
    (h : CanIssue s g x ((o.a, na) :: o.b.use nb)) (hb : WindowAtHand x o.b nb) :
    ∃ t, cmpP g o na nb f s = .next t ∧
      WritesPredicates s t x
        (fun i l => (l.foldPair o.pt o.pf o.cmb (f s.nbv (x.read i o.a na) (x.readB i o.b nb)).1).p)
        (sticky x fun i => (f s.nbv (x.read i o.a na) (x.readB i o.b nb)).2) := by
  have hs := canIssue_stands h
  refine ⟨_, issue_ready h.standing h.allocated rfl (by simp) h.free, ?_⟩
  rw [withWindow_atHand hb]
  have := hs.writesPredicates
    (fun i l => (l.foldPair o.pt o.pf o.cmb (f s.nbv (x.read i o.a na) (x.readB i o.b nb)).1).p)
    (sticky x fun i => (f s.nbv (x.read i o.a na) (x.readB i o.b nb)).2)
  refine cast (congrArg (fun w => WritesPredicates s (x.next x.s w) x _ _) ?_) this
  simp only [sticky, Warp.raise, List.foldl_map, hs.state]
  congr 1
  simp only [Warp.modLanes]
  apply List.ext_getElem?
  intro i
  simp only [List.getElem?_mapIdx]
  cases x.w.lanes[i]? with
  | none => rfl
  | some l =>
    simp only [Option.map_some, Option.some.injEq]
    have hf : ∀ v : Nat → Bool × Flags, ((x.ex.map fun i => (i, v i)).find? fun r => r.1 == i) =
        if i ∈ x.ex then some (i, v i) else none := by
      intro v
      generalize x.ex = ex
      induction ex with
      | nil => simp
      | cons e ex ih =>
        by_cases he : e = i
        · subst he; simp
        · have hb : (e == i) = false := by simp [he]
          simp only [List.map_cons, List.find?_cons, hb, ih, List.mem_cons, Ne.symm he, false_or]
    by_cases hi : i ∈ x.ex
    · simp [hi, hf, Lane.foldPair]
    · simp [hi]

/-- Nothing is held where no lane is parked and no held path awaits one. -/
theorem held_none (h : NoneHeld x) (k : State) : x.held k = k := by
  have hm : x.w.awaiting x.pc = 0 := by
    simp [Warp.awaiting, h.1, h.2, maskOf]
  simp [Iss.held, h.2, hm, Warp.missing, lanesOf]

theorem unheld_none (h : NoneHeld x) (pc : VAddr) : x.w.unheld pc = x.w := by
  unfold Warp.unheld
  rw [h.2]
  have : x.w.holds = [] := h.2
  simp only [List.filter_nil]
  rw [← this]

/-- The shape `crossR`, where nothing is held. -/
theorem crossR_ready {o : ROps} {n : Spans} {f : Iss → List (Nat × Nat) → List (Nat × Nat) → Nat → Nat}
    (h : CanIssue s g x (o.regUses n)) (hb : WindowAtHand x o.b n.b) (hn : NoneHeld x) :
    ∃ t, crossR g o n f s = .next t ∧
      WritesD s t x o.d n.d (f x (x.ex.map fun i => (i, x.read i o.a n.a)) (x.ex.map fun i => (i, x.readB i o.b n.b)))
        x.w.fstat := by
  refine ⟨_, issue_ready h.standing h.allocated rfl (by simp) h.free, ?_⟩
  rw [held_none hn, withWindow_atHand hb, unheld_none hn]
  exact (canIssue_stands h).writesOnlyD o.d n.d _

end Sys2Proof.Machine
end

