-- ==== Sys2Proof/Laws/Memory.lean ====
section
/-! SUPPORT. Memory: what a byte reads as after a write, and that every operation keeps the canonical form; when an offset of a
frame region has a place. -/

namespace Sys2Proof.Machine

open Sys2Proof

/-! ### Reading after writing -/

@[simp] theorem Memory.get_nil (x : Nat) : Memory.get [] x = 0 := rfl

theorem Memory.wfFrom_mono {lo lo' : Nat} {m : Memory} (h : lo' ≤ lo) (hm : Memory.wfFrom lo m = true) :
    Memory.wfFrom lo' m = true := by
  cases m with
  | nil => rfl
  | cons c rest =>
    obtain ⟨a, b⟩ := c
    simp only [Memory.wfFrom, Bool.and_eq_true, decide_eq_true_eq] at hm ⊢
    exact ⟨⟨by omega, hm.1.2⟩, hm.2⟩

/-- Below its first address a memory in form lists nothing. -/
theorem Memory.get_below {lo x : Nat} {m : Memory} (hm : Memory.wfFrom lo m = true) (hx : x < lo) : m.get x = 0 := by
  induction m generalizing lo with
  | nil => rfl
  | cons c rest ih =>
    obtain ⟨a, b⟩ := c
    simp only [Memory.wfFrom, Bool.and_eq_true, decide_eq_true_eq] at hm
    have hne : (x == a) = false := by simp; omega
    simp only [Memory.get, hne, Bool.false_eq_true, if_false]
    exact ih hm.2 (by omega)

theorem Memory.wfFrom_set {lo x : Nat} {v : Byte} {m : Memory} (hm : Memory.wfFrom lo m = true) (hx : lo ≤ x) :
    Memory.wfFrom lo (m.set x v) = true := by
  induction m generalizing lo with
  | nil =>
    simp only [Memory.set]
    split
    · rfl
    · rename_i h
      simp_all [Memory.wfFrom]
  | cons c rest ih =>
    obtain ⟨a, b⟩ := c
    have hm' := hm
    simp only [Memory.wfFrom, Bool.and_eq_true, decide_eq_true_eq] at hm
    simp only [Memory.set]
    split
    · split
      · exact hm'
      · rename_i h1 h2
        simp only [Memory.wfFrom, Bool.and_eq_true, decide_eq_true_eq]
        exact ⟨⟨hx, by simp_all⟩, ⟨by omega, hm.1.2⟩, hm.2⟩
    · split
      · rename_i h1 h2
        have he : x = a := by simpa using h2
        subst he
        split
        · exact Memory.wfFrom_mono (by omega) hm.2
        · rename_i h3
          simp only [Memory.wfFrom, Bool.and_eq_true, decide_eq_true_eq]
          exact ⟨⟨hx, by simp_all⟩, hm.2⟩
      · rename_i h1 h2
        simp only [beq_iff_eq] at h2
        simp only [Memory.wfFrom, Bool.and_eq_true, decide_eq_true_eq]
        exact ⟨hm.1, ih hm.2 (by omega)⟩

/-- Writing a byte keeps the canonical form. -/
theorem Memory.wf_set {m : Memory} (hm : m.wf = true) (x : Nat) (v : Byte) : (m.set x v).wf = true :=
  Memory.wfFrom_set hm (Nat.zero_le x)

/-- A byte read after a write: the written value at its address, elsewhere what stood there. -/
theorem Memory.get_set {m : Memory} {lo : Nat} (hm : Memory.wfFrom lo m = true) (x : Nat) (v : Byte) (y : Nat) :
    (m.set x v).get y = if y = x then v else m.get y := by
  induction m generalizing lo with
  | nil =>
    simp only [Memory.set]
    by_cases hv : v = 0#8
    · simp [hv]
    · simp [hv, Memory.get]
  | cons c rest ih =>
    obtain ⟨a, b⟩ := c
    have hm' := hm
    simp only [Memory.wfFrom, Bool.and_eq_true, decide_eq_true_eq] at hm
    simp only [Memory.set]
    by_cases hxa : x < a
    · simp only [hxa, if_true]
      by_cases hv : v = 0#8
      · by_cases hy : y = x
        · subst hy
          have : Memory.get ((a, b) :: rest) y = 0 :=
            Memory.get_below (lo := a) (by simp only [Memory.wfFrom, Bool.and_eq_true, decide_eq_true_eq]; exact ⟨⟨Nat.le_refl a, hm.1.2⟩, hm.2⟩) hxa
          simp [hv, this]
        · simp [hv, hy]
      · by_cases hy : y = x
        · simp [hv, hy, Memory.get]
        · simp [hv, hy, Memory.get]
    · by_cases hxe : x = a
      · subst hxe
        by_cases hv : v = 0#8
        · by_cases hy : y = x
          · subst hy
            simp [hv, Memory.get_below hm.2 (Nat.lt_succ_self y)]
          · simp [hv, hy, Memory.get]
        · by_cases hy : y = x
          · simp [hv, hy, Memory.get]
          · simp [hv, hy, Memory.get]
      · have hb : (x == a) = false := by simp [hxe]
        simp only [hxa, if_false, hb, Bool.false_eq_true]
        simp only [Memory.get]
        by_cases hy : y = a
        · subst hy
          simp [Ne.symm hxe]
        · have hb' : (y == a) = false := by simp [hy]
          simp only [hb', Bool.false_eq_true, if_false]
          exact ih hm.2

theorem Memory.get_set_self {m : Memory} (hm : m.wf = true) (x : Nat) (v : Byte) : (m.set x v).get x = v := by
  simp [Memory.get_set hm]

theorem Memory.get_set_other {m : Memory} (hm : m.wf = true) {x y : Nat} (v : Byte) (h : y ≠ x) :
    (m.set x v).get y = m.get y := by
  simp [Memory.get_set hm, h]

/-- Writing consecutive bytes keeps the canonical form. -/
theorem Memory.wf_setN {m : Memory} (hm : m.wf = true) (a : Nat) (bs : List Byte) : (m.setN a bs).wf = true := by
  induction bs generalizing m a with
  | nil => exact hm
  | cons b bs ih => exact ih (Memory.wf_set hm a b) (a + 1)

/-- A byte read after consecutive bytes were written: theirs inside the range, elsewhere what stood there. -/
theorem Memory.get_setN {m : Memory} (hm : m.wf = true) (a : Nat) (bs : List Byte) (y : Nat) :
    (m.setN a bs).get y = if a ≤ y ∧ y < a + bs.length then bs.getD (y - a) 0 else m.get y := by
  induction bs generalizing m a with
  | nil => simp [Memory.setN]
  | cons b bs ih =>
    simp only [Memory.setN, ih (Memory.wf_set hm a b) (a + 1), List.length_cons]
    by_cases hy : y = a
    · subst hy
      simp [Memory.get_set_self hm]
    · rw [Memory.get_set_other hm b hy]
      by_cases h : a + 1 ≤ y ∧ y < a + 1 + bs.length
      · have h' : a ≤ y ∧ y < a + (bs.length + 1) := by omega
        have hs : y - a = (y - (a + 1)) + 1 := by omega
        simp only [h, h', and_self, if_true, hs, List.getD_cons_succ]
      · have h' : ¬(a ≤ y ∧ y < a + (bs.length + 1)) := by omega
        rw [if_neg h, if_neg h']

@[simp] theorem Memory.length_getN (m : Memory) (a n : Nat) : (m.getN a n).length = n := by
  induction n generalizing a with
  | zero => rfl
  | succ n ih => simp [Memory.getN, ih]

/-- Bytes of a range read one by one. -/
theorem Memory.getElem_getN (m : Memory) (a n i : Nat) (h : i < n) : (m.getN a n)[i]? = some (m.get (a + i)) := by
  induction n generalizing a i with
  | zero => omega
  | succ n ih =>
    cases i with
    | zero => simp [Memory.getN]
    | succ i =>
      simp only [Memory.getN, List.getElem?_cons_succ]
      rw [ih (a + 1) i (by omega)]
      congr 2
      omega

theorem Memory.wfFrom_filter {lo : Nat} {m : Memory} (hm : Memory.wfFrom lo m = true) (p : Host.Cell → Bool) :
    Memory.wfFrom lo (m.filter p) = true := by
  induction m generalizing lo with
  | nil => rfl
  | cons c rest ih =>
    obtain ⟨a, b⟩ := c
    simp only [Memory.wfFrom, Bool.and_eq_true, decide_eq_true_eq] at hm
    by_cases hp : p (a, b) = true
    · rw [List.filter_cons_of_pos hp]
      simp only [Memory.wfFrom, Bool.and_eq_true, decide_eq_true_eq]
      exact ⟨hm.1, ih hm.2⟩
    · rw [List.filter_cons_of_neg hp]
      exact Memory.wfFrom_mono (by omega) (ih hm.2)

/-- Clearing a range keeps the canonical form. -/
theorem Memory.wf_clear {m : Memory} (hm : m.wf = true) (lo hi : Nat) : (m.clear lo hi).wf = true :=
  Memory.wfFrom_filter hm _

/-! ### Placement (R212, R213) -/

/-- An offset has a place when the base and it stay below a channel's 2 GB together. -/
theorem Geometry.place_isSome (g : Geometry) (f b o : Nat) (h : b + o < 2 ^ 31) : (g.place f b o).isSome = true := by
  have hb : b / g.stripe * g.stripe ≤ b := Nat.div_mul_le_self ..
  have ho : o / g.stripe / g.count * g.stripe + o % g.stripe ≤ o :=
    Nat.le_trans (Nat.add_le_add_right (Nat.mul_le_mul_right _ (Nat.div_le_self ..)) _) (Nat.le_of_eq (Nat.div_add_mod' o g.stripe))
  simp only [Geometry.place]
  rw [if_pos (by omega)]
  rfl

/-- The same for an offset of table space. -/
theorem State.tsPlace_isSome (s : State) (o : Nat) (h : s.sys.tsloc.toNat % 2 ^ 31 + o < 2 ^ 31) :
    (s.tsPlace o).isSome = true :=
  Geometry.place_isSome _ _ _ _ h

end Sys2Proof.Machine
end

