-- ==== Sys2Proof/Laws/PerInstr.lean ====
section
/-! SUPPORT. A fact about every instruction as syntax, one lemma per constructor: a well-formed instruction has a word, whose OP
field is its opcode; a step of the part has none. -/

open Sys2Proof

/-- A well-formed instruction has a word that carries its opcode in bits 78:69. -/
def Sys2Proof.Laws.Encoded.Statement (i : Instr) : Prop := i.wf = true → ∃ w op, encode i = some w ∧ i.op = some op ∧ w.extractLsb' 69 10 = op

/-- The opcode field of a word put together from its guard, opcode and body. -/
theorem Sys2Proof.Laws.Encoded.op_field (g : Guard) (op : BitVec 10) (b : BitVec 69) :
    (g.tt ++ g.ga ++ g.gb ++ g.gc ++ op ++ b : IWord).extractLsb' 69 10 = op := by
  apply BitVec.eq_of_getLsbD_eq
  intro j hj
  have h1 : (g.tt ++ g.ga ++ g.gb ++ g.gc ++ op ++ b : IWord).getLsbD (69 + j) = (g.tt ++ g.ga ++ g.gb ++ g.gc ++ op).getLsbD j := by
    refine (BitVec.getLsbD_append (x := g.tt ++ g.ga ++ g.gb ++ g.gc ++ op) (y := b)).trans ?_
    simp
  have h2 : (g.tt ++ g.ga ++ g.gb ++ g.gc ++ op).getLsbD j = op.getLsbD j := by
    rw [BitVec.getLsbD_append]
    simp [hj]
  simpa [hj, h2] using h1

theorem Sys2Proof.Laws.Encoded.add (g : Guard) (o : ROps) : Sys2Proof.Laws.Encoded.Statement (.add g o) := fun _ => ⟨_, _, rfl, rfl, Sys2Proof.Laws.Encoded.op_field _ _ _⟩
theorem Sys2Proof.Laws.Encoded.sub (g : Guard) (o : ROps) : Sys2Proof.Laws.Encoded.Statement (.sub g o) := fun _ => ⟨_, _, rfl, rfl, Sys2Proof.Laws.Encoded.op_field _ _ _⟩
theorem Sys2Proof.Laws.Encoded.mul (g : Guard) (o : ROps) : Sys2Proof.Laws.Encoded.Statement (.mul g o) := fun _ => ⟨_, _, rfl, rfl, Sys2Proof.Laws.Encoded.op_field _ _ _⟩
theorem Sys2Proof.Laws.Encoded.mulhi (g : Guard) (o : ROps) : Sys2Proof.Laws.Encoded.Statement (.mulhi g o) := fun _ => ⟨_, _, rfl, rfl, Sys2Proof.Laws.Encoded.op_field _ _ _⟩
theorem Sys2Proof.Laws.Encoded.mad (g : Guard) (o : ROps) : Sys2Proof.Laws.Encoded.Statement (.mad g o) := fun _ => ⟨_, _, rfl, rfl, Sys2Proof.Laws.Encoded.op_field _ _ _⟩
theorem Sys2Proof.Laws.Encoded.madhi (g : Guard) (o : ROps) : Sys2Proof.Laws.Encoded.Statement (.madhi g o) := fun _ => ⟨_, _, rfl, rfl, Sys2Proof.Laws.Encoded.op_field _ _ _⟩
theorem Sys2Proof.Laws.Encoded.min (g : Guard) (o : ROps) : Sys2Proof.Laws.Encoded.Statement (.min g o) := fun _ => ⟨_, _, rfl, rfl, Sys2Proof.Laws.Encoded.op_field _ _ _⟩
theorem Sys2Proof.Laws.Encoded.max (g : Guard) (o : ROps) : Sys2Proof.Laws.Encoded.Statement (.max g o) := fun _ => ⟨_, _, rfl, rfl, Sys2Proof.Laws.Encoded.op_field _ _ _⟩
theorem Sys2Proof.Laws.Encoded.abs (g : Guard) (o : ROps) : Sys2Proof.Laws.Encoded.Statement (.abs g o) := fun _ => ⟨_, _, rfl, rfl, Sys2Proof.Laws.Encoded.op_field _ _ _⟩
theorem Sys2Proof.Laws.Encoded.neg (g : Guard) (o : ROps) : Sys2Proof.Laws.Encoded.Statement (.neg g o) := fun _ => ⟨_, _, rfl, rfl, Sys2Proof.Laws.Encoded.op_field _ _ _⟩
theorem Sys2Proof.Laws.Encoded.sad (g : Guard) (o : ROps) : Sys2Proof.Laws.Encoded.Statement (.sad g o) := fun _ => ⟨_, _, rfl, rfl, Sys2Proof.Laws.Encoded.op_field _ _ _⟩
theorem Sys2Proof.Laws.Encoded.dot4 (g : Guard) (o : ROps) : Sys2Proof.Laws.Encoded.Statement (.dot4 g o) := fun _ => ⟨_, _, rfl, rfl, Sys2Proof.Laws.Encoded.op_field _ _ _⟩
theorem Sys2Proof.Laws.Encoded.lea (g : Guard) (o : ROps) : Sys2Proof.Laws.Encoded.Statement (.lea g o) := fun _ => ⟨_, _, rfl, rfl, Sys2Proof.Laws.Encoded.op_field _ _ _⟩
theorem Sys2Proof.Laws.Encoded.and (g : Guard) (o : ROps) : Sys2Proof.Laws.Encoded.Statement (.and g o) := fun _ => ⟨_, _, rfl, rfl, Sys2Proof.Laws.Encoded.op_field _ _ _⟩
theorem Sys2Proof.Laws.Encoded.or (g : Guard) (o : ROps) : Sys2Proof.Laws.Encoded.Statement (.or g o) := fun _ => ⟨_, _, rfl, rfl, Sys2Proof.Laws.Encoded.op_field _ _ _⟩
theorem Sys2Proof.Laws.Encoded.xor (g : Guard) (o : ROps) : Sys2Proof.Laws.Encoded.Statement (.xor g o) := fun _ => ⟨_, _, rfl, rfl, Sys2Proof.Laws.Encoded.op_field _ _ _⟩
theorem Sys2Proof.Laws.Encoded.bitop (g : Guard) (o : ROps) : Sys2Proof.Laws.Encoded.Statement (.bitop g o) := fun _ => ⟨_, _, rfl, rfl, Sys2Proof.Laws.Encoded.op_field _ _ _⟩
theorem Sys2Proof.Laws.Encoded.shl (g : Guard) (o : ROps) : Sys2Proof.Laws.Encoded.Statement (.shl g o) := fun _ => ⟨_, _, rfl, rfl, Sys2Proof.Laws.Encoded.op_field _ _ _⟩
theorem Sys2Proof.Laws.Encoded.shr (g : Guard) (o : ROps) : Sys2Proof.Laws.Encoded.Statement (.shr g o) := fun _ => ⟨_, _, rfl, rfl, Sys2Proof.Laws.Encoded.op_field _ _ _⟩
theorem Sys2Proof.Laws.Encoded.sra (g : Guard) (o : ROps) : Sys2Proof.Laws.Encoded.Statement (.sra g o) := fun _ => ⟨_, _, rfl, rfl, Sys2Proof.Laws.Encoded.op_field _ _ _⟩
theorem Sys2Proof.Laws.Encoded.rotl (g : Guard) (o : ROps) : Sys2Proof.Laws.Encoded.Statement (.rotl g o) := fun _ => ⟨_, _, rfl, rfl, Sys2Proof.Laws.Encoded.op_field _ _ _⟩
theorem Sys2Proof.Laws.Encoded.rotr (g : Guard) (o : ROps) : Sys2Proof.Laws.Encoded.Statement (.rotr g o) := fun _ => ⟨_, _, rfl, rfl, Sys2Proof.Laws.Encoded.op_field _ _ _⟩
theorem Sys2Proof.Laws.Encoded.clz (g : Guard) (o : ROps) : Sys2Proof.Laws.Encoded.Statement (.clz g o) := fun _ => ⟨_, _, rfl, rfl, Sys2Proof.Laws.Encoded.op_field _ _ _⟩
theorem Sys2Proof.Laws.Encoded.ctz (g : Guard) (o : ROps) : Sys2Proof.Laws.Encoded.Statement (.ctz g o) := fun _ => ⟨_, _, rfl, rfl, Sys2Proof.Laws.Encoded.op_field _ _ _⟩
theorem Sys2Proof.Laws.Encoded.popc (g : Guard) (o : ROps) : Sys2Proof.Laws.Encoded.Statement (.popc g o) := fun _ => ⟨_, _, rfl, rfl, Sys2Proof.Laws.Encoded.op_field _ _ _⟩
theorem Sys2Proof.Laws.Encoded.brev (g : Guard) (o : ROps) : Sys2Proof.Laws.Encoded.Statement (.brev g o) := fun _ => ⟨_, _, rfl, rfl, Sys2Proof.Laws.Encoded.op_field _ _ _⟩
theorem Sys2Proof.Laws.Encoded.bfx (g : Guard) (o : ROps) : Sys2Proof.Laws.Encoded.Statement (.bfx g o) := fun _ => ⟨_, _, rfl, rfl, Sys2Proof.Laws.Encoded.op_field _ _ _⟩
theorem Sys2Proof.Laws.Encoded.bfi (g : Guard) (o : ROps) : Sys2Proof.Laws.Encoded.Statement (.bfi g o) := fun _ => ⟨_, _, rfl, rfl, Sys2Proof.Laws.Encoded.op_field _ _ _⟩
theorem Sys2Proof.Laws.Encoded.sel (g : Guard) (o : ROps) : Sys2Proof.Laws.Encoded.Statement (.sel g o) := fun _ => ⟨_, _, rfl, rfl, Sys2Proof.Laws.Encoded.op_field _ _ _⟩
theorem Sys2Proof.Laws.Encoded.mov (g : Guard) (o : ROps) : Sys2Proof.Laws.Encoded.Statement (.mov g o) := fun _ => ⟨_, _, rfl, rfl, Sys2Proof.Laws.Encoded.op_field _ _ _⟩
theorem Sys2Proof.Laws.Encoded.movi (g : Guard) (o : IOps) : Sys2Proof.Laws.Encoded.Statement (.movi g o) := fun _ => ⟨_, _, rfl, rfl, Sys2Proof.Laws.Encoded.op_field _ _ _⟩
theorem Sys2Proof.Laws.Encoded.addi (g : Guard) (o : IOps) : Sys2Proof.Laws.Encoded.Statement (.addi g o) := fun _ => ⟨_, _, rfl, rfl, Sys2Proof.Laws.Encoded.op_field _ _ _⟩
theorem Sys2Proof.Laws.Encoded.shfl (g : Guard) (o : ROps) : Sys2Proof.Laws.Encoded.Statement (.shfl g o) := fun _ => ⟨_, _, rfl, rfl, Sys2Proof.Laws.Encoded.op_field _ _ _⟩
theorem Sys2Proof.Laws.Encoded.voteAny (g : Guard) (o : ROps) : Sys2Proof.Laws.Encoded.Statement (.voteAny g o) := fun _ => ⟨_, _, rfl, rfl, Sys2Proof.Laws.Encoded.op_field _ _ _⟩
theorem Sys2Proof.Laws.Encoded.voteAll (g : Guard) (o : ROps) : Sys2Proof.Laws.Encoded.Statement (.voteAll g o) := fun _ => ⟨_, _, rfl, rfl, Sys2Proof.Laws.Encoded.op_field _ _ _⟩
theorem Sys2Proof.Laws.Encoded.voteMask (g : Guard) (o : ROps) : Sys2Proof.Laws.Encoded.Statement (.voteMask g o) := fun _ => ⟨_, _, rfl, rfl, Sys2Proof.Laws.Encoded.op_field _ _ _⟩
theorem Sys2Proof.Laws.Encoded.matchAny (g : Guard) (o : ROps) : Sys2Proof.Laws.Encoded.Statement (.matchAny g o) := fun _ => ⟨_, _, rfl, rfl, Sys2Proof.Laws.Encoded.op_field _ _ _⟩
theorem Sys2Proof.Laws.Encoded.matchAll (g : Guard) (o : ROps) : Sys2Proof.Laws.Encoded.Statement (.matchAll g o) := fun _ => ⟨_, _, rfl, rfl, Sys2Proof.Laws.Encoded.op_field _ _ _⟩
theorem Sys2Proof.Laws.Encoded.rdlane (g : Guard) (o : ROps) : Sys2Proof.Laws.Encoded.Statement (.rdlane g o) := fun _ => ⟨_, _, rfl, rfl, Sys2Proof.Laws.Encoded.op_field _ _ _⟩
theorem Sys2Proof.Laws.Encoded.wscan (g : Guard) (o : ROps) : Sys2Proof.Laws.Encoded.Statement (.wscan g o) := fun _ => ⟨_, _, rfl, rfl, Sys2Proof.Laws.Encoded.op_field _ _ _⟩
theorem Sys2Proof.Laws.Encoded.wred (g : Guard) (o : ROps) : Sys2Proof.Laws.Encoded.Statement (.wred g o) := fun _ => ⟨_, _, rfl, rfl, Sys2Proof.Laws.Encoded.op_field _ _ _⟩
theorem Sys2Proof.Laws.Encoded.fadd (g : Guard) (o : ROps) : Sys2Proof.Laws.Encoded.Statement (.fadd g o) := fun _ => ⟨_, _, rfl, rfl, Sys2Proof.Laws.Encoded.op_field _ _ _⟩
theorem Sys2Proof.Laws.Encoded.fsub (g : Guard) (o : ROps) : Sys2Proof.Laws.Encoded.Statement (.fsub g o) := fun _ => ⟨_, _, rfl, rfl, Sys2Proof.Laws.Encoded.op_field _ _ _⟩
theorem Sys2Proof.Laws.Encoded.fmul (g : Guard) (o : ROps) : Sys2Proof.Laws.Encoded.Statement (.fmul g o) := fun _ => ⟨_, _, rfl, rfl, Sys2Proof.Laws.Encoded.op_field _ _ _⟩
theorem Sys2Proof.Laws.Encoded.ffma (g : Guard) (o : ROps) : Sys2Proof.Laws.Encoded.Statement (.ffma g o) := fun _ => ⟨_, _, rfl, rfl, Sys2Proof.Laws.Encoded.op_field _ _ _⟩
theorem Sys2Proof.Laws.Encoded.fmin (g : Guard) (o : ROps) : Sys2Proof.Laws.Encoded.Statement (.fmin g o) := fun _ => ⟨_, _, rfl, rfl, Sys2Proof.Laws.Encoded.op_field _ _ _⟩
theorem Sys2Proof.Laws.Encoded.fmax (g : Guard) (o : ROps) : Sys2Proof.Laws.Encoded.Statement (.fmax g o) := fun _ => ⟨_, _, rfl, rfl, Sys2Proof.Laws.Encoded.op_field _ _ _⟩
theorem Sys2Proof.Laws.Encoded.frcp (g : Guard) (o : ROps) : Sys2Proof.Laws.Encoded.Statement (.frcp g o) := fun _ => ⟨_, _, rfl, rfl, Sys2Proof.Laws.Encoded.op_field _ _ _⟩
theorem Sys2Proof.Laws.Encoded.frsq (g : Guard) (o : ROps) : Sys2Proof.Laws.Encoded.Statement (.frsq g o) := fun _ => ⟨_, _, rfl, rfl, Sys2Proof.Laws.Encoded.op_field _ _ _⟩
theorem Sys2Proof.Laws.Encoded.fsqrt (g : Guard) (o : ROps) : Sys2Proof.Laws.Encoded.Statement (.fsqrt g o) := fun _ => ⟨_, _, rfl, rfl, Sys2Proof.Laws.Encoded.op_field _ _ _⟩
theorem Sys2Proof.Laws.Encoded.fex2 (g : Guard) (o : ROps) : Sys2Proof.Laws.Encoded.Statement (.fex2 g o) := fun _ => ⟨_, _, rfl, rfl, Sys2Proof.Laws.Encoded.op_field _ _ _⟩
theorem Sys2Proof.Laws.Encoded.flg2 (g : Guard) (o : ROps) : Sys2Proof.Laws.Encoded.Statement (.flg2 g o) := fun _ => ⟨_, _, rfl, rfl, Sys2Proof.Laws.Encoded.op_field _ _ _⟩
theorem Sys2Proof.Laws.Encoded.fsin (g : Guard) (o : ROps) : Sys2Proof.Laws.Encoded.Statement (.fsin g o) := fun _ => ⟨_, _, rfl, rfl, Sys2Proof.Laws.Encoded.op_field _ _ _⟩
theorem Sys2Proof.Laws.Encoded.fcos (g : Guard) (o : ROps) : Sys2Proof.Laws.Encoded.Statement (.fcos g o) := fun _ => ⟨_, _, rfl, rfl, Sys2Proof.Laws.Encoded.op_field _ _ _⟩
theorem Sys2Proof.Laws.Encoded.frnd (g : Guard) (o : ROps) : Sys2Proof.Laws.Encoded.Statement (.frnd g o) := fun _ => ⟨_, _, rfl, rfl, Sys2Proof.Laws.Encoded.op_field _ _ _⟩
theorem Sys2Proof.Laws.Encoded.fscale (g : Guard) (o : ROps) : Sys2Proof.Laws.Encoded.Statement (.fscale g o) := fun _ => ⟨_, _, rfl, rfl, Sys2Proof.Laws.Encoded.op_field _ _ _⟩
theorem Sys2Proof.Laws.Encoded.fdot2 (g : Guard) (o : ROps) : Sys2Proof.Laws.Encoded.Statement (.fdot2 g o) := fun _ => ⟨_, _, rfl, rfl, Sys2Proof.Laws.Encoded.op_field _ _ _⟩
theorem Sys2Proof.Laws.Encoded.fclass (g : Guard) (o : ROps) : Sys2Proof.Laws.Encoded.Statement (.fclass g o) := fun _ => ⟨_, _, rfl, rfl, Sys2Proof.Laws.Encoded.op_field _ _ _⟩
theorem Sys2Proof.Laws.Encoded.fclassTake (g : Guard) (o : ROps) : Sys2Proof.Laws.Encoded.Statement (.fclassTake g o) := fun _ => ⟨_, _, rfl, rfl, Sys2Proof.Laws.Encoded.op_field _ _ _⟩
theorem Sys2Proof.Laws.Encoded.cvt (g : Guard) (o : ROps) : Sys2Proof.Laws.Encoded.Statement (.cvt g o) := fun _ => ⟨_, _, rfl, rfl, Sys2Proof.Laws.Encoded.op_field _ _ _⟩
theorem Sys2Proof.Laws.Encoded.pack2 (g : Guard) (o : ROps) : Sys2Proof.Laws.Encoded.Statement (.pack2 g o) := fun _ => ⟨_, _, rfl, rfl, Sys2Proof.Laws.Encoded.op_field _ _ _⟩
theorem Sys2Proof.Laws.Encoded.dtdec (g : Guard) (o : ROps) : Sys2Proof.Laws.Encoded.Statement (.dtdec g o) := fun _ => ⟨_, _, rfl, rfl, Sys2Proof.Laws.Encoded.op_field _ _ _⟩
theorem Sys2Proof.Laws.Encoded.dtenc (g : Guard) (o : ROps) : Sys2Proof.Laws.Encoded.Statement (.dtenc g o) := fun _ => ⟨_, _, rfl, rfl, Sys2Proof.Laws.Encoded.op_field _ _ _⟩
theorem Sys2Proof.Laws.Encoded.icmp (g : Guard) (o : POps) : Sys2Proof.Laws.Encoded.Statement (.icmp g o) := fun _ => ⟨_, _, rfl, rfl, Sys2Proof.Laws.Encoded.op_field _ _ _⟩
theorem Sys2Proof.Laws.Encoded.fcmp (g : Guard) (o : POps) : Sys2Proof.Laws.Encoded.Statement (.fcmp g o) := fun _ => ⟨_, _, rfl, rfl, Sys2Proof.Laws.Encoded.op_field _ _ _⟩
theorem Sys2Proof.Laws.Encoded.pset (g : Guard) (o : PsetOps) : Sys2Proof.Laws.Encoded.Statement (.pset g o) := fun _ => ⟨_, _, rfl, rfl, Sys2Proof.Laws.Encoded.op_field _ _ _⟩
theorem Sys2Proof.Laws.Encoded.btst (g : Guard) (o : POps) : Sys2Proof.Laws.Encoded.Statement (.btst g o) := fun _ => ⟨_, _, rfl, rfl, Sys2Proof.Laws.Encoded.op_field _ _ _⟩
theorem Sys2Proof.Laws.Encoded.pmovToReg (g : Guard) (o : ROps) : Sys2Proof.Laws.Encoded.Statement (.pmovToReg g o) := fun _ => ⟨_, _, rfl, rfl, Sys2Proof.Laws.Encoded.op_field _ _ _⟩
theorem Sys2Proof.Laws.Encoded.pmovToPred (g : Guard) (o : ROps) : Sys2Proof.Laws.Encoded.Statement (.pmovToPred g o) := fun _ => ⟨_, _, rfl, rfl, Sys2Proof.Laws.Encoded.op_field _ _ _⟩
theorem Sys2Proof.Laws.Encoded.ld (g : Guard) (o : MOps) : Sys2Proof.Laws.Encoded.Statement (.ld g o) := fun _ => ⟨_, _, rfl, rfl, Sys2Proof.Laws.Encoded.op_field _ _ _⟩
theorem Sys2Proof.Laws.Encoded.st (g : Guard) (o : MOps) : Sys2Proof.Laws.Encoded.Statement (.st g o) := fun _ => ⟨_, _, rfl, rfl, Sys2Proof.Laws.Encoded.op_field _ _ _⟩
theorem Sys2Proof.Laws.Encoded.ldc (g : Guard) (o : MOps) : Sys2Proof.Laws.Encoded.Statement (.ldc g o) := fun _ => ⟨_, _, rfl, rfl, Sys2Proof.Laws.Encoded.op_field _ _ _⟩
theorem Sys2Proof.Laws.Encoded.atom (g : Guard) (o : MOps) : Sys2Proof.Laws.Encoded.Statement (.atom g o) := fun _ => ⟨_, _, rfl, rfl, Sys2Proof.Laws.Encoded.op_field _ _ _⟩
theorem Sys2Proof.Laws.Encoded.red (g : Guard) (o : MOps) : Sys2Proof.Laws.Encoded.Statement (.red g o) := fun _ => ⟨_, _, rfl, rfl, Sys2Proof.Laws.Encoded.op_field _ _ _⟩
theorem Sys2Proof.Laws.Encoded.pref (g : Guard) (o : MOps) : Sys2Proof.Laws.Encoded.Statement (.pref g o) := fun _ => ⟨_, _, rfl, rfl, Sys2Proof.Laws.Encoded.op_field _ _ _⟩
theorem Sys2Proof.Laws.Encoded.bra (g : Guard) (o : COps) : Sys2Proof.Laws.Encoded.Statement (.bra g o) := fun _ => ⟨_, _, rfl, rfl, Sys2Proof.Laws.Encoded.op_field _ _ _⟩
theorem Sys2Proof.Laws.Encoded.brx (g : Guard) (o : COps) : Sys2Proof.Laws.Encoded.Statement (.brx g o) := fun _ => ⟨_, _, rfl, rfl, Sys2Proof.Laws.Encoded.op_field _ _ _⟩
theorem Sys2Proof.Laws.Encoded.call (g : Guard) (o : COps) : Sys2Proof.Laws.Encoded.Statement (.call g o) := fun _ => ⟨_, _, rfl, rfl, Sys2Proof.Laws.Encoded.op_field _ _ _⟩
theorem Sys2Proof.Laws.Encoded.ret (g : Guard) (o : COps) : Sys2Proof.Laws.Encoded.Statement (.ret g o) := fun _ => ⟨_, _, rfl, rfl, Sys2Proof.Laws.Encoded.op_field _ _ _⟩
theorem Sys2Proof.Laws.Encoded.loop (g : Guard) (o : COps) : Sys2Proof.Laws.Encoded.Statement (.loop g o) := fun _ => ⟨_, _, rfl, rfl, Sys2Proof.Laws.Encoded.op_field _ _ _⟩
theorem Sys2Proof.Laws.Encoded.loopExit (g : Guard) (o : COps) : Sys2Proof.Laws.Encoded.Statement (.loopExit g o) := fun _ => ⟨_, _, rfl, rfl, Sys2Proof.Laws.Encoded.op_field _ _ _⟩
theorem Sys2Proof.Laws.Encoded.exit (g : Guard) (o : COps) : Sys2Proof.Laws.Encoded.Statement (.exit g o) := fun _ => ⟨_, _, rfl, rfl, Sys2Proof.Laws.Encoded.op_field _ _ _⟩
theorem Sys2Proof.Laws.Encoded.joinEnrol (g : Guard) (o : COps) : Sys2Proof.Laws.Encoded.Statement (.joinEnrol g o) := fun _ => ⟨_, _, rfl, rfl, Sys2Proof.Laws.Encoded.op_field _ _ _⟩
theorem Sys2Proof.Laws.Encoded.joinWait (g : Guard) (o : COps) : Sys2Proof.Laws.Encoded.Statement (.joinWait g o) := fun _ => ⟨_, _, rfl, rfl, Sys2Proof.Laws.Encoded.op_field _ _ _⟩
theorem Sys2Proof.Laws.Encoded.joinLeave (g : Guard) (o : COps) : Sys2Proof.Laws.Encoded.Statement (.joinLeave g o) := fun _ => ⟨_, _, rfl, rfl, Sys2Proof.Laws.Encoded.op_field _ _ _⟩
theorem Sys2Proof.Laws.Encoded.yield (g : Guard) (o : COps) : Sys2Proof.Laws.Encoded.Statement (.yield g o) := fun _ => ⟨_, _, rfl, rfl, Sys2Proof.Laws.Encoded.op_field _ _ _⟩
theorem Sys2Proof.Laws.Encoded.nop (g : Guard) (o : ROps) : Sys2Proof.Laws.Encoded.Statement (.nop g o) := fun _ => ⟨_, _, rfl, rfl, Sys2Proof.Laws.Encoded.op_field _ _ _⟩
theorem Sys2Proof.Laws.Encoded.brk (g : Guard) (o : COps) : Sys2Proof.Laws.Encoded.Statement (.brk g o) := fun _ => ⟨_, _, rfl, rfl, Sys2Proof.Laws.Encoded.op_field _ _ _⟩
theorem Sys2Proof.Laws.Encoded.wait (g : Guard) (o : WOps) : Sys2Proof.Laws.Encoded.Statement (.wait g o) := fun _ => ⟨_, _, rfl, rfl, Sys2Proof.Laws.Encoded.op_field _ _ _⟩
theorem Sys2Proof.Laws.Encoded.fence (g : Guard) (o : ROps) : Sys2Proof.Laws.Encoded.Statement (.fence g o) := fun _ => ⟨_, _, rfl, rfl, Sys2Proof.Laws.Encoded.op_field _ _ _⟩
theorem Sys2Proof.Laws.Encoded.barArrive (g : Guard) (o : ROps) : Sys2Proof.Laws.Encoded.Statement (.barArrive g o) := fun _ => ⟨_, _, rfl, rfl, Sys2Proof.Laws.Encoded.op_field _ _ _⟩
theorem Sys2Proof.Laws.Encoded.barWait (g : Guard) (o : ROps) : Sys2Proof.Laws.Encoded.Statement (.barWait g o) := fun _ => ⟨_, _, rfl, rfl, Sys2Proof.Laws.Encoded.op_field _ _ _⟩
theorem Sys2Proof.Laws.Encoded.barSync (g : Guard) (o : ROps) : Sys2Proof.Laws.Encoded.Statement (.barSync g o) := fun _ => ⟨_, _, rfl, rfl, Sys2Proof.Laws.Encoded.op_field _ _ _⟩
theorem Sys2Proof.Laws.Encoded.cbarArrive (g : Guard) (o : ROps) : Sys2Proof.Laws.Encoded.Statement (.cbarArrive g o) := fun _ => ⟨_, _, rfl, rfl, Sys2Proof.Laws.Encoded.op_field _ _ _⟩
theorem Sys2Proof.Laws.Encoded.cbarWait (g : Guard) (o : ROps) : Sys2Proof.Laws.Encoded.Statement (.cbarWait g o) := fun _ => ⟨_, _, rfl, rfl, Sys2Proof.Laws.Encoded.op_field _ _ _⟩
theorem Sys2Proof.Laws.Encoded.cbarSync (g : Guard) (o : ROps) : Sys2Proof.Laws.Encoded.Statement (.cbarSync g o) := fun _ => ⟨_, _, rfl, rfl, Sys2Proof.Laws.Encoded.op_field _ _ _⟩
theorem Sys2Proof.Laws.Encoded.sringPost (g : Guard) (o : ROps) : Sys2Proof.Laws.Encoded.Statement (.sringPost g o) := fun _ => ⟨_, _, rfl, rfl, Sys2Proof.Laws.Encoded.op_field _ _ _⟩
theorem Sys2Proof.Laws.Encoded.sringWait (g : Guard) (o : ROps) : Sys2Proof.Laws.Encoded.Statement (.sringWait g o) := fun _ => ⟨_, _, rfl, rfl, Sys2Proof.Laws.Encoded.op_field _ _ _⟩
theorem Sys2Proof.Laws.Encoded.rgn (g : Guard) (o : COps) : Sys2Proof.Laws.Encoded.Statement (.rgn g o) := fun _ => ⟨_, _, rfl, rfl, Sys2Proof.Laws.Encoded.op_field _ _ _⟩
theorem Sys2Proof.Laws.Encoded.ppoint (g : Guard) (o : PpointOps) : Sys2Proof.Laws.Encoded.Statement (.ppoint g o) := fun _ => ⟨_, _, rfl, rfl, Sys2Proof.Laws.Encoded.op_field _ _ _⟩
theorem Sys2Proof.Laws.Encoded.trap (g : Guard) (o : ROps) : Sys2Proof.Laws.Encoded.Statement (.trap g o) := fun _ => ⟨_, _, rfl, rfl, Sys2Proof.Laws.Encoded.op_field _ _ _⟩
theorem Sys2Proof.Laws.Encoded.launch (g : Guard) (o : ROps) : Sys2Proof.Laws.Encoded.Statement (.launch g o) := fun _ => ⟨_, _, rfl, rfl, Sys2Proof.Laws.Encoded.op_field _ _ _⟩
theorem Sys2Proof.Laws.Encoded.snooze (g : Guard) (o : ROps) : Sys2Proof.Laws.Encoded.Statement (.snooze g o) := fun _ => ⟨_, _, rfl, rfl, Sys2Proof.Laws.Encoded.op_field _ _ _⟩
theorem Sys2Proof.Laws.Encoded.mma (g : Guard) (o : XOps) : Sys2Proof.Laws.Encoded.Statement (.mma g o) := fun _ => ⟨_, _, rfl, rfl, Sys2Proof.Laws.Encoded.op_field _ _ _⟩
theorem Sys2Proof.Laws.Encoded.tfill (g : Guard) (o : XOps) : Sys2Proof.Laws.Encoded.Statement (.tfill g o) := fun _ => ⟨_, _, rfl, rfl, Sys2Proof.Laws.Encoded.op_field _ _ _⟩
theorem Sys2Proof.Laws.Encoded.tfillId (g : Guard) (o : XOps) : Sys2Proof.Laws.Encoded.Statement (.tfillId g o) := fun _ => ⟨_, _, rfl, rfl, Sys2Proof.Laws.Encoded.op_field _ _ _⟩
theorem Sys2Proof.Laws.Encoded.tld (g : Guard) (o : XOps) : Sys2Proof.Laws.Encoded.Statement (.tld g o) := fun _ => ⟨_, _, rfl, rfl, Sys2Proof.Laws.Encoded.op_field _ _ _⟩
theorem Sys2Proof.Laws.Encoded.tst (g : Guard) (o : XOps) : Sys2Proof.Laws.Encoded.Statement (.tst g o) := fun _ => ⟨_, _, rfl, rfl, Sys2Proof.Laws.Encoded.op_field _ _ _⟩
theorem Sys2Proof.Laws.Encoded.tmovGet (g : Guard) (o : XOps) : Sys2Proof.Laws.Encoded.Statement (.tmovGet g o) := fun _ => ⟨_, _, rfl, rfl, Sys2Proof.Laws.Encoded.op_field _ _ _⟩
theorem Sys2Proof.Laws.Encoded.tmovPut (g : Guard) (o : XOps) : Sys2Proof.Laws.Encoded.Statement (.tmovPut g o) := fun _ => ⟨_, _, rfl, rfl, Sys2Proof.Laws.Encoded.op_field _ _ _⟩
theorem Sys2Proof.Laws.Encoded.tmask (g : Guard) (o : XOps) : Sys2Proof.Laws.Encoded.Statement (.tmask g o) := fun _ => ⟨_, _, rfl, rfl, Sys2Proof.Laws.Encoded.op_field _ _ _⟩
theorem Sys2Proof.Laws.Encoded.pbind (g : Guard) (o : XOps) : Sys2Proof.Laws.Encoded.Statement (.pbind g o) := fun _ => ⟨_, _, rfl, rfl, Sys2Proof.Laws.Encoded.op_field _ _ _⟩
theorem Sys2Proof.Laws.Encoded.pfill (g : Guard) (o : XOps) : Sys2Proof.Laws.Encoded.Statement (.pfill g o) := fun _ => ⟨_, _, rfl, rfl, Sys2Proof.Laws.Encoded.op_field _ _ _⟩
theorem Sys2Proof.Laws.Encoded.tbind (g : Guard) (o : XOps) : Sys2Proof.Laws.Encoded.Statement (.tbind g o) := fun _ => ⟨_, _, rfl, rfl, Sys2Proof.Laws.Encoded.op_field _ _ _⟩
theorem Sys2Proof.Laws.Encoded.cp (g : Guard) (o : ROps) : Sys2Proof.Laws.Encoded.Statement (.cp g o) := fun _ => ⟨_, _, rfl, rfl, Sys2Proof.Laws.Encoded.op_field _ _ _⟩
theorem Sys2Proof.Laws.Encoded.cp2d (g : Guard) (o : ROps) : Sys2Proof.Laws.Encoded.Statement (.cp2d g o) := fun _ => ⟨_, _, rfl, rfl, Sys2Proof.Laws.Encoded.op_field _ _ _⟩
theorem Sys2Proof.Laws.Encoded.gath (g : Guard) (o : ROps) : Sys2Proof.Laws.Encoded.Statement (.gath g o) := fun _ => ⟨_, _, rfl, rfl, Sys2Proof.Laws.Encoded.op_field _ _ _⟩
theorem Sys2Proof.Laws.Encoded.scat (g : Guard) (o : ROps) : Sys2Proof.Laws.Encoded.Statement (.scat g o) := fun _ => ⟨_, _, rfl, rfl, Sys2Proof.Laws.Encoded.op_field _ _ _⟩
theorem Sys2Proof.Laws.Encoded.probe (g : Guard) (o : ROps) : Sys2Proof.Laws.Encoded.Statement (.probe g o) := fun _ => ⟨_, _, rfl, rfl, Sys2Proof.Laws.Encoded.op_field _ _ _⟩
theorem Sys2Proof.Laws.Encoded.unpin (g : Guard) (o : ROps) : Sys2Proof.Laws.Encoded.Statement (.unpin g o) := fun _ => ⟨_, _, rfl, rfl, Sys2Proof.Laws.Encoded.op_field _ _ _⟩
theorem Sys2Proof.Laws.Encoded.rstrp (g : Guard) (o : ROps) : Sys2Proof.Laws.Encoded.Statement (.rstrp g o) := fun _ => ⟨_, _, rfl, rfl, Sys2Proof.Laws.Encoded.op_field _ _ _⟩
theorem Sys2Proof.Laws.Encoded.discard (g : Guard) (o : ROps) : Sys2Proof.Laws.Encoded.Statement (.discard g o) := fun _ => ⟨_, _, rfl, rfl, Sys2Proof.Laws.Encoded.op_field _ _ _⟩
theorem Sys2Proof.Laws.Encoded.cpseal (g : Guard) (o : ROps) : Sys2Proof.Laws.Encoded.Statement (.cpseal g o) := fun _ => ⟨_, _, rfl, rfl, Sys2Proof.Laws.Encoded.op_field _ _ _⟩
theorem Sys2Proof.Laws.Encoded.sortw (g : Guard) (o : ROps) : Sys2Proof.Laws.Encoded.Statement (.sortw g o) := fun _ => ⟨_, _, rfl, rfl, Sys2Proof.Laws.Encoded.op_field _ _ _⟩
theorem Sys2Proof.Laws.Encoded.sortqKey (g : Guard) (o : ROps) : Sys2Proof.Laws.Encoded.Statement (.sortqKey g o) := fun _ => ⟨_, _, rfl, rfl, Sys2Proof.Laws.Encoded.op_field _ _ _⟩
theorem Sys2Proof.Laws.Encoded.sortqAll (g : Guard) (o : ROps) : Sys2Proof.Laws.Encoded.Statement (.sortqAll g o) := fun _ => ⟨_, _, rfl, rfl, Sys2Proof.Laws.Encoded.op_field _ _ _⟩
theorem Sys2Proof.Laws.Encoded.sortd (g : Guard) (o : ROps) : Sys2Proof.Laws.Encoded.Statement (.sortd g o) := fun _ => ⟨_, _, rfl, rfl, Sys2Proof.Laws.Encoded.op_field _ _ _⟩
theorem Sys2Proof.Laws.Encoded.sortdKey (g : Guard) (o : ROps) : Sys2Proof.Laws.Encoded.Statement (.sortdKey g o) := fun _ => ⟨_, _, rfl, rfl, Sys2Proof.Laws.Encoded.op_field _ _ _⟩
theorem Sys2Proof.Laws.Encoded.sortc (g : Guard) (o : ROps) : Sys2Proof.Laws.Encoded.Statement (.sortc g o) := fun _ => ⟨_, _, rfl, rfl, Sys2Proof.Laws.Encoded.op_field _ _ _⟩
theorem Sys2Proof.Laws.Encoded.sortcJoin (g : Guard) (o : ROps) : Sys2Proof.Laws.Encoded.Statement (.sortcJoin g o) := fun _ => ⟨_, _, rfl, rfl, Sys2Proof.Laws.Encoded.op_field _ _ _⟩
theorem Sys2Proof.Laws.Encoded.msend (g : Guard) (o : ROps) : Sys2Proof.Laws.Encoded.Statement (.msend g o) := fun _ => ⟨_, _, rfl, rfl, Sys2Proof.Laws.Encoded.op_field _ _ _⟩
theorem Sys2Proof.Laws.Encoded.mdone (g : Guard) (o : ROps) : Sys2Proof.Laws.Encoded.Statement (.mdone g o) := fun _ => ⟨_, _, rfl, rfl, Sys2Proof.Laws.Encoded.op_field _ _ _⟩
theorem Sys2Proof.Laws.Encoded.sysrd (g : Guard) (o : ROps) : Sys2Proof.Laws.Encoded.Statement (.sysrd g o) := fun _ => ⟨_, _, rfl, rfl, Sys2Proof.Laws.Encoded.op_field _ _ _⟩
theorem Sys2Proof.Laws.Encoded.syswr (g : Guard) (o : ROps) : Sys2Proof.Laws.Encoded.Statement (.syswr g o) := fun _ => ⟨_, _, rfl, rfl, Sys2Proof.Laws.Encoded.op_field _ _ _⟩
theorem Sys2Proof.Laws.Encoded.tlbinvCtx (g : Guard) (o : ROps) : Sys2Proof.Laws.Encoded.Statement (.tlbinvCtx g o) := fun _ => ⟨_, _, rfl, rfl, Sys2Proof.Laws.Encoded.op_field _ _ _⟩
theorem Sys2Proof.Laws.Encoded.tlbinvRange (g : Guard) (o : ROps) : Sys2Proof.Laws.Encoded.Statement (.tlbinvRange g o) := fun _ => ⟨_, _, rfl, rfl, Sys2Proof.Laws.Encoded.op_field _ _ _⟩
theorem Sys2Proof.Laws.Encoded.tlbinvAll (g : Guard) (o : ROps) : Sys2Proof.Laws.Encoded.Statement (.tlbinvAll g o) := fun _ => ⟨_, _, rfl, rfl, Sys2Proof.Laws.Encoded.op_field _ _ _⟩
theorem Sys2Proof.Laws.Encoded.cinv (g : Guard) (o : ROps) : Sys2Proof.Laws.Encoded.Statement (.cinv g o) := fun _ => ⟨_, _, rfl, rfl, Sys2Proof.Laws.Encoded.op_field _ _ _⟩
theorem Sys2Proof.Laws.Encoded.gtime (g : Guard) (o : ROps) : Sys2Proof.Laws.Encoded.Statement (.gtime g o) := fun _ => ⟨_, _, rfl, rfl, Sys2Proof.Laws.Encoded.op_field _ _ _⟩
theorem Sys2Proof.Laws.Encoded.hlt (g : Guard) (o : ROps) : Sys2Proof.Laws.Encoded.Statement (.hlt g o) := fun _ => ⟨_, _, rfl, rfl, Sys2Proof.Laws.Encoded.op_field _ _ _⟩
theorem Sys2Proof.Laws.Encoded.parityRefetch (core slot : Nat) : Sys2Proof.Laws.Encoded.Statement (.parityRefetch core slot) := fun h => nomatch h
theorem Sys2Proof.Laws.Encoded.fairnessTimerExpiry (core slot : Nat) : Sys2Proof.Laws.Encoded.Statement (.fairnessTimerExpiry core slot) := fun h => nomatch h
theorem Sys2Proof.Laws.Encoded.watchdogExpiry (core slot : Nat) : Sys2Proof.Laws.Encoded.Statement (.watchdogExpiry core slot) := fun h => nomatch h
theorem Sys2Proof.Laws.Encoded.snoozeExpiry (core slot : Nat) : Sys2Proof.Laws.Encoded.Statement (.snoozeExpiry core slot) := fun h => nomatch h
theorem Sys2Proof.Laws.Encoded.rejectionAgeLimit (core : Nat) : Sys2Proof.Laws.Encoded.Statement (.rejectionAgeLimit core) := fun h => nomatch h
theorem Sys2Proof.Laws.Encoded.loadDataReturn (req : Nat) : Sys2Proof.Laws.Encoded.Statement (.loadDataReturn req) := fun h => nomatch h
theorem Sys2Proof.Laws.Encoded.homeWritePerform (req : Nat) : Sys2Proof.Laws.Encoded.Statement (.homeWritePerform req) := fun h => nomatch h
theorem Sys2Proof.Laws.Encoded.writeCompletionReturn (req : Nat) : Sys2Proof.Laws.Encoded.Statement (.writeCompletionReturn req) := fun h => nomatch h
theorem Sys2Proof.Laws.Encoded.fencePass (core slot : Nat) : Sys2Proof.Laws.Encoded.Statement (.fencePass core slot) := fun h => nomatch h
theorem Sys2Proof.Laws.Encoded.l1FillServe (core line : Nat) : Sys2Proof.Laws.Encoded.Statement (.l1FillServe core line) := fun h => nomatch h
theorem Sys2Proof.Laws.Encoded.leaseExpiry (core line : Nat) : Sys2Proof.Laws.Encoded.Statement (.leaseExpiry core line) := fun h => nomatch h
theorem Sys2Proof.Laws.Encoded.sliceEviction (line : Nat) : Sys2Proof.Laws.Encoded.Statement (.sliceEviction line) := fun h => nomatch h
theorem Sys2Proof.Laws.Encoded.tlbWalk (core ctx va : Nat) : Sys2Proof.Laws.Encoded.Statement (.tlbWalk core ctx va) := fun h => nomatch h
theorem Sys2Proof.Laws.Encoded.fransSuccess (w : DWord) : Sys2Proof.Laws.Encoded.Statement (.fransSuccess w) := fun h => nomatch h
theorem Sys2Proof.Laws.Encoded.fransFailure (w : DWord) : Sys2Proof.Laws.Encoded.Statement (.fransFailure w) := fun h => nomatch h
theorem Sys2Proof.Laws.Encoded.frheadWrite (w : Word) : Sys2Proof.Laws.Encoded.Statement (.frheadWrite w) := fun h => nomatch h
theorem Sys2Proof.Laws.Encoded.frsizeWrite (w : Word) : Sys2Proof.Laws.Encoded.Statement (.frsizeWrite w) := fun h => nomatch h
theorem Sys2Proof.Laws.Encoded.frstatOvfClear : Sys2Proof.Laws.Encoded.Statement .frstatOvfClear := fun h => nomatch h
theorem Sys2Proof.Laws.Encoded.nbvWrite (w : Word) : Sys2Proof.Laws.Encoded.Statement (.nbvWrite w) := fun h => nomatch h
theorem Sys2Proof.Laws.Encoded.leaseWrite (w : Word) : Sys2Proof.Laws.Encoded.Statement (.leaseWrite w) := fun h => nomatch h
theorem Sys2Proof.Laws.Encoded.slpinWrite (w : Word) : Sys2Proof.Laws.Encoded.Statement (.slpinWrite w) := fun h => nomatch h
theorem Sys2Proof.Laws.Encoded.systemRegisterWrite (reg : BitVec 12) (ctx : Nat) (w : DWord) : Sys2Proof.Laws.Encoded.Statement (.systemRegisterWrite reg ctx w) := fun h => nomatch h
theorem Sys2Proof.Laws.Encoded.group5EntryStart (core : Nat) : Sys2Proof.Laws.Encoded.Statement (.group5EntryStart core) := fun h => nomatch h
theorem Sys2Proof.Laws.Encoded.mmaKstep (core : Nat) : Sys2Proof.Laws.Encoded.Statement (.mmaKstep core) := fun h => nomatch h
theorem Sys2Proof.Laws.Encoded.group5EntryComplete (core : Nat) : Sys2Proof.Laws.Encoded.Statement (.group5EntryComplete core) := fun h => nomatch h
theorem Sys2Proof.Laws.Encoded.copyOpStart (core : Nat) : Sys2Proof.Laws.Encoded.Statement (.copyOpStart core) := fun h => nomatch h
theorem Sys2Proof.Laws.Encoded.cpChunk (op : Nat) : Sys2Proof.Laws.Encoded.Statement (.cpChunk op) := fun h => nomatch h
theorem Sys2Proof.Laws.Encoded.gatherProbePass (op : Nat) : Sys2Proof.Laws.Encoded.Statement (.gatherProbePass op) := fun h => nomatch h
theorem Sys2Proof.Laws.Encoded.gatherVector (op : Nat) : Sys2Proof.Laws.Encoded.Statement (.gatherVector op) := fun h => nomatch h
theorem Sys2Proof.Laws.Encoded.cpsealRecordWrite (op : Nat) : Sys2Proof.Laws.Encoded.Statement (.cpsealRecordWrite op) := fun h => nomatch h
theorem Sys2Proof.Laws.Encoded.rstrpStart (op : Nat) : Sys2Proof.Laws.Encoded.Statement (.rstrpStart op) := fun h => nomatch h
theorem Sys2Proof.Laws.Encoded.rstrpLineCopy (op : Nat) : Sys2Proof.Laws.Encoded.Statement (.rstrpLineCopy op) := fun h => nomatch h
theorem Sys2Proof.Laws.Encoded.rstrpPageShootdown (op : Nat) : Sys2Proof.Laws.Encoded.Statement (.rstrpPageShootdown op) := fun h => nomatch h
theorem Sys2Proof.Laws.Encoded.rstrpReturnEntry (op : Nat) : Sys2Proof.Laws.Encoded.Statement (.rstrpReturnEntry op) := fun h => nomatch h
theorem Sys2Proof.Laws.Encoded.discardSliceWalk (op slice : Nat) : Sys2Proof.Laws.Encoded.Statement (.discardSliceWalk op slice) := fun h => nomatch h
theorem Sys2Proof.Laws.Encoded.copyOpRetire (op : Nat) : Sys2Proof.Laws.Encoded.Statement (.copyOpRetire op) := fun h => nomatch h
theorem Sys2Proof.Laws.Encoded.sorterRunAccept (core slot : Nat) : Sys2Proof.Laws.Encoded.Statement (.sorterRunAccept core slot) := fun h => nomatch h
theorem Sys2Proof.Laws.Encoded.basketEmit (ctx cluster stage key : Nat) : Sys2Proof.Laws.Encoded.Statement (.basketEmit ctx cluster stage key) := fun h => nomatch h
theorem Sys2Proof.Laws.Encoded.drainEmission (ctx cluster stage : Nat) : Sys2Proof.Laws.Encoded.Statement (.drainEmission ctx cluster stage) := fun h => nomatch h
theorem Sys2Proof.Laws.Encoded.spillReadback (ctx cluster arr : Nat) : Sys2Proof.Laws.Encoded.Statement (.spillReadback ctx cluster arr) := fun h => nomatch h
theorem Sys2Proof.Laws.Encoded.basketAgeExpiry (ctx cluster stage key : Nat) : Sys2Proof.Laws.Encoded.Statement (.basketAgeExpiry ctx cluster stage key) := fun h => nomatch h
theorem Sys2Proof.Laws.Encoded.sortqReply (core slot : Nat) : Sys2Proof.Laws.Encoded.Statement (.sortqReply core slot) := fun h => nomatch h
theorem Sys2Proof.Laws.Encoded.domainStuck (ctx cluster : Nat) : Sys2Proof.Laws.Encoded.Statement (.domainStuck ctx cluster) := fun h => nomatch h
theorem Sys2Proof.Laws.Encoded.messageArrival (msg : Nat) : Sys2Proof.Laws.Encoded.Statement (.messageArrival msg) := fun h => nomatch h
theorem Sys2Proof.Laws.Encoded.handlerWarpForm (core : Nat) : Sys2Proof.Laws.Encoded.Statement (.handlerWarpForm core) := fun h => nomatch h
theorem Sys2Proof.Laws.Encoded.clusterReset (w : DWord) : Sys2Proof.Laws.Encoded.Statement (.clusterReset w) := fun h => nomatch h
theorem Sys2Proof.Laws.Encoded.kill (w : Word) : Sys2Proof.Laws.Encoded.Statement (.kill w) := fun h => nomatch h
theorem Sys2Proof.Laws.Encoded.hostQueuePublish (queue : Nat) (wr : Word) : Sys2Proof.Laws.Encoded.Statement (.hostQueuePublish queue wr) := fun h => nomatch h
theorem Sys2Proof.Laws.Encoded.launchAccept : Sys2Proof.Laws.Encoded.Statement .launchAccept := fun h => nomatch h
theorem Sys2Proof.Laws.Encoded.clusterPlace (ctx : Nat) : Sys2Proof.Laws.Encoded.Statement (.clusterPlace ctx) := fun h => nomatch h
theorem Sys2Proof.Laws.Encoded.blockRetire (ctx cluster bid : Nat) : Sys2Proof.Laws.Encoded.Statement (.blockRetire ctx cluster bid) := fun h => nomatch h
theorem Sys2Proof.Laws.Encoded.clusterRetire (ctx cluster : Nat) : Sys2Proof.Laws.Encoded.Statement (.clusterRetire ctx cluster) := fun h => nomatch h
theorem Sys2Proof.Laws.Encoded.cmapBitSet (ctx cluster : Nat) : Sys2Proof.Laws.Encoded.Statement (.cmapBitSet ctx cluster) := fun h => nomatch h
theorem Sys2Proof.Laws.Encoded.preemptSoft (w : Word) : Sys2Proof.Laws.Encoded.Statement (.preemptSoft w) := fun h => nomatch h
theorem Sys2Proof.Laws.Encoded.preemptHard (w : Word) : Sys2Proof.Laws.Encoded.Statement (.preemptHard w) := fun h => nomatch h
theorem Sys2Proof.Laws.Encoded.restore (w : Word) : Sys2Proof.Laws.Encoded.Statement (.restore w) := fun h => nomatch h
theorem Sys2Proof.Laws.Encoded.engineStopAck (engine : Engine) : Sys2Proof.Laws.Encoded.Statement (.engineStopAck engine) := fun h => nomatch h
theorem Sys2Proof.Laws.Encoded.pdeadlineExpiry : Sys2Proof.Laws.Encoded.Statement .pdeadlineExpiry := fun h => nomatch h
theorem Sys2Proof.Laws.Encoded.contextSave : Sys2Proof.Laws.Encoded.Statement .contextSave := fun h => nomatch h
theorem Sys2Proof.Laws.Encoded.debugResumeWarp (ctx : Nat) : Sys2Proof.Laws.Encoded.Statement (.debugResumeWarp ctx) := fun h => nomatch h
theorem Sys2Proof.Laws.Encoded.debugResumeAll (ctx : Nat) : Sys2Proof.Laws.Encoded.Statement (.debugResumeAll ctx) := fun h => nomatch h
theorem Sys2Proof.Laws.Encoded.debugWindowWrite (ctx offset : Nat) (data : List Byte) : Sys2Proof.Laws.Encoded.Statement (.debugWindowWrite ctx offset data) := fun h => nomatch h
theorem Sys2Proof.Laws.Encoded.hostWindowRead (offset size : Nat) : Sys2Proof.Laws.Encoded.Statement (.hostWindowRead offset size) := fun h => nomatch h
theorem Sys2Proof.Laws.Encoded.hostWindowWrite (offset : Nat) (data : List Byte) : Sys2Proof.Laws.Encoded.Statement (.hostWindowWrite offset data) := fun h => nomatch h
theorem Sys2Proof.Laws.Encoded.ownershipFlipToHost (w : Word) : Sys2Proof.Laws.Encoded.Statement (.ownershipFlipToHost w) := fun h => nomatch h
theorem Sys2Proof.Laws.Encoded.ownershipFlipToDevice (w : Word) : Sys2Proof.Laws.Encoded.Statement (.ownershipFlipToDevice w) := fun h => nomatch h
theorem Sys2Proof.Laws.Encoded.ownershipFlipComplete : Sys2Proof.Laws.Encoded.Statement .ownershipFlipComplete := fun h => nomatch h
theorem Sys2Proof.Laws.Encoded.peerInboundWrite (port addr : Nat) (data : List Byte) : Sys2Proof.Laws.Encoded.Statement (.peerInboundWrite port addr data) := fun h => nomatch h
theorem Sys2Proof.Laws.Encoded.peerInboundRead (port addr size : Nat) : Sys2Proof.Laws.Encoded.Statement (.peerInboundRead port addr size) := fun h => nomatch h
theorem Sys2Proof.Laws.Encoded.peerLinkDown (port : Nat) : Sys2Proof.Laws.Encoded.Statement (.peerLinkDown port) := fun h => nomatch h
theorem Sys2Proof.Laws.Encoded.attest : Sys2Proof.Laws.Encoded.Statement .attest := fun h => nomatch h
theorem Sys2Proof.Laws.Encoded.regcode : Sys2Proof.Laws.Encoded.Statement .regcode := fun h => nomatch h
theorem Sys2Proof.Laws.Encoded.unregcode : Sys2Proof.Laws.Encoded.Statement .unregcode := fun h => nomatch h
theorem Sys2Proof.Laws.Encoded.signhead : Sys2Proof.Laws.Encoded.Statement .signhead := fun h => nomatch h
theorem Sys2Proof.Laws.Encoded.unseal : Sys2Proof.Laws.Encoded.Statement .unseal := fun h => nomatch h
theorem Sys2Proof.Laws.Encoded.bbread : Sys2Proof.Laws.Encoded.Statement .bbread := fun h => nomatch h
theorem Sys2Proof.Laws.Encoded.fwload : Sys2Proof.Laws.Encoded.Statement .fwload := fun h => nomatch h
theorem Sys2Proof.Laws.Encoded.coldReset : Sys2Proof.Laws.Encoded.Statement .coldReset := fun h => nomatch h
theorem Sys2Proof.Laws.Encoded.warmReset : Sys2Proof.Laws.Encoded.Statement .warmReset := fun h => nomatch h
theorem Sys2Proof.Laws.Encoded.softErrorCorrected : Sys2Proof.Laws.Encoded.Statement .softErrorCorrected := fun h => nomatch h
theorem Sys2Proof.Laws.Encoded.uncorrectableError (at_ : ErrorSite) : Sys2Proof.Laws.Encoded.Statement (.uncorrectableError at_) := fun h => nomatch h
theorem Sys2Proof.Laws.Encoded.coreGroupRetire (group : Nat) : Sys2Proof.Laws.Encoded.Statement (.coreGroupRetire group) := fun h => nomatch h
theorem Sys2Proof.Laws.Encoded.clockGovernorStep (die mhz : Nat) : Sys2Proof.Laws.Encoded.Statement (.clockGovernorStep die mhz) := fun h => nomatch h
theorem Sys2Proof.Laws.Encoded.thermalShutdown : Sys2Proof.Laws.Encoded.Statement .thermalShutdown := fun h => nomatch h
theorem Sys2Proof.Laws.Encoded.constantCacheFill (core ctx line : Nat) : Sys2Proof.Laws.Encoded.Statement (.constantCacheFill core ctx line) := fun h => nomatch h
theorem Sys2Proof.Laws.Encoded.instructionFetch (core ctx line : Nat) : Sys2Proof.Laws.Encoded.Statement (.instructionFetch core ctx line) := fun h => nomatch h
theorem Sys2Proof.Laws.Encoded.wringerArrival (msg : Nat) : Sys2Proof.Laws.Encoded.Statement (.wringerArrival msg) := fun h => nomatch h
end

