-- ==== Sys2Proof/Tests/Slice0.lean ====
section
/-! SUPPORT. The model's own tests: words written out from the encoding tables of 02_instruction_word, ill-formed terms that the
checks refuse, single steps whose results the spec states or that follow from it by hand, and for each statement a state that meets
its hypotheses. Expected values come from the spec's examples and tables. -/

namespace Sys2Proof.Tests

-- One theorem at a time: the kernel's evaluations side by side would need several times the memory.
set_option Elab.async false

open Sys2Proof Sys2Proof.Machine Sys2Proof.Claims

/-! ### Words -/

/-- A word of Table 4: TT, the guard predicates, OP and the body. -/
def wordOf (g : Nat × Nat × Nat × Nat) (op body : Nat) : Nat :=
  g.1 * 2 ^ 88 + g.2.1 * 2 ^ 85 + g.2.2.1 * 2 ^ 82 + g.2.2.2 * 2 ^ 79 + op * 2 ^ 69 + body

def wordR (d a c b w ty m : Nat) : Nat := d * 2 ^ 60 + a * 2 ^ 51 + c * 2 ^ 42 + b * 2 ^ 22 + w * 2 ^ 21 + ty * 2 ^ 16 + m
def wordI (d a c imm ty m : Nat) : Nat := d * 2 ^ 60 + a * 2 ^ 51 + c * 2 ^ 42 + imm * 2 ^ 10 + ty * 2 ^ 5 + m
def wordP (pt pf cmb cc a b w ty : Nat) : Nat :=
  pt * 2 ^ 66 + pf * 2 ^ 63 + cmb * 2 ^ 61 + cc * 2 ^ 57 + a * 2 ^ 48 + b * 2 ^ 28 + w * 2 ^ 27 + ty * 2 ^ 22
def wordQ (q3 q2 q1 tq : Nat) : Nat := q3 * 2 ^ 14 + q2 * 2 ^ 11 + q1 * 2 ^ 8 + tq
def wordM (d a x off xs sp ty lc aop : Nat) : Nat :=
  d * 2 ^ 60 + a * 2 ^ 51 + x * 2 ^ 42 + off * 2 ^ 18 + xs * 2 ^ 16 + sp * 2 ^ 13 + ty * 2 ^ 8 + lc * 2 ^ 6 + aop
def wordC (disp a cb m : Nat) : Nat := disp * 2 ^ 37 + a * 2 ^ 28 + cb * 2 ^ 24 + m
def wordW (nld nst ncp nmx : Nat) : Nat := nld * 2 ^ 62 + nst * 2 ^ 55 + ncp * 2 ^ 48 + nmx * 2 ^ 41
def wordX (acc prs aop skp opt tya kst asrc m : Nat) : Nat :=
  acc * 2 ^ 65 + prs * 2 ^ 61 + aop * 2 ^ 52 + skp * 2 ^ 43 + opt * 2 ^ 40 + tya * 2 ^ 35 + kst * 2 ^ 22 + asrc * 2 ^ 20 + m

/-- A word with its guard, opcode and body decodes to an instruction. -/
def reads (g : Nat × Nat × Nat × Nat) (op body : Nat) (i : Instr) : Bool := decodeTableWord 96 (wordOf g op body) == some i

def all : Guard := ⟨0xFF, 0, 0, 0⟩
def open_ : Nat × Nat × Nat × Nat := (0xFF, 0, 0, 0)

theorem test_words_integer_0 :
    (reads open_ 0x0 (wordR 0x1 0x2 0x1ff 0x3 0 0x1 0x1) (.add all ⟨(.v 1), (.v 2), .z, (.reg (.v 3)), .n32, 0x1⟩) &&
      reads open_ 0x1 (wordR 0x4 0x6 0x1ff 0x8 0 0x6 0x0) (.sub all ⟨(.v 4), (.v 6), .z, (.reg (.v 8)), .s64, 0x0⟩) &&
      reads open_ 0x2 (wordR 0x1 0x102 0x1ff 0x103 0 0x0 0x0) (.mul all ⟨(.v 1), (.k 2), .z, (.reg (.k 3)), .s32, 0x0⟩) &&
      reads open_ 0x3 (wordR 0x1 0x2 0x1ff 0x3 0 0x3 0x0) (.mulhi all ⟨(.v 1), (.v 2), .z, (.reg (.v 3)), .n16, 0x0⟩) &&
      reads open_ 0x4 (wordR 0x1 0x2 0x4 0x60120 1 0x0 0x0) (.mad all ⟨(.v 1), (.v 2), (.v 4), (.win 3 0x120), .s32, 0x0⟩) &&
      reads open_ 0x5 (wordR 0x1 0x2 0x4 0x3 0 0x1 0x0) (.madhi all ⟨(.v 1), (.v 2), (.v 4), (.reg (.v 3)), .n32, 0x0⟩)) = true := by decide

theorem test_words_integer_1 :
    (reads open_ 0x6 (wordR 0x1 0x140 0x1ff 0x3 0 0x4 0x0) (.min all ⟨(.v 1), (.sp .lane), .z, (.reg (.v 3)), .s8, 0x0⟩) &&
      reads open_ 0x7 (wordR 0x121 0x2 0x1ff 0x3 0 0x5 0x0) (.max all ⟨(.k 33), (.v 2), .z, (.reg (.v 3)), .n8, 0x0⟩) &&
      reads open_ 0x8 (wordR 0x1 0x2 0x1ff 0x1ff 0 0x2 0x1) (.abs all ⟨(.v 1), (.v 2), .z, (.reg .z), .s16, 0x1⟩) &&
      reads open_ 0x9 (wordR 0x1 0x2 0x1ff 0x1ff 0 0x0 0x0) (.neg all ⟨(.v 1), (.v 2), .z, (.reg .z), .s32, 0x0⟩) &&
      reads open_ 0xa (wordR 0x1 0x2 0x4 0x3 0 0x5 0x0) (.sad all ⟨(.v 1), (.v 2), (.v 4), (.reg (.v 3)), .n8, 0x0⟩) &&
      reads open_ 0xb (wordR 0x1 0x2 0x4 0x3 0 0x4 0x2) (.dot4 all ⟨(.v 1), (.v 2), (.v 4), (.reg (.v 3)), .s8, 0x2⟩)) = true := by decide

theorem test_words_integer_2 :
    (reads open_ 0xc (wordR 0x2 0x4 0x1ff 0x3 0 0x7 0xa) (.lea all ⟨(.v 2), (.v 4), .z, (.reg (.v 3)), .n64, 0xa⟩) &&
      reads open_ 0xd (wordR 0x1 0x2 0x1ff 0x3 0 0xf 0x0) (.and all ⟨(.v 1), (.v 2), .z, (.reg (.v 3)), .b32, 0x0⟩) &&
      reads open_ 0xe (wordR 0x2 0x4 0x1ff 0x6 0 0x10 0x0) (.or all ⟨(.v 2), (.v 4), .z, (.reg (.v 6)), .b64, 0x0⟩) &&
      reads open_ 0xf (wordR 0x1 0x2 0x1ff 0x3 0 0xd 0x0) (.xor all ⟨(.v 1), (.v 2), .z, (.reg (.v 3)), .b8, 0x0⟩) &&
      reads open_ 0x10 (wordR 0x1 0x2 0x4 0x3 0 0xf 0x96) (.bitop all ⟨(.v 1), (.v 2), (.v 4), (.reg (.v 3)), .b32, 0x96⟩) &&
      reads open_ 0x11 (wordR 0x1 0x2 0x1ff 0x3 0 0xf 0x0) (.shl all ⟨(.v 1), (.v 2), .z, (.reg (.v 3)), .b32, 0x0⟩)) = true := by decide

theorem test_words_integer_3 :
    (reads open_ 0x12 (wordR 0x2 0x4 0x1ff 0x3 0 0x10 0x0) (.shr all ⟨(.v 2), (.v 4), .z, (.reg (.v 3)), .b64, 0x0⟩) &&
      reads open_ 0x13 (wordR 0x1 0x2 0x1ff 0x3 0 0x0 0x0) (.sra all ⟨(.v 1), (.v 2), .z, (.reg (.v 3)), .s32, 0x0⟩) &&
      reads open_ 0x14 (wordR 0x1 0x2 0x1ff 0x3 0 0xf 0x0) (.rotl all ⟨(.v 1), (.v 2), .z, (.reg (.v 3)), .b32, 0x0⟩) &&
      reads open_ 0x15 (wordR 0x1 0x2 0x1ff 0x3 0 0xf 0x0) (.rotr all ⟨(.v 1), (.v 2), .z, (.reg (.v 3)), .b32, 0x0⟩) &&
      reads open_ 0x16 (wordR 0x1 0x2 0x1ff 0x1ff 0 0x10 0x0) (.clz all ⟨(.v 1), (.v 2), .z, (.reg .z), .b64, 0x0⟩) &&
      reads open_ 0x17 (wordR 0x1 0x2 0x1ff 0x1ff 0 0xf 0x0) (.ctz all ⟨(.v 1), (.v 2), .z, (.reg .z), .b32, 0x0⟩)) = true := by decide

theorem test_words_integer_4 :
    (reads open_ 0x18 (wordR 0x1 0x2 0x1ff 0x1ff 0 0xf 0x0) (.popc all ⟨(.v 1), (.v 2), .z, (.reg .z), .b32, 0x0⟩) &&
      reads open_ 0x19 (wordR 0x1 0x2 0x1ff 0x1ff 0 0xf 0x0) (.brev all ⟨(.v 1), (.v 2), .z, (.reg .z), .b32, 0x0⟩) &&
      reads open_ 0x1a (wordR 0x1 0x2 0x1ff 0x3 0 0x0 0x0) (.bfx all ⟨(.v 1), (.v 2), .z, (.reg (.v 3)), .s32, 0x0⟩) &&
      reads open_ 0x1b (wordR 0x1 0x2 0x4 0x3 0 0xf 0x0) (.bfi all ⟨(.v 1), (.v 2), (.v 4), (.reg (.v 3)), .b32, 0x0⟩) &&
      reads open_ 0x1c (wordR 0x1 0x2 0x1ff 0x3 0 0xf 0x9) (.sel all ⟨(.v 1), (.v 2), .z, (.reg (.v 3)), .b32, 0x9⟩) &&
      reads open_ 0x1d (wordR 0x5 0x1ff 0x1ff 0x155 0 0xf 0x0) (.mov all ⟨(.v 5), .z, .z, (.reg (.sp .fstat)), .b32, 0x0⟩)) = true := by decide

theorem test_words_integer_5 :
    (reads open_ 0x1e (wordI 0x2 0x1ff 0x1ff 0x3f800000 0x8 0x0) (.movi all ⟨(.v 2), .z, .z, 0x3f800000, .f32, 0x0⟩) &&
      reads open_ 0x1f (wordI 0x1 0x2 0x1ff 0xffffffff 0x0 0x1) (.addi all ⟨(.v 1), (.v 2), .z, 0xffffffff, .s32, 0x1⟩) &&
      reads open_ 0x20 (wordR 0x1 0x2 0x1ff 0x3 0 0xf 0x15) (.shfl all ⟨(.v 1), (.v 2), .z, (.reg (.v 3)), .b32, 0x15⟩) &&
      reads open_ 0x21 (wordR 0x1 0x1ff 0x1ff 0x1ff 0 0xf 0xc) (.voteAny all ⟨(.v 1), .z, .z, (.reg .z), .b32, 0xc⟩) &&
      reads open_ 0x21 (wordR 0x1 0x1ff 0x1ff 0x1ff 0 0xf 0x25) (.voteAll all ⟨(.v 1), .z, .z, (.reg .z), .b32, 0x25⟩) &&
      reads open_ 0x21 (wordR 0x1 0x1ff 0x1ff 0x1ff 0 0xf 0xa) (.voteMask all ⟨(.v 1), .z, .z, (.reg .z), .b32, 0xa⟩)) = true := by decide

theorem test_words_integer_6 :
    (reads open_ 0x22 (wordR 0x1 0x2 0x1ff 0x1ff 0 0x10 0x0) (.matchAny all ⟨(.v 1), (.v 2), .z, (.reg .z), .b64, 0x0⟩) &&
      reads open_ 0x22 (wordR 0x1 0x2 0x1ff 0x1ff 0 0xf 0x1) (.matchAll all ⟨(.v 1), (.v 2), .z, (.reg .z), .b32, 0x1⟩) &&
      reads open_ 0x23 (wordR 0x1 0x2 0x1ff 0x3 0 0xf 0x0) (.rdlane all ⟨(.v 1), (.v 2), .z, (.reg (.v 3)), .b32, 0x0⟩) &&
      reads open_ 0x24 (wordR 0x1 0x2 0x1ff 0x1ff 0 0x1 0x8) (.wscan all ⟨(.v 1), (.v 2), .z, (.reg .z), .n32, 0x8⟩) &&
      reads open_ 0x25 (wordR 0x1 0x2 0x1ff 0x1ff 0 0xf 0x5) (.wred all ⟨(.v 1), (.v 2), .z, (.reg .z), .b32, 0x5⟩)) = true := by decide

theorem test_words_float_0 :
    (reads open_ 0x80 (wordR 0x1 0x2 0x1ff 0x3 0 0x8 0x3) (.fadd all ⟨(.v 1), (.v 2), .z, (.reg (.v 3)), .f32, 0x3⟩) &&
      reads open_ 0x81 (wordR 0x1 0x2 0x1ff 0x3 0 0x9 0x0) (.fsub all ⟨(.v 1), (.v 2), .z, (.reg (.v 3)), .f16, 0x0⟩) &&
      reads open_ 0x82 (wordR 0x1 0x2 0x1ff 0x3 0 0xa 0x0) (.fmul all ⟨(.v 1), (.v 2), .z, (.reg (.v 3)), .bf16, 0x0⟩) &&
      reads open_ 0x83 (wordR 0x1 0x2 0x4 0x3 0 0x12 0x1) (.ffma all ⟨(.v 1), (.v 2), (.v 4), (.reg (.v 3)), .f16x2, 0x1⟩) &&
      reads open_ 0x84 (wordR 0x1 0x2 0x1ff 0x3 0 0x8 0x0) (.fmin all ⟨(.v 1), (.v 2), .z, (.reg (.v 3)), .f32, 0x0⟩) &&
      reads open_ 0x85 (wordR 0x1 0x2 0x1ff 0x3 0 0x13 0x0) (.fmax all ⟨(.v 1), (.v 2), .z, (.reg (.v 3)), .bf16x2, 0x0⟩)) = true := by decide

theorem test_words_float_1 :
    (reads open_ 0x86 (wordR 0x1 0x2 0x1ff 0x1ff 0 0x8 0x0) (.frcp all ⟨(.v 1), (.v 2), .z, (.reg .z), .f32, 0x0⟩) &&
      reads open_ 0x87 (wordR 0x1 0x2 0x1ff 0x1ff 0 0x8 0x0) (.frsq all ⟨(.v 1), (.v 2), .z, (.reg .z), .f32, 0x0⟩) &&
      reads open_ 0x88 (wordR 0x1 0x2 0x1ff 0x1ff 0 0x8 0x2) (.fsqrt all ⟨(.v 1), (.v 2), .z, (.reg .z), .f32, 0x2⟩) &&
      reads open_ 0x89 (wordR 0x1 0x2 0x1ff 0x1ff 0 0x8 0x0) (.fex2 all ⟨(.v 1), (.v 2), .z, (.reg .z), .f32, 0x0⟩) &&
      reads open_ 0x8a (wordR 0x1 0x2 0x1ff 0x1ff 0 0x8 0x0) (.flg2 all ⟨(.v 1), (.v 2), .z, (.reg .z), .f32, 0x0⟩) &&
      reads open_ 0x8b (wordR 0x1 0x2 0x1ff 0x1ff 0 0x8 0x0) (.fsin all ⟨(.v 1), (.v 2), .z, (.reg .z), .f32, 0x0⟩)) = true := by decide

theorem test_words_float_2 :
    (reads open_ 0x8c (wordR 0x1 0x2 0x1ff 0x1ff 0 0x8 0x0) (.fcos all ⟨(.v 1), (.v 2), .z, (.reg .z), .f32, 0x0⟩) &&
      reads open_ 0x8d (wordR 0x1 0x2 0x1ff 0x1ff 0 0x8 0x1) (.frnd all ⟨(.v 1), (.v 2), .z, (.reg .z), .f32, 0x1⟩) &&
      reads open_ 0x8e (wordR 0x1 0x2 0x1ff 0x3 0 0x8 0x0) (.fscale all ⟨(.v 1), (.v 2), .z, (.reg (.v 3)), .f32, 0x0⟩) &&
      reads open_ 0x8f (wordR 0x1 0x2 0x4 0x3 0 0x12 0x0) (.fdot2 all ⟨(.v 1), (.v 2), (.v 4), (.reg (.v 3)), .f16x2, 0x0⟩) &&
      reads open_ 0x90 (wordR 0x1 0x2 0x1ff 0x1ff 0 0x9 0x0) (.fclass all ⟨(.v 1), (.v 2), .z, (.reg .z), .f16, 0x0⟩) &&
      reads open_ 0x90 (wordR 0x1 0x1ff 0x1ff 0x1ff 0 0xf 0x1) (.fclassTake all ⟨(.v 1), .z, .z, (.reg .z), .b32, 0x1⟩)) = true := by decide

theorem test_words_float_3 :
    (reads open_ 0x91 (wordR 0x1 0x2 0x1ff 0x1ff 0 0x0 0x28) (.cvt all ⟨(.v 1), (.v 2), .z, (.reg .z), .s32, 0x28⟩) &&
      reads open_ 0x92 (wordR 0x1 0x2 0x1ff 0x3 0 0x12 0x4) (.pack2 all ⟨(.v 1), (.v 2), .z, (.reg (.v 3)), .f16x2, 0x4⟩) &&
      reads open_ 0x93 (wordR 0x1 0x2 0x1ff 0x3 0 0xb 0x2) (.dtdec all ⟨(.v 1), (.v 2), .z, (.reg (.v 3)), .dt8, 0x2⟩) &&
      reads open_ 0x94 (wordR 0x1 0x2 0x4 0x3 0 0xb 0x3) (.dtenc all ⟨(.v 1), (.v 2), (.v 4), (.reg (.v 3)), .dt8, 0x3⟩)) = true := by decide

theorem test_words_predicate_0 :
    (reads open_ 0x100 (wordP 1 2 0 2 0x3 0x4 0 0x0) (.icmp all ⟨1, 2, 0, 2, (.v 3), (.reg (.v 4)), .s32⟩) &&
      reads open_ 0x101 (wordP 1 0 1 13 0x3 0xe0005 1 0x8) (.fcmp all ⟨1, 0, 1, 13, (.v 3), (.win 7 0x5), .f32⟩) &&
      reads open_ 0x102 (wordP 1 2 2 0 0x1ff (wordQ 5 6 7 0xe8) 0 0) (.pset all ⟨1, 2, 2, 5, 6, 7, 0xe8⟩) &&
      reads open_ 0x103 (wordP 3 4 0 0 0x5 0x6 0 0xf) (.btst all ⟨3, 4, 0, 0, (.v 5), (.reg (.v 6)), .b32⟩) &&
      reads open_ 0x104 (wordR 0x1 0x1ff 0x1ff 0x1ff 0 0xf 0x0) (.pmovToReg all ⟨(.v 1), .z, .z, (.reg .z), .b32, 0x0⟩) &&
      reads open_ 0x104 (wordR 0x1ff 0x2 0x1ff 0x1ff 0 0xf 0xfe01) (.pmovToPred all ⟨.z, (.v 2), .z, (.reg .z), .b32, 0xfe01⟩)) = true := by decide

theorem test_words_memory_0 :
    (reads open_ 0x180 (wordM 0x4 0x2 0x6 0xfffffc 2 0 0xf 1 0) (.ld all ⟨(.v 4), (.v 2), (.v 6), 0xfffffc, 2, 0, .b32, 1, 0⟩) &&
      reads open_ 0x181 (wordM 0x4 0x2 0x1ff 0x4 0 1 0xd 0 0) (.st all ⟨(.v 4), (.v 2), .z, 0x4, 0, 1, .b8, 0, 0⟩) &&
      reads open_ 0x182 (wordM 0x4 0x2 0x1ff 0x8 0 0 0x7 0 3) (.ldc all ⟨(.v 4), (.v 2), .z, 0x8, 0, 0, .n64, 0, 3⟩) &&
      reads open_ 0x183 (wordM 0x4 0x2 0x1ff 0x0 0 0 0xf 2 8) (.atom all ⟨(.v 4), (.v 2), .z, 0x0, 0, 0, .b32, 2, 8⟩) &&
      reads open_ 0x184 (wordM 0x4 0x2 0x1ff 0x0 0 2 0x8 3 11) (.red all ⟨(.v 4), (.v 2), .z, 0x0, 0, 2, .f32, 3, 11⟩) &&
      reads open_ 0x185 (wordM 0x1ff 0x2 0x1ff 0x40 0 0 0xf 1 0) (.pref all ⟨.z, (.v 2), .z, 0x40, 0, 0, .b32, 1, 0⟩)) = true := by decide

theorem test_words_control_0 :
    (reads (0xaa, 1, 2, 3) 0x200 (wordC 0xfffffff4 0x1ff 0 0x0) (.bra ⟨0xaa, 1, 2, 3⟩ ⟨0xfffffff4, .z, 0, 0x0⟩) &&
      reads open_ 0x201 (wordC 0xc 0x5 0 0x4) (.brx all ⟨0xc, (.v 5), 0, 0x4⟩) &&
      reads open_ 0x202 (wordC 0x1000 0x2 0 0x0) (.call all ⟨0x1000, (.v 2), 0, 0x0⟩) &&
      reads open_ 0x203 (wordC 0x0 0x104 0 0x0) (.ret all ⟨0x0, (.k 4), 0, 0x0⟩) &&
      reads open_ 0x204 (wordC 0x18 0x7 0 0x0) (.loop all ⟨0x18, (.v 7), 0, 0x0⟩) &&
      reads open_ 0x204 (wordC 0x24 0x1ff 0 0x1) (.loopExit all ⟨0x24, .z, 0, 0x1⟩)) = true := by decide

theorem test_words_control_1 :
    (reads open_ 0x205 (wordC 0x0 0x1ff 0 0x0) (.exit all ⟨0x0, .z, 0, 0x0⟩) &&
      reads open_ 0x206 (wordC 0x0 0x1ff 15 0x0) (.joinEnrol all ⟨0x0, .z, 15, 0x0⟩) &&
      reads open_ 0x207 (wordC 0x0 0x1ff 1 0x0) (.joinWait all ⟨0x0, .z, 1, 0x0⟩) &&
      reads open_ 0x208 (wordC 0x0 0x1ff 2 0x0) (.joinLeave all ⟨0x0, .z, 2, 0x0⟩) &&
      reads open_ 0x209 (wordC 0x0 0x1ff 0 0x0) (.yield all ⟨0x0, .z, 0, 0x0⟩) &&
      reads open_ 0x20a (wordR 0x1ff 0x1ff 0x1ff 0x1ff 0 0x0 0x0) (.nop all ⟨.z, .z, .z, (.reg .z), .s32, 0x0⟩)) = true := by decide

theorem test_words_control_2 :
    (reads open_ 0x20b (wordC 0x0 0x1ff 0 0x7f) (.brk all ⟨0x0, .z, 0, 0x7f⟩) &&
      reads open_ 0x20c (wordW 0 127 1 64) (.wait all ⟨0, 127, 1, 64⟩) &&
      reads open_ 0x20d (wordR 0x1ff 0x1ff 0x1ff 0x1ff 0 0x0 0x2) (.fence all ⟨.z, .z, .z, (.reg .z), .s32, 0x2⟩) &&
      reads open_ 0x20e (wordR 0x1ff 0x3 0x1ff 0x1ff 0 0x0 0x44) (.barArrive all ⟨.z, (.v 3), .z, (.reg .z), .s32, 0x44⟩) &&
      reads open_ 0x20e (wordR 0x1ff 0x1ff 0x1ff 0x1ff 0 0x0 0x3d) (.barWait all ⟨.z, .z, .z, (.reg .z), .s32, 0x3d⟩) &&
      reads open_ 0x20e (wordR 0x1ff 0x3 0x1ff 0x1ff 0 0x0 0x12) (.barSync all ⟨.z, (.v 3), .z, (.reg .z), .s32, 0x12⟩)) = true := by decide

theorem test_words_control_3 :
    (reads open_ 0x20f (wordR 0x1ff 0x1ff 0x1ff 0x1ff 0 0x0 0x40) (.cbarArrive all ⟨.z, .z, .z, (.reg .z), .s32, 0x40⟩) &&
      reads open_ 0x20f (wordR 0x1ff 0x1ff 0x1ff 0x1ff 0 0x0 0x1) (.cbarWait all ⟨.z, .z, .z, (.reg .z), .s32, 0x1⟩) &&
      reads open_ 0x20f (wordR 0x1ff 0x1ff 0x1ff 0x1ff 0 0x0 0x2) (.cbarSync all ⟨.z, .z, .z, (.reg .z), .s32, 0x2⟩) &&
      reads open_ 0x210 (wordR 0x1ff 0x3 0x1ff 0x1ff 0 0x0 0x22) (.sringPost all ⟨.z, (.v 3), .z, (.reg .z), .s32, 0x22⟩) &&
      reads open_ 0x210 (wordR 0x1ff 0x3 0x1ff 0x4 0 0x0 0x1ff) (.sringWait all ⟨.z, (.v 3), .z, (.reg (.v 4)), .s32, 0x1ff⟩) &&
      reads open_ 0x211 (wordC 0x0 0x1ff 0 0x0) (.rgn all ⟨0x0, .z, 0, 0x0⟩)) = true := by decide

theorem test_words_control_4 :
    (reads open_ 0x212 (wordR 0x1ff 0x1ff 0x55 0x8001 0 0 0x7ffe) (.ppoint all ⟨0x55, 0x8001, 0x7ffe⟩) &&
      reads open_ 0x213 (wordR 0x1ff 0x1ff 0x1ff 0x1ff 0 0x0 0xab) (.trap all ⟨.z, .z, .z, (.reg .z), .s32, 0xab⟩) &&
      reads open_ 0x214 (wordR 0x1 0x2 0x1ff 0x4 0 0x0 0x0) (.launch all ⟨(.v 1), (.v 2), .z, (.reg (.v 4)), .s32, 0x0⟩) &&
      reads open_ 0x215 (wordR 0x1ff 0x2 0x1ff 0x1ff 0 0x1 0x0) (.snooze all ⟨.z, (.v 2), .z, (.reg .z), .n32, 0x0⟩)) = true := by decide

theorem test_words_matrix_0 :
    (reads open_ 0x280 (wordX 1 2 0x4 0x1ff 3 0x9 8191 1 0x2001) (.mma all ⟨1, 2, (.v 4), .z, 3, .f16, 8191, 1, 0x2001⟩) &&
      reads open_ 0x281 (wordX 5 0 0x3 0x1ff 0 0x0 0 0 0x0) (.tfill all ⟨5, 0, (.v 3), .z, 0, .s32, 0, 0, 0x0⟩) &&
      reads open_ 0x281 (wordX 5 0 0x1ff 0x1ff 6 0x0 0 0 0x1) (.tfillId all ⟨5, 0, .z, .z, 6, .s32, 0, 0, 0x1⟩) &&
      reads open_ 0x282 (wordX 1 0 0x2 0x3 0 0x8 0 0 0x1ff) (.tld all ⟨1, 0, (.v 2), (.v 3), 0, .f32, 0, 0, 0x1ff⟩) &&
      reads open_ 0x283 (wordX 1 0 0x2 0x3 0 0x9 0 1 0x1) (.tst all ⟨1, 0, (.v 2), (.v 3), 0, .f16, 0, 1, 0x1⟩) &&
      reads open_ 0x284 (wordX 1 0 0x4 0x3 0 0x0 0 0 0xfc) (.tmovGet all ⟨1, 0, (.v 4), (.v 3), 0, .s32, 0, 0, 0xfc⟩)) = true := by decide

theorem test_words_matrix_1 :
    (reads open_ 0x284 (wordX 1 0 0x6 0x3 0 0x0 0 0 0x1ff) (.tmovPut all ⟨1, 0, (.v 6), (.v 3), 0, .s32, 0, 0, 0x1ff⟩) &&
      reads open_ 0x285 (wordX 0 0 0x3 0x5 4 0xc 7 0 0x0) (.tmask all ⟨0, 0, (.v 3), (.v 5), 4, .b1, 7, 0, 0x0⟩) &&
      reads open_ 0x286 (wordX 0 9 0x3 0x4 0 0xb 0 0 0x1234) (.pbind all ⟨0, 9, (.v 3), (.v 4), 0, .dt8, 0, 0, 0x1234⟩) &&
      reads open_ 0x287 (wordX 0 9 0x4 0x5 0 0x0 0 1 0x1) (.pfill all ⟨0, 9, (.v 4), (.v 5), 0, .s32, 0, 1, 0x1⟩) &&
      reads open_ 0x288 (wordX 15 0 0x1ff 0x1ff 0 0x0 0 0 0x1) (.tbind all ⟨15, 0, .z, .z, 0, .s32, 0, 0, 0x1⟩)) = true := by decide

theorem test_words_engine_0 :
    (reads open_ 0x300 (wordR 0x2 0x4 0x1ff 0x6 0 0x0 0x8014) (.cp all ⟨(.v 2), (.v 4), .z, (.reg (.v 6)), .s32, 0x8014⟩) &&
      reads open_ 0x300 (wordR 0x2 0x4 0x8 0x6 0 0x0 0x1) (.cp2d all ⟨(.v 2), (.v 4), (.v 8), (.reg (.v 6)), .s32, 0x1⟩) &&
      reads open_ 0x301 (wordR 0x2 0x4 0x6 0x8 0 0x0 0x8fff) (.gath all ⟨(.v 2), (.v 4), (.v 6), (.reg (.v 8)), .s32, 0x8fff⟩) &&
      reads open_ 0x302 (wordR 0x2 0x4 0x6 0x8 0 0x8 0x4000) (.scat all ⟨(.v 2), (.v 4), (.v 6), (.reg (.v 8)), .f32, 0x4000⟩) &&
      reads open_ 0x303 (wordR 0x1ff 0x2 0x1ff 0x4 0 0x0 0x1) (.probe all ⟨.z, (.v 2), .z, (.reg (.v 4)), .s32, 0x1⟩) &&
      reads open_ 0x304 (wordR 0x1ff 0x2 0x1ff 0x4 0 0x0 0x0) (.unpin all ⟨.z, (.v 2), .z, (.reg (.v 4)), .s32, 0x0⟩)) = true := by decide

theorem test_words_engine_1 :
    (reads open_ 0x305 (wordR 0x1ff 0x2 0x5 0x4 0 0x0 0x0) (.rstrp all ⟨.z, (.v 2), (.v 5), (.reg (.v 4)), .s32, 0x0⟩) &&
      reads open_ 0x306 (wordR 0x1ff 0x1ff 0x1ff 0x1ff 0 0x0 0x42) (.discard all ⟨.z, .z, .z, (.reg .z), .s32, 0x42⟩) &&
      reads open_ 0x307 (wordR 0x2 0x4 0x1ff 0x6 0 0x0 0x0) (.cpseal all ⟨(.v 2), (.v 4), .z, (.reg (.v 6)), .s32, 0x0⟩) &&
      reads open_ 0x308 (wordR 0x1ff 0x2 0xc8 0x1ff 0 0x0 0xc) (.sortw all ⟨.z, (.v 2), (.v 200), (.reg .z), .s32, 0xc⟩) &&
      reads open_ 0x309 (wordR 0x1 0x2 0x1ff 0x1ff 0 0x0 0x0) (.sortqKey all ⟨(.v 1), (.v 2), .z, (.reg .z), .s32, 0x0⟩) &&
      reads open_ 0x309 (wordR 0x1 0x1ff 0x1ff 0x1ff 0 0x0 0x1) (.sortqAll all ⟨(.v 1), .z, .z, (.reg .z), .s32, 0x1⟩)) = true := by decide

theorem test_words_engine_2 :
    (reads open_ 0x30a (wordR 0x1ff 0x1ff 0x1ff 0x1ff 0 0x0 0x0) (.sortd all ⟨.z, .z, .z, (.reg .z), .s32, 0x0⟩) &&
      reads open_ 0x30a (wordR 0x1ff 0x2 0x1ff 0x1ff 0 0x0 0x1) (.sortdKey all ⟨.z, (.v 2), .z, (.reg .z), .s32, 0x1⟩) &&
      reads open_ 0x30b (wordR 0x1ff 0x1ff 0x1ff 0x1ff 0 0x0 0x0) (.sortc all ⟨.z, .z, .z, (.reg .z), .s32, 0x0⟩) &&
      reads open_ 0x30b (wordR 0x1ff 0x1ff 0x1ff 0x1ff 0 0x0 0x1) (.sortcJoin all ⟨.z, .z, .z, (.reg .z), .s32, 0x1⟩) &&
      reads open_ 0x30c (wordR 0x1ff 0xf8 0x1ff 0x4 0 0x0 0x23f) (.msend all ⟨.z, (.v 248), .z, (.reg (.v 4)), .s32, 0x23f⟩) &&
      reads open_ 0x30d (wordR 0x1ff 0x1ff 0x1ff 0x1ff 0 0x0 0x0) (.mdone all ⟨.z, .z, .z, (.reg .z), .s32, 0x0⟩)) = true := by decide

theorem test_words_system_0 :
    (reads open_ 0x380 (wordR 0x1 0x1ff 0x1ff 0x1ff 0 0x1 0x0) (.sysrd all ⟨(.v 1), .z, .z, (.reg .z), .n32, 0x0⟩) &&
      reads open_ 0x381 (wordR 0x1ff 0x2 0x1ff 0x1ff 0 0x7 0x10) (.syswr all ⟨.z, (.v 2), .z, (.reg .z), .n64, 0x10⟩) &&
      reads open_ 0x382 (wordR 0x1ff 0x1ff 0x1ff 0x1ff 0 0x0 0x0) (.tlbinvCtx all ⟨.z, .z, .z, (.reg .z), .s32, 0x0⟩) &&
      reads open_ 0x382 (wordR 0x1ff 0x2 0x1ff 0x4 0 0x0 0x1) (.tlbinvRange all ⟨.z, (.v 2), .z, (.reg (.v 4)), .s32, 0x1⟩) &&
      reads open_ 0x382 (wordR 0x1ff 0x1ff 0x1ff 0x1ff 0 0x0 0x2) (.tlbinvAll all ⟨.z, .z, .z, (.reg .z), .s32, 0x2⟩) &&
      reads open_ 0x383 (wordR 0x1ff 0x1ff 0x1ff 0x1ff 0 0x0 0x3) (.cinv all ⟨.z, .z, .z, (.reg .z), .s32, 0x3⟩)) = true := by decide

theorem test_words_system_1 :
    (reads open_ 0x384 (wordR 0x2 0x1ff 0x1ff 0x1ff 0 0x7 0x0) (.gtime all ⟨(.v 2), .z, .z, (.reg .z), .n64, 0x0⟩) &&
      reads open_ 0x385 (wordR 0x1ff 0x1ff 0x1ff 0x1ff 0 0x0 0x7f) (.hlt all ⟨.z, .z, .z, (.reg .z), .s32, 0x7f⟩)) = true := by decide

/-! ### Words that are no instruction (check 6 of Table 3) -/

/-- A reserved selector, an unassigned opcode, a reserved type, a nonzero reserved bit, a window where none may stand. -/
theorem test_reserved_fields_are_refused :
    (decodeTableWord 96 (wordOf open_ 0x000 (wordR 1 0x158 0x1ff 3 0 0 0)) == none &&
      decodeTableWord 96 (wordOf open_ 0x026 (wordR 1 2 0x1ff 3 0 0 0)) == none &&
      decodeTableWord 96 (wordOf open_ 0x000 (wordR 1 2 0x1ff 3 0 0x14 0)) == none &&
      decodeTableWord 96 (wordOf open_ 0x000 (wordR 1 2 0x1ff 0x203 0 0 0)) == none &&
      decodeTableWord 96 (wordOf open_ 0x08C (wordR 1 2 0x1ff 3 1 8 0)) == none &&
      decodeTableWord 96 (wordOf open_ 0x100 (wordP 1 2 0 0 2 3 0 0 + 1)) == none &&
      decodeTableWord 96 (wordOf open_ 0x20C (wordW 0 0 0 0 + 1)) == none &&
      decodeTableWord 96 (wordOf open_ 0x20E (wordR 0x1ff 3 0x1ff 0x1ff 0 0 3)) == none) = true := by decide

/-- Ill-formed terms: a special as D; `k0` as D; an odd pair; an unused field in use; an unnamed MOD bit; a type outside the row. -/
theorem test_ill_formed_format_r :
    ((Instr.add all ⟨.sp .lane, .v 1, .z, .reg (.v 2), .s32, 0⟩).wf || (Instr.add all ⟨.k 0, .v 1, .z, .reg (.v 2), .s32, 0⟩).wf ||
      (Instr.add all ⟨.v 3, .v 1, .z, .reg (.v 2), .s64, 0⟩).wf || (Instr.add all ⟨.v 3, .v 1, .v 4, .reg (.v 2), .s32, 0⟩).wf ||
      (Instr.add all ⟨.v 3, .v 1, .z, .reg (.v 2), .s32, 2⟩).wf || (Instr.add all ⟨.v 3, .v 1, .z, .reg (.v 2), .f32, 0⟩).wf ||
      (Instr.add all ⟨.v 2, .v 4, .z, .win 0 3, .s64, 0⟩).wf || (Instr.clz all ⟨.v 3, .v 2, .z, .win 0 0, .b64, 0⟩).wf ||
      (Instr.shfl all ⟨.v 3, .v 1, .z, .reg (.v 2), .b32, 0x18⟩).wf || (Instr.wscan all ⟨.v 3, .v 1, .z, .reg .z, .s32, 6⟩).wf ||
      (Instr.wred all ⟨.v 3, .v 1, .z, .reg .z, .s32, 8⟩).wf || (Instr.lea all ⟨.v 3, .v 1, .z, .reg (.v 2), .n32, 8⟩).wf ||
      (Instr.cvt all ⟨.v 3, .v 1, .z, .reg .z, .dt8, 0⟩).wf || (Instr.cvt all ⟨.v 3, .v 1, .z, .reg .z, .s32, 0x20⟩).wf ||
      (Instr.mov all ⟨.v 3, .z, .z, .reg (.v 2), .b1, 0⟩).wf || (Instr.frcp all ⟨.v 3, .v 1, .z, .reg .z, .f16, 0⟩).wf) = false := by
  decide

/-- Ill-formed terms of the other formats. -/
theorem test_ill_formed_other_formats :
    ((Instr.addi all ⟨.v 3, .v 1, .v 2, 0, .s32, 0⟩).wf || (Instr.movi all ⟨.v 3, .z, .z, 0, .b16, 0⟩).wf ||
      (Instr.icmp all ⟨1, 1, 0, 0, .v 1, .reg (.v 2), .s32⟩).wf || (Instr.icmp all ⟨1, 2, 3, 0, .v 1, .reg (.v 2), .s32⟩).wf ||
      (Instr.icmp all ⟨1, 2, 0, 2, .v 1, .reg (.v 2), .b32⟩).wf || (Instr.fcmp all ⟨1, 2, 0, 14, .v 1, .reg (.v 2), .f32⟩).wf ||
      (Instr.btst all ⟨1, 2, 0, 1, .v 1, .reg (.v 2), .b32⟩).wf || (Instr.pset all ⟨1, 1, 0, 0, 0, 0, 0⟩).wf ||
      (Instr.ld all ⟨.v 3, .v 1, .z, 0, 0, 0, .b32, 0, 0⟩).wf || (Instr.ld all ⟨.v 3, .v 2, .z, 0, 0, 3, .b32, 0, 0⟩).wf ||
      (Instr.ld all ⟨.v 3, .v 2, .z, 0, 0, 0, .b32, 3, 0⟩).wf || (Instr.st all ⟨.v 3, .v 2, .z, 0, 0, 0, .b32, 2, 0⟩).wf ||
      (Instr.ld all ⟨.v 3, .v 2, .z, 0, 0, 0, .b128, 0, 0⟩).wf || (Instr.atom all ⟨.k 33, .v 2, .z, 0, 0, 0, .n32, 0, 0⟩).wf ||
      (Instr.atom all ⟨.v 3, .v 2, .z, 0, 0, 0, .b32, 0, 8⟩).wf || (Instr.red all ⟨.v 3, .v 2, .z, 0, 0, 0, .b32, 0, 7⟩).wf ||
      (Instr.pref all ⟨.z, .v 2, .z, 0, 0, 1, .b32, 0, 0⟩).wf || (Instr.ldc all ⟨.v 3, .v 2, .z, 0, 0, 0, .b16, 0, 0⟩).wf ||
      (Instr.brx all ⟨0, .v 1, 0, 0⟩).wf || (Instr.call all ⟨0, .z, 0, 0⟩).wf || (Instr.ret all ⟨0, .v 3, 0, 0⟩).wf ||
      (Instr.loop all ⟨0xFFFFFFF4, .v 1, 0, 0⟩).wf || (Instr.bra all ⟨12, .z, 1, 0⟩).wf || (Instr.yield all ⟨12, .z, 0, 0⟩).wf) = false := by
  decide

/-- Ill-formed terms of the engine, sorter and system groups. -/
theorem test_ill_formed_engine_and_system :
    ((Instr.mma all ⟨0, 0, .v 1, .z, 0, .f16, 0, 0, 0⟩).wf || (Instr.mma all ⟨0, 0, .v 1, .z, 7, .f16, 1, 0, 0⟩).wf ||
      (Instr.mma all ⟨0, 0, .v 2, .z, 0, .f16, 1, 2, 0⟩).wf || (Instr.mma all ⟨0, 0, .v 1, .z, 0, .s32, 1, 0, 0⟩).wf ||
      (Instr.tfillId all ⟨0, 0, .z, .z, 7, .s32, 0, 0, 1⟩).wf || (Instr.tmovGet all ⟨0, 0, .v 2, .z, 0, .s32, 0, 0, 0⟩).wf ||
      (Instr.tmask all ⟨0, 0, .v 1, .z, 0, .f32, 1, 0, 0⟩).wf || (Instr.pbind all ⟨0, 0, .v 1, .v 2, 0, .f32, 0, 0, 1⟩).wf ||
      (Instr.cp all ⟨.v 2, .v 4, .z, .reg (.v 6), .s32, 0x6⟩).wf || (Instr.cp2d all ⟨.v 2, .v 4, .v 6, .reg (.v 8), .s32, 1⟩).wf ||
      (Instr.discard all ⟨.z, .z, .z, .reg .z, .s32, 0⟩).wf || (Instr.scat all ⟨.v 2, .v 4, .v 6, .reg (.v 8), .f32, 0⟩).wf ||
      (Instr.sortw all ⟨.z, .v 1, .v 250, .reg .z, .s32, 7⟩).wf || (Instr.msend all ⟨.z, .z, .z, .reg (.v 1), .s32, 0x40⟩).wf ||
      (Instr.sysrd all ⟨.v 2, .z, .z, .reg .z, .n64, 0x000⟩).wf || (Instr.syswr all ⟨.z, .v 2, .z, .reg .z, .n64, 0x038⟩).wf ||
      (Instr.sysrd all ⟨.v 2, .z, .z, .reg .z, .n32, 0x008⟩).wf || (Instr.gtime all ⟨.v 3, .z, .z, .reg .z, .n64, 0⟩).wf ||
      (Instr.cinv all ⟨.z, .z, .z, .reg .z, .s32, 0⟩).wf || (Instr.tlbinvRange all ⟨.z, .z, .z, .reg (.v 2), .s32, 1⟩).wf ||
      (Instr.coldReset).wf) = false := by
  decide

/-! ### One step on a small state -/

/-- One warp of core 0 stands at slot 0 of line 0x10000, with threads 0 to n - 1, thread i's registers `v i`, predicates `p i`. -/
def warpOf (n : Nat) (v : Nat → List Word) (p : Nat → BitVec 8 := fun _ => 0) : State :=
  let lanes := ((List.range n).map fun i => { Lane.start 0 0x10004 [] (i + 1) 0 i 0 0 with v := v i, p := p i }) ++
    List.replicate (32 - n) Lane.dead
  let c := wordCluster State.reset
  { State.reset with
    launches := [wordLaunch], clusters := [c], blocks := [newBlock wordLaunch c 0],
    warps := [Warp.formed State.reset 0 0 0 0 0 0 .block lanes (some 0x10004)], issuing := some (0, 0), nextId := 100 }

/-- A number read from the next state. -/
def after (o : Result) (f : State → Nat) : Option Nat :=
  match o with
  | .next t => some (f t)
  | _ => none

/-- The warp, a register, the predicates, the flags, the place of a lane. -/
def theWarp (t : State) : Warp := t.warps.headD (Warp.formed t 0 0 0 0 0 0 .block [] none)
def reg (i r : Nat) (t : State) : Nat := (((theWarp t).lane i).v.getD r 0).toNat
def preds (i : Nat) (t : State) : Nat := ((theWarp t).lane i).p.toNat
def flags (t : State) : Nat := (theWarp t).fstat.toNat
def place (i : Nat) (t : State) : Nat := ((theWarp t).lane i).pc.toNat

/-- Operands in format R. -/
def ops (d a b : Nat) (ty : Ty) (m : Nat := 0) : ROps := ⟨.v (BitVec.ofNat 8 d), .v (BitVec.ofNat 8 a), .z, .reg (.v (BitVec.ofNat 8 b)), ty, BitVec.ofNat 16 m⟩
def ops1 (d a : Nat) (ty : Ty) (m : Nat := 0) : ROps := { ops d a 0 ty m with b := .reg .z }
def ops3 (d a b c : Nat) (ty : Ty) (m : Nat := 0) : ROps := { ops d a b ty m with c := .v (BitVec.ofNat 8 c) }
def same (l : List Word) : Nat → List Word := fun _ => l

/-- R128: 300 times 200 at s16. -/
theorem test_mul_wraps_at_s16 :
    after (exec (.mul all (ops 3 1 2 .s16)) (warpOf 1 (same [0x0, 0x12c, 0xc8, 0x0]))) (reg 0 3) = some 0xffffea60 := by decide

theorem test_mul_saturates_at_s16 :
    after (exec (.mul all (ops 3 1 2 .s16 1)) (warpOf 1 (same [0x0, 0x12c, 0xc8, 0x0]))) (reg 0 3) = some 0x7fff := by decide

theorem test_add_saturates :
    after (exec (.add all (ops 3 1 2 .s32 1)) (warpOf 1 (same [0x0, 0x7fffffff, 0x1, 0x0]))) (reg 0 3) = some 0x7fffffff := by decide

theorem test_sub_wraps :
    after (exec (.sub all (ops 3 1 2 .s32)) (warpOf 1 (same [0x0, 0x5, 0x7, 0x0]))) (reg 0 3) = some 0xfffffffe := by decide

theorem test_mulhi :
    after (exec (.mulhi all (ops 3 1 2 .n32)) (warpOf 1 (same [0x0, 0x80000000, 0x6, 0x0]))) (reg 0 3) = some 0x3 := by decide

theorem test_mad :
    after (exec (.mad all (ops3 3 1 2 0 .s32)) (warpOf 1 (same [0x64, 0x5, 0x7, 0x0]))) (reg 0 3) = some 0x87 := by decide

theorem test_madhi :
    after (exec (.madhi all (ops3 3 1 2 0 .n32)) (warpOf 1 (same [0xa, 0x80000000, 0x4, 0x0]))) (reg 0 3) = some 0xc := by decide

theorem test_min_is_signed :
    after (exec (.min all (ops 3 1 2 .s8)) (warpOf 1 (same [0x0, 0x180, 0x1, 0x0]))) (reg 0 3) = some 0xffffff80 := by decide

theorem test_max_is_unsigned :
    after (exec (.max all (ops 3 1 2 .n8)) (warpOf 1 (same [0x0, 0x180, 0x1, 0x0]))) (reg 0 3) = some 0x80 := by decide

theorem test_abs_saturates :
    after (exec (.abs all (ops1 3 1 .s32 1)) (warpOf 1 (same [0x0, 0x80000000, 0x0, 0x0]))) (reg 0 3) = some 0x7fffffff := by decide

theorem test_neg_of_the_most_negative :
    after (exec (.neg all (ops1 3 1 .s32)) (warpOf 1 (same [0x0, 0x80000000, 0x0, 0x0]))) (reg 0 3) = some 0x80000000 := by decide

theorem test_sad_wraps :
    after (exec (.sad all (ops3 3 1 2 0 .n8)) (warpOf 1 (same [0xfa, 0x3, 0xa, 0x0]))) (reg 0 3) = some 0x1 := by decide

theorem test_dot4_mixed_signs :
    after (exec (.dot4 all (ops3 3 1 2 0 .s8 1)) (warpOf 1 (same [0x0, 0xff, 0xff, 0x0]))) (reg 0 3) = some 0xffffff01 := by decide

theorem test_lea_sign_extends :
    after (exec (.lea all (ops 2 4 0 .n64 0xA)) (warpOf 1 (same [0xffffffff, 0x0, 0x0, 0x0, 0x0, 0x1]))) (fun t => reg 0 2 t + 2 ^ 32 * reg 0 3 t) = some 0xfffffffc := by decide

theorem test_and_low_byte :
    after (exec (.and all (ops 3 1 2 .b8)) (warpOf 1 (same [0x0, 0x1f3, 0xf5, 0x0]))) (reg 0 3) = some 0xf1 := by decide

theorem test_or_pair :
    after (exec (.or all (ops 4 2 6 .b64)) (warpOf 1 (same [0x0, 0x0, 0x1, 0x2, 0x0, 0x0, 0x4, 0x8]))) (fun t => reg 0 4 t + 2 ^ 32 * reg 0 5 t) = some 0xa00000005 := by decide

theorem test_xor :
    after (exec (.xor all (ops 3 1 2 .b32)) (warpOf 1 (same [0x0, 0xff, 0xf, 0x0]))) (reg 0 3) = some 0xf0 := by decide

/-- R129: TM = 0xBA gives (a and not b) or c. -/
theorem test_bitop_a_and_not_b_or_c :
    after (exec (.bitop all (ops3 3 1 2 0 .b32 0xBA)) (warpOf 1 (same [0x1, 0xf0, 0x30, 0x0]))) (reg 0 3) = some 0xc1 := by decide

theorem test_shl_past_the_width :
    after (exec (.shl all (ops 3 1 2 .b32)) (warpOf 1 (same [0x0, 0x1, 0x20, 0x9]))) (reg 0 3) = some 0x0 := by decide

theorem test_shr_pair :
    after (exec (.shr all (ops 4 2 0 .b64)) (warpOf 1 (same [0x21, 0x0, 0x0, 0x80000000, 0x9, 0x9]))) (fun t => reg 0 4 t + 2 ^ 32 * reg 0 5 t) = some 0x40000000 := by decide

theorem test_sra_fills_with_the_sign :
    after (exec (.sra all (ops 3 1 2 .s32)) (warpOf 1 (same [0x0, 0x80000000, 0x28, 0x0]))) (reg 0 3) = some 0xffffffff := by decide

theorem test_rotl_by_more_than_the_width :
    after (exec (.rotl all (ops 3 1 2 .b32)) (warpOf 1 (same [0x0, 0x80000001, 0x21, 0x0]))) (reg 0 3) = some 0x3 := by decide

theorem test_rotr :
    after (exec (.rotr all (ops 3 1 2 .b32)) (warpOf 1 (same [0x0, 0x1, 0x1, 0x0]))) (reg 0 3) = some 0x80000000 := by decide

theorem test_clz_of_zero :
    after (exec (.clz all (ops1 3 0 .b64)) (warpOf 1 (same [0x0, 0x0, 0x0, 0x0]))) (reg 0 3) = some 0x40 := by decide

theorem test_ctz :
    after (exec (.ctz all (ops1 3 1 .b32)) (warpOf 1 (same [0x0, 0x8, 0x0, 0x0]))) (reg 0 3) = some 0x3 := by decide

theorem test_popc :
    after (exec (.popc all (ops1 3 1 .b32)) (warpOf 1 (same [0x0, 0xff00ff, 0x0, 0x0]))) (reg 0 3) = some 0x10 := by decide

theorem test_brev :
    after (exec (.brev all (ops1 3 1 .b32)) (warpOf 1 (same [0x0, 0x2, 0x0, 0x0]))) (reg 0 3) = some 0x40000000 := by decide

/-- R130: the example. -/
theorem test_bfx_signed :
    after (exec (.bfx all (ops 3 1 2 .s32)) (warpOf 1 (same [0x0, 0xf50, 0x804, 0x0]))) (reg 0 3) = some 0xfffffff5 := by decide

theorem test_bfx_unsigned :
    after (exec (.bfx all (ops 3 1 2 .n32)) (warpOf 1 (same [0x0, 0xf50, 0x804, 0x0]))) (reg 0 3) = some 0xf5 := by decide

theorem test_bfi_clips_at_the_top :
    after (exec (.bfi all (ops3 3 1 2 0 .b32)) (warpOf 1 (same [0x12345678, 0xff, 0x81c, 0x0]))) (reg 0 3) = some 0xf2345678 := by decide

theorem test_sel_negated :
    after (exec (.sel all (ops 3 1 2 .b32 9)) (warpOf 1 (same [0x0, 0x5, 0x7, 0x0]))) (reg 0 3) = some 0x5 := by decide

theorem test_mov_special :
    after (exec (.mov all ⟨.v 3, .z, .z, .reg (.sp .bshapeX), .b32, 0⟩) (warpOf 1 (same [0x0, 0x0, 0x0, 0x0]))) (reg 0 3) = some 0x20 := by decide

/-- R131: movi.s64 v4, -2. -/
theorem test_movi_sign_extends :
    after (exec (.movi all ⟨.v 4, .z, .z, 0xFFFFFFFE, .s64, 0⟩) (warpOf 1 (same [0x0, 0x0, 0x0, 0x0, 0x0, 0x0]))) (fun t => reg 0 4 t + 2 ^ 32 * reg 0 5 t) = some 0xfffffffffffffffe := by decide

theorem test_addi_decrements :
    after (exec (.addi all ⟨.v 2, .v 2, .z, 0xFFFFFFFF, .n32, 0⟩) (warpOf 1 (same [0x0, 0x0, 0x5]))) (reg 0 2) = some 0x4 := by decide

/-- R135: the example under ?(p1). -/
theorem test_wscan_exclusive :
    after (exec (.wscan ⟨0xF0, 1, 0, 0⟩ (ops1 2 1 .s32 8)) (warpOf 8 (fun i => [0, BitVec.ofNat 32 (i + 1), 9, 9, 9, 9, 0, 0, 0, 1]) fun i => if [0, 1, 3, 4, 6].contains i then 2 else 0)) (reg 6 2) = some 0xc := by decide

theorem test_wscan_leaves_suppressed_lanes :
    after (exec (.wscan ⟨0xF0, 1, 0, 0⟩ (ops1 2 1 .s32 8)) (warpOf 8 (fun i => [0, BitVec.ofNat 32 (i + 1), 9, 9, 9, 9, 0, 0, 0, 1]) fun i => if [0, 1, 3, 4, 6].contains i then 2 else 0)) (reg 5 2) = some 0x9 := by decide

theorem test_wred_add :
    after (exec (.wred ⟨0xF0, 1, 0, 0⟩ (ops1 3 1 .s32)) (warpOf 8 (fun i => [0, BitVec.ofNat 32 (i + 1), 9, 9, 9, 9, 0, 0, 0, 1]) fun i => if [0, 1, 3, 4, 6].contains i then 2 else 0)) (reg 4 3) = some 0x13 := by decide

theorem test_shfl_down :
    after (exec (.shfl ⟨0xF0, 1, 0, 0⟩ (ops 4 1 9 .b32 0x16)) (warpOf 8 (fun i => [0, BitVec.ofNat 32 (i + 1), 9, 9, 9, 9, 0, 0, 0, 1]) fun i => if [0, 1, 3, 4, 6].contains i then 2 else 0)) (reg 3 4) = some 0x5 := by decide

theorem test_shfl_from_a_suppressed_lane :
    after (exec (.shfl ⟨0xF0, 1, 0, 0⟩ (ops 4 1 9 .b32 0x16)) (warpOf 8 (fun i => [0, BitVec.ofNat 32 (i + 1), 9, 9, 9, 9, 0, 0, 0, 1]) fun i => if [0, 1, 3, 4, 6].contains i then 2 else 0)) (reg 1 4) = some 0x0 := by decide

theorem test_vote_mask :
    after (exec (.voteMask ⟨0xF0, 1, 0, 0⟩ ⟨.v 5, .z, .z, .reg .z, .b32, 6⟩) (warpOf 8 (fun i => [0, BitVec.ofNat 32 (i + 1), 9, 9, 9, 9, 0, 0, 0, 1]) fun i => if [0, 1, 3, 4, 6].contains i then 2 else 0)) (reg 0 5) = some 0x5b := by decide

theorem test_vote_any :
    after (exec (.voteAny all ⟨.v 5, .z, .z, .reg .z, .b32, 4⟩) (warpOf 8 (fun i => [0, BitVec.ofNat 32 (i + 1), 9, 9, 9, 9, 0, 0, 0, 1]) fun i => if [0, 1, 3, 4, 6].contains i then 2 else 0)) (reg 7 5) = some 0x1 := by decide

theorem test_vote_all :
    after (exec (.voteAll all ⟨.v 5, .z, .z, .reg .z, .b32, 5⟩) (warpOf 8 (fun i => [0, BitVec.ofNat 32 (i + 1), 9, 9, 9, 9, 0, 0, 0, 1]) fun i => if [0, 1, 3, 4, 6].contains i then 2 else 0)) (reg 7 5) = some 0x0 := by decide

theorem test_match_any :
    after (exec (.matchAny all (ops1 5 9 .b32)) (warpOf 8 (fun i => [0, BitVec.ofNat 32 (i + 1), 9, 9, 9, 9, 0, 0, 0, 1]) fun i => if [0, 1, 3, 4, 6].contains i then 2 else 0)) (reg 3 5) = some 0xff := by decide

theorem test_match_all_of_different_values :
    after (exec (.matchAll all (ops1 5 1 .b32 1)) (warpOf 8 (fun i => [0, BitVec.ofNat 32 (i + 1), 9, 9, 9, 9, 0, 0, 0, 1]) fun i => if [0, 1, 3, 4, 6].contains i then 2 else 0)) (reg 3 5) = some 0x0 := by decide

theorem test_rdlane :
    after (exec (.rdlane all (ops 5 1 2 .b32)) (warpOf 4 fun i => [0, BitVec.ofNat 32 (i + 10), 2, 0, 0, 0])) (reg 0 5) = some 0xc := by decide

theorem test_fadd_exact :
    after (exec (.fadd all (ops 3 1 2 .f32)) (warpOf 1 (same [0x0, 0x3f800000, 0x40000000, 0x0]))) (reg 0 3) = some 0x40400000 := by decide

theorem test_fsub_to_zero :
    after (exec (.fsub all (ops 3 1 2 .f32)) (warpOf 1 (same [0x0, 0x3f800000, 0x3f800000, 0x9]))) (reg 0 3) = some 0x0 := by decide

theorem test_fmul_overflows :
    after (exec (.fmul all (ops 3 1 2 .f32)) (warpOf 1 (same [0x0, 0x7f7fffff, 0x40000000, 0x0]))) (reg 0 3) = some 0x7f800000 := by decide

/-- R151. -/
theorem test_ffma_zero_times_infinity :
    after (exec (.ffma all (ops3 3 1 2 0 .f32)) (warpOf 1 (same [0x7fc00001, 0x0, 0x7f800000, 0x0]))) (reg 0 3) = some 0x7fc00000 := by decide

/-- R152. -/
theorem test_fmin_negative_zero :
    after (exec (.fmin all (ops 3 1 2 .f32)) (warpOf 1 (same [0x0, 0x0, 0x80000000, 0x0]))) (reg 0 3) = some 0x80000000 := by decide

theorem test_fmax_of_a_nan :
    after (exec (.fmax all (ops 3 1 2 .f32)) (warpOf 1 (same [0x0, 0x7fc00000, 0x3f800000, 0x0]))) (reg 0 3) = some 0x3f800000 := by decide

/-- Table 7 of 06_number_formats. -/
theorem test_frcp_of_negative_zero :
    after (exec (.frcp all (ops1 3 1 .f32)) (warpOf 1 (same [0x0, 0x80000000, 0x0, 0x0]))) (reg 0 3) = some 0xff800000 := by decide

/-- Table 8: exact for even powers of two. -/
theorem test_frsq_of_four :
    after (exec (.frsq all (ops1 3 1 .f32)) (warpOf 1 (same [0x0, 0x40800000, 0x0, 0x0]))) (reg 0 3) = some 0x3f000000 := by decide +kernel

theorem test_fsqrt_negative_zero :
    after (exec (.fsqrt all (ops1 3 1 .f32)) (warpOf 1 (same [0x0, 0x80000000, 0x0, 0x0]))) (reg 0 3) = some 0x80000000 := by decide

theorem test_fex2_integral :
    after (exec (.fex2 all (ops1 3 1 .f32)) (warpOf 1 (same [0x0, 0x40400000, 0x0, 0x0]))) (reg 0 3) = some 0x41000000 := by decide +kernel

theorem test_flg2_power_of_two :
    after (exec (.flg2 all (ops1 3 1 .f32)) (warpOf 1 (same [0x0, 0x41000000, 0x0, 0x0]))) (reg 0 3) = some 0x40400000 := by decide +kernel

theorem test_fsin_negative_zero :
    after (exec (.fsin all (ops1 3 1 .f32)) (warpOf 1 (same [0x0, 0x80000000, 0x0, 0x0]))) (reg 0 3) = some 0x80000000 := by decide

theorem test_fcos_zero :
    after (exec (.fcos all (ops1 3 1 .f32)) (warpOf 1 (same [0x0, 0x0, 0x0, 0x0]))) (reg 0 3) = some 0x3f800000 := by decide

/-- R151: -0.4 gives -0. -/
theorem test_frnd_keeps_the_sign :
    after (exec (.frnd all (ops1 3 1 .f32)) (warpOf 1 (same [0x0, 0xbecccccd, 0x0, 0x0]))) (reg 0 3) = some 0x80000000 := by decide

/-- R154: the example. -/
theorem test_fscale_subnormal :
    after (exec (.fscale all (ops 3 1 2 .f16)) (warpOf 1 (same [0x0, 0x3e00, 0xffffffec, 0x0]))) (reg 0 3) = some 0x18 := by decide

theorem test_fdot2 :
    after (exec (.fdot2 all (ops3 3 1 2 0 .f16x2)) (warpOf 1 (same [0x3f800000, 0x40003c00, 0x3c003c00, 0x0]))) (reg 0 3) = some 0x40800000 := by decide

/-- Table 9. -/
theorem test_fclass_subnormal :
    after (exec (.fclass all (ops1 3 1 .f16)) (warpOf 1 (same [0x0, 0x8001, 0x0, 0x0]))) (reg 0 3) = some 0x10 := by decide

/-- R157: the example. -/
theorem test_cvt_to_integer :
    after (exec (.cvt all (ops1 2 1 .f32 0x20)) (warpOf 1 (same [0x0, 0xc0a80000, 0x0]))) (reg 0 2) = some 0xfffffffb := by decide

/-- R157: NV is set. -/
theorem test_cvt_saturates :
    after (exec (.cvt all (ops1 2 1 .f32 0x20)) (warpOf 1 (same [0x0, 0x4f000000, 0x0]))) (fun t => reg 0 2 t + 2 ^ 32 * flags t) = some 0x17fffffff := by decide

/-- R158: the example. -/
theorem test_pack2_pi :
    after (exec (.pack2 all (ops 3 1 2 .bf16x2)) (warpOf 1 (same [0x0, 0x3f800000, 0x40490fdb, 0x0]))) (reg 0 3) = some 0x40493f80 := by decide

/-- R160: the example. -/
theorem test_dtenc :
    after (exec (.dtenc all (ops 4 1 2 .dt8)) (warpOf 1 (same [0x0, 0x3e99999a, 0x7e, 0x0, 0x9]))) (reg 0 4) = some 0x13 := by decide +kernel

/-- R160: the example. -/
theorem test_dtdec :
    after (exec (.dtdec all (ops 5 4 2 .dt8)) (warpOf 1 (same [0x0, 0x0, 0x7e, 0x0, 0x13, 0x0]))) (reg 0 5) = some 0x3ea00000 := by decide

/-- R159: 63/64 under the scale 1/2 is 63/128, 0x3EFC_0000; the 0x3EF8_0000 that the example prints beside it is 62/128. -/
theorem test_dtdec_63_64ths :
    after (exec (.dtdec all (ops 5 4 2 .dt8)) (warpOf 1 (same [0x0, 0x0, 0x7e, 0x0, 0xe, 0x0]))) (reg 0 5) = some 0x3efc0000 := by decide

/-- R122: x = 12, the and-in. -/
theorem test_icmp_range_test :
    after (exec (.icmp all ⟨1, 2, 1, 2, .v 1, .reg (.v 2), .s32⟩) (warpOf 1 (same [0, 12, 10]) fun _ => 2)) (preds 0) = some 0x4 := by decide

theorem test_fcmp_unordered :
    after (exec (.fcmp all ⟨1, 2, 0, 0, .v 1, .reg (.v 2), .f32⟩) (warpOf 1 (same [0x0, 0x7fc00000, 0x3f800000]))) (preds 0) = some 0x4 := by decide

theorem test_pset_majority :
    after (exec (.pset all ⟨4, 5, 0, 3, 2, 1, 0xE8⟩) (warpOf 1 (same []) fun _ => 0x6)) (preds 0) = some 0x16 := by decide

theorem test_btst :
    after (exec (.btst all ⟨1, 2, 0, 0, .v 1, .reg (.v 2), .b32⟩) (warpOf 1 (same [0x0, 0x100, 0x8]))) (preds 0) = some 0x2 := by decide

theorem test_pmov_to_register :
    after (exec (.pmovToReg all ⟨.v 1, .z, .z, .reg .z, .b32, 0⟩) (warpOf 1 (same [0, 9]) fun _ => 0x84)) (reg 0 1) = some 0x85 := by decide

theorem test_pmov_to_predicates_under_the_mask :
    after (exec (.pmovToPred all ⟨.z, .v 1, .z, .reg .z, .b32, 0x0601⟩) (warpOf 1 (same [0, 0xFC]) fun _ => 0x8A)) (preds 0) = some 0x8c := by decide

theorem test_bra_diverges :
    after (exec (.bra ⟨0xF0, 1, 0, 0⟩ ⟨0x40, .z, 0, 0⟩) (warpOf 2 (same []) fun i => if i == 1 then 2 else 0)) (fun t => place 0 t + 2 ^ 32 * place 1 t) = some 0x1004400010010 := by decide

theorem test_call_links :
    after (exec (.call all ⟨0x40, .v 2, 0, 0⟩) (warpOf 1 (same [0x0, 0x0, 0x9, 0x9]))) (fun t => reg 0 2 t + 2 ^ 32 * place 0 t) = some 0x1004400010010 := by decide

theorem test_ret :
    after (exec (.ret all ⟨0, .v 2, 0, 0⟩) (warpOf 1 (same [0x0, 0x0, 0x20004, 0x0]))) (place 0) = some 0x20004 := by decide

theorem test_brx_takes_the_indexed_line :
    after (exec (.brx all ⟨0x40, .v 1, 0, 4⟩) (warpOf 1 (same [0x0, 0x3]))) (place 0) = some 0x10104 := by decide

theorem test_loop_of_zero_skips :
    after (exec (.loop all ⟨0x24, .v 1, 0, 0⟩) (warpOf 1 (same [0x0, 0x0]))) (place 0) = some 0x10028 := by decide

theorem test_exit_moves_the_others_on :
    after (exec (.exit ⟨0xF0, 1, 0, 0⟩ ⟨0, .z, 0, 0⟩) (warpOf 2 (same []) fun i => if i == 1 then 2 else 0)) (place 0) = some 0x10010 := by decide +kernel

theorem test_yield :
    after (exec (.yield all ⟨0, .z, 0, 0⟩) (warpOf 1 (same []))) (place 0) = some 0x10010 := by decide

theorem test_nop_from_slot_0 :
    after (exec (.nop all ⟨.z, .z, .z, .reg .z, .s32, 0⟩) (warpOf 1 (same []))) (place 0) = some 0x10010 := by decide

theorem test_gtime :
    after (exec (.gtime all ⟨.v 2, .z, .z, .reg .z, .n64, 0⟩) ({ warpOf 1 (same [0, 0, 9, 9]) with gt := 2 ^ 33 + 7 })) (fun t => reg 0 2 t + 2 ^ 32 * reg 0 3 t) = some 0x200000007 := by decide

theorem test_sysrd_lease :
    after (exec (.sysrd all ⟨.v 2, .z, .z, .reg .z, .n32, 1⟩) (warpOf 1 (same [0x0, 0x0, 0x0]))) (reg 0 2) = some 0x8 := by decide

theorem test_syswr_lease :
    after (exec (.syswr all ⟨.z, .v 2, .z, .reg .z, .n32, 1⟩) ({ warpOf 1 (same [0, 0, 5]) with gt := 1 })) (fun t => t.sys.lease.toNat) = some 0x5 := by decide

theorem test_trap_halts :
    after (exec (.trap all ⟨.z, .z, .z, .reg .z, .s32, 5⟩) (warpOf 1 (same []))) (fun t => (t.launches.filter fun l => l.run == .halted).length) = some 0x1 := by decide

/-! ### States that meet the hypotheses of the statements -/

/-- An instruction with guard `g` and registers `uses` is well-formed and stands to issue in `s`, and its view meets `P`. -/
def Stands (s : State) (g : Guard) (i : Instr) (uses : List RegUse) (P : Iss → Prop) : Prop :=
  i.wf = true ∧ ∃ x, CanIssue s g x uses ∧ P x

/-- One evaluation shows it. -/
theorem stands {s : State} {g : Guard} {i : Instr} {uses : List RegUse} {P : Iss → Prop} [DecidablePred P]
    (h : (i.wf && match s.iss g with
      | some x => decide ((∀ u ∈ uses, u.1.inAlloc x.l.nreg = true) ∧ x.hazard uses = false ∧ P x)
      | none => false) = true) : Stands s g i uses P := by
  obtain ⟨hw, h⟩ := Bool.and_eq_true_iff.mp h
  split at h
  · next x hx =>
    obtain ⟨ha, hh, hp⟩ := of_decide_eq_true h
    exact ⟨hw, x, ⟨hx, ha, hh⟩, hp⟩
  · cases h

/-- The hypotheses of a claim about format R, of a float or cross-lane one, and of a compare. -/
abbrev MeetsR (s : State) (mk : Guard → ROps → Instr) (n : ROps → Spans) (o : ROps) (g : Guard := all) : Prop :=
  Stands s g (mk g o) (o.regUses (n o)) fun x => WindowAtHand x o.b (n o).b ∧ nbvOk s o.ty = true
abbrev MeetsX (s : State) (mk : Guard → ROps → Instr) (n : ROps → Spans) (o : ROps) (g : Guard := all) : Prop :=
  Stands s g (mk g o) (o.regUses (n o)) fun x => WindowAtHand x o.b (n o).b ∧ NoneHeld x
abbrev MeetsP (s : State) (mk : Guard → POps → Instr) (na nb : POps → Nat) (o : POps) (g : Guard := all) : Prop :=
  Stands s g (mk g o) ((o.a, na o) :: o.b.use (nb o)) fun x => WindowAtHand x o.b (nb o)

/-- A whole warp whose lanes hold 256 registers, lane i's `v1` being i and its `v2` 3, predicate 1 set in even lanes. -/
def full : State := warpOf 32 (fun i => [0, BitVec.ofNat 32 i, 3, 0] ++ List.replicate 252 0) fun i => if i % 2 == 0 then 2 else 0

/-- The even lanes alone execute. -/
def evens : Guard := ⟨0xF0, 1, 0, 0⟩
/-- No lane executes. -/
def noneEx : Guard := ⟨0x00, 0, 0, 0⟩

/-- A geometry entry of one channel, channel 0 of stack 0, in stripes of 256 bytes. -/
def geo1 : BitVec 128 := 0x0000000180000000 ||| 0x01001000

/-- A launch with 64 KiB of block SRAM. -/
def launch0 : Launch := { wordLaunch with rec_ := wordLaunch.rec_.set 0x2A 1 }
/-- `full` with 64 KiB of block SRAM, and the page at 0x100000 mapped writable to the first 64 KiB of channel 0. -/
def mapped : State :=
  { full with gt := 1, launches := [launch0], blocks := [newBlock launch0 (wordCluster State.reset) 0], hbm := [(5, 7)],
              tlbs := [{ owner := 0, ctx := 0, va := 0x100000, size := 65536, pte := 0xB, geo := geo1 }] }

/-- `s` with the warp's lanes changed. -/
def withLanes (s : State) (f : Nat → Lane → Lane) : State :=
  s.modWarp 0 0 fun w => { w with lanes := w.lanes.mapIdx f }

/-- `s` with the warp in a handler's role. -/
def asHandler (s : State) : State := s.modWarp 0 0 fun w => { w with kind := .handler }

/-- `s` with a table space of 4 MiB in channel 1, at the virtual address 2^40. -/
def tabled (s : State) : State :=
  { s with sys := { s.sys with tsbase := 0x10000000000, tssize := 0x400000, tsloc := 0, tsgeo := 0x281001000, frsize := 4 } }

/-- Eight bytes of table space at an offset. -/
def tableWord (m : Memory) (o v : Nat) : Memory := m.setN (2 ^ 31 + o) (natToBytes 8 v)

/-- `mapped` with a page table in that table space, whose 64 KiB pages from 0x100000 on have the PTEs given, and no TLB entry. -/
def paged (ptes : List Nat) : State :=
  let s := tabled mapped
  { s with
    tlbs := [],
    banks := s.banks.map fun b => { b with ptroot := 0, gtbase := 0x10000203000 },
    hbm := (ptes.mapIdx fun i p => (i, p)).foldl (fun m p => tableWord m (0x202000 + 8 * (16 + p.1)) p.2)
      (tableWord (tableWord (tableWord (tableWord (tableWord s.hbm 0 0x200001) 0x200000 0x201001) 0x201000 0x202001)
        0x203000 (geo1.toNat % 2 ^ 64)) 0x203008 (geo1.toNat / 2 ^ 64)) }

theorem witness_ArithmeticWritesExactResultBroughtToWidth :
    MeetsR full .add ROps.spans (ops 254 2 254 .s64) ∧ MeetsR full .sub ROps.spans (ops 3 1 2 .n8 1) ∧
      MeetsR full .mul ROps.spans (ops 255 1 2 .s16) ∧ MeetsR full .mulhi ROps.spans (ops 3 1 2 .s32) ∧
      MeetsR full .mad ROps.spans (ops3 3 1 2 255 .n32) ∧ MeetsR full .madhi ROps.spans (ops3 3 1 2 3 .s32) ∧
      MeetsR full .min ROps.spans (ops 3 1 2 .s8) ∧ MeetsR full .max ROps.spans (ops 4 6 2 .n64) ∧
      MeetsR full .abs ROps.spans (ops1 3 1 .s32 1) ∧ MeetsR full .neg ROps.spans (ops1 3 1 .s16) ∧
      MeetsR full .sad ROps.spans (ops3 3 1 2 4 .n8) ∧
      MeetsR full .lea (fun o => ⟨o.ty.regs, o.ty.regs, 1, 1⟩) (ops 4 6 1 .n64 15) ∧
      MeetsR full .dot4 (fun _ => ⟨1, 1, 1, 1⟩) (ops3 3 1 2 4 .s8 3) ∧
      MeetsR full .add ROps.spans ⟨.z, .k 63, .z, .reg (.sp .lane), .s32, 0⟩ evens := by
  with_reducible and_intros <;> exact stands (by decide +kernel)

theorem witness_LogicAndShiftsGiveEachBit :
    let one := fun (o : ROps) => (⟨o.ty.regs, o.ty.regs, 1, o.ty.regs⟩ : Spans)
    MeetsR full .and ROps.spans (ops 4 2 6 .b64) ∧ MeetsR full .or ROps.spans (ops 3 1 2 .b32) ∧
      MeetsR full .xor ROps.spans (ops 3 1 2 .b16) ∧ MeetsR full .bitop ROps.spans (ops3 3 1 2 4 .b32 0xE8) ∧
      MeetsR full .shl one (ops 4 2 1 .b64) ∧ MeetsR full .shr one (ops 255 1 2 .b32) ∧ MeetsR full .sra one (ops 4 2 1 .s64) ∧
      MeetsR full .rotl one (ops 3 1 2 .b32) ∧ MeetsR full .rotr one (ops 3 1 2 .b32) ∧
      MeetsR full .brev ROps.spans (ops1 3 1 .b32) := by
  with_reducible and_intros <;> exact stands (by decide +kernel)

theorem witness_CountsAndFieldsFollowTables5AndR130 :
    let one := fun (o : ROps) => (⟨1, o.ty.regs, 1, 1⟩ : Spans)
    let two := fun (o : ROps) => (⟨o.ty.regs, o.ty.regs, 1, o.ty.regs⟩ : Spans)
    MeetsR full .clz one (ops1 3 254 .b64) ∧ MeetsR full .ctz one (ops1 3 1 .b32) ∧ MeetsR full .popc one (ops1 3 1 .b32) ∧
      MeetsR full .bfx two (ops 3 1 2 .s32) ∧ MeetsR full .bfx two (ops 4 2 1 .n64) ∧ MeetsR full .bfi two (ops3 3 1 2 4 .b32) := by
  with_reducible and_intros <;> exact stands (by decide +kernel)

theorem witness_MovesCopySelectAndLoadImmediates :
    (MeetsR full .mov ROps.spans ⟨.v 3, .z, .z, .reg (.v 2), .b8, 0⟩ ∧ MeetsR full .mov ROps.spans ⟨.k 63, .z, .z, .reg .z, .b32, 0⟩) ∧
      (let o := ops 3 1 2 .b32 9
       Stands full all (.sel all o) (o.regUses o.spans) fun x => WindowAtHand x o.b o.ty.regs) ∧
      Stands full all (.movi all ⟨.v 254, .z, .z, 0xFFFFFFFE, .s64, 0⟩) [(.v 254, 2), (.z, 2)] (fun _ => True) ∧
      Stands full all (.addi all ⟨.v 255, .v 0, .z, 5, .s32, 1⟩) [(.v 255, 1), (.v 0, 1)] (fun _ => True) ∧
      (let o : ROps := ⟨.v 1, .z, .z, .reg .z, .b32, 0⟩
       Stands full all (.pmovToReg all o) (o.regUses ⟨1, 1, 1, 1⟩) fun x => WindowAtHand x o.b 1) := by
  with_reducible and_intros <;> exact stands (by decide +kernel)

theorem witness_FloatInstructionsWriteResultAndStickyFlags :
    MeetsR full .fadd (fun _ => ones1) (ops 3 1 2 .f32) ∧ MeetsR full .fsub (fun _ => ones1) (ops 3 1 2 .f16 1) ∧
      MeetsR full .fmul (fun _ => ones1) (ops 3 1 2 .bf16x2) ∧ MeetsR full .ffma (fun _ => ones1) (ops3 3 1 2 4 .f16x2 3) ∧
      MeetsR full .fmin (fun _ => ones1) (ops 3 1 2 .f32) ∧ MeetsR full .fmax (fun _ => ones1) (ops 3 1 2 .bf16) ∧
      MeetsR full .frnd (fun _ => ones1) (ops1 3 1 .f32 2) ∧ MeetsR full .fscale (fun _ => ones1) (ops 3 1 2 .f16) ∧
      MeetsR full .fdot2 (fun _ => ones1) (ops3 3 1 2 4 .f16x2) ∧ MeetsR full .fsqrt (fun _ => ones1) (ops1 3 1 .f32 1) ∧
      MeetsR full .frcp (fun _ => ones1) (ops1 3 1 .f32) ∧ MeetsR full .frsq (fun _ => ones1) (ops1 3 1 .f32) ∧
      MeetsR full .fex2 (fun _ => ones1) (ops1 3 1 .f32) ∧ MeetsR full .flg2 (fun _ => ones1) (ops1 3 1 .f32) ∧
      MeetsR full .fsin (fun _ => ones1) (ops1 3 1 .f32) ∧ MeetsR full .fcos (fun _ => ones1) (ops1 3 1 .f32) ∧
      MeetsR full .cvt (fun o => ⟨(o.cvtDest.getD .s32).regs, o.ty.regs, 1, 1⟩) (ops1 2 1 .f32 0x20) ∧
      MeetsR full .pack2 (fun _ => ones1) (ops 3 1 2 .bf16x2 4) ∧ MeetsR full .dtdec (fun _ => ones1) (ops 5 4 2 .dt8 3) ∧
      MeetsR full .dtenc (fun _ => ones1) (ops3 4 1 2 4 .dt8 3) ∧ MeetsR full .fclass (fun _ => ones1) (ops1 3 1 .f16) ∧
      Stands full all (.fclassTake all ⟨.v 255, .z, .z, .reg .z, .b32, 1⟩) [(.v 255, 1)] (fun _ => True) := by
  with_reducible and_intros <;> exact stands (by decide +kernel)

/-- A finite value and the rational that it is. -/
def IsFinite (v : FVal) (n : Bool) (m : Nat) (e : Int) (q : ℚ) : Prop := v = .fin n m e ∧ valueOf v = q
theorem finite_is {v : FVal} {n : Bool} {m : Nat} {e : Int} {q : ℚ} (h : v = .fin n m e)
    (hq : (if n then (-1 : ℚ) else 1) * ((m : ℚ) * (2 : ℚ) ^ e) = q) : IsFinite v n m e q := by
  subst h; exact ⟨rfl, hq⟩

/-- Operands of every class; the least and greatest of a range, beyond it, a half between integers: 2^31, 2.5, -2^31 - 256. -/
theorem witness_ConvertedValues :
    (∀ f ∈ [Fmt.f32, .f16, .bf16], f.read 3 f.infBits = .inf false ∧ f.read 3 (f.infBits + 1) = .nan true ∧
        f.read 3 f.nanBits = .nan false ∧ f.read 3 f.signBit = .fin true 0 (f.emin - f.mbits)) ∧
      IsFinite (Fmt.f32.read 3 0x4F000000) false (2 ^ 23) 8 (2 ^ 31) ∧
      IsFinite (Fmt.f32.read 3 0xCF000001) true (2 ^ 23 + 1) 8 (-2 ^ 31 - 256) ∧
      IsFinite (Fmt.bf16.read 3 0x4020) false 160 (-6) (5 / 2) ∧
      intAt .s32 0 = 0 ∧ intAt .n64 (2 ^ 64 - 1) = 2 ^ 64 - 1 := by
  (with_reducible and_intros) <;> first | exact finite_is (by decide +kernel) (by norm_num) | decide +kernel

/-- Element `k` of a packed register of FP16. -/
def half (w k : Nat) : FVal := Fmt.f16.val (w / 2 ^ (16 * k) % 2 ^ 16)

/-- The elements of `fdot2`: an infinity beside a zero; infinities of either sign; one infinite product; a NaN beside finite ones; finite
ones alone, whose sum is 0 and is not. -/
theorem witness_DotValues :
    let v := half
    (v 0x7C00 0 = .inf false ∧ v 0 0 = .fin false 0 (-24)) ∧
      (InfiniteProduct (v 0x7C00 0) (v 0x3C00 0) false ∧ Fmt.f32.read 3 0xFF800000 = .inf true) ∧
      (InfiniteProduct (v 0x3C00FC00 0) (v 0x3C003C00 0) true ∧
        (¬∃ k < 2, ∃ n n' e, (v 0x3C00FC00 k = .inf n ∧ v 0x3C003C00 k = .fin n' 0 e) ∨ (v 0x3C003C00 k = .inf n ∧ v 0x3C00FC00 k = .fin n' 0 e)) ∧
        ¬(Fmt.f32.read 3 0 = .inf false ∨ ∃ k < 2, InfiniteProduct (v 0x3C00FC00 k) (v 0x3C003C00 k) false)) ∧
      (v 0x7D00 0 = .nan true ∧ v 0x7E00 0 = .nan false ∧ ∀ k < 2, (v 0x3C003C00 k).isInf = false) ∧
      (∀ k < 2, v 0x3C003C00 k = .fin false 1024 (-10)) ∧ Fmt.f32.read 3 0xC0000000 = .fin true 8388608 (-22) := by
  have a0 : half 0x3C00FC00 0 = .inf true := by decide +kernel
  have a1 : half 0x3C00FC00 1 = .fin false 1024 (-10) := by decide +kernel
  have b : ∀ k < 2, half 0x3C003C00 k = .fin false 1024 (-10) := by decide +kernel
  have one : InfiniteProduct (.inf true) (.fin false 1024 (-10)) true :=
    ⟨true, false, rfl, .inr ⟨1024, -10, by decide, .inl ⟨rfl, rfl⟩⟩⟩
  refine ⟨by decide +kernel, ⟨?_, by decide +kernel⟩, ⟨?_, ?_, ?_⟩, by decide +kernel, b, by decide +kernel⟩
  · exact ⟨false, false, rfl, .inr ⟨1024, -10, by decide, .inl (by decide +kernel)⟩⟩
  · show InfiniteProduct (half 0x3C00FC00 0) (half 0x3C003C00 0) true
    rw [a0, b 0 (by decide)]
    exact one
  · rintro ⟨k, hk, n, n', e, h⟩
    simp [b k hk] at h
  · rintro (h | ⟨k, hk, u, w, hu, h⟩)
    · exact absurd h (by decide +kernel)
    · obtain rfl | rfl : k = 0 ∨ k = 1 := by omega
      · simp [a0, b 0 (by decide)] at h
        obtain ⟨rfl, _, _, _, rfl, _⟩ := h
        cases hu
      · simp [a1, b 1 (by decide)] at h

/-- Codes of DT8 under the scales that take their value to 0, beyond the range and within it, and the marker; operands of `dtenc`. -/
theorem witness_Dt8Values :
    (dtValueOf 0x77 * (2 : ℚ) ^ ((254 : Int) - 127) = 0 ∧ (2 : ℚ) ^ 128 ≤ |dtValueOf 0x88 * (2 : ℚ) ^ ((254 : Int) - 127)| ∧
      dtValueOf 0x13 * (2 : ℚ) ^ ((126 : Int) - 127) = 5 / 16 ∧ dtValueOf 0xFE = -1 / 64) ∧
      (Fmt.f32.val 0x7F800001).isNan = true ∧ Fmt.f32.val 0xFF800000 = .inf true ∧ Fmt.f32.val 0x3E99999A = .fin false 10066330 (-25) := by
  refine ⟨?_, by decide +kernel, by decide +kernel, by decide +kernel⟩
  norm_num [dtValueOf, dtTermOf, Nat.testBit, Nat.shiftRight_eq_div_pow]

/-- Operands of the approximated functions: each class, and finite ones on either side of every bound. -/
theorem witness_ApproximatedValues :
    (Fmt.f32.read 3 0x7FC00000 = .nan false ∧ Fmt.f32.read 3 0xFF800000 = .inf true ∧ Fmt.f32.read 1 0x80000001 = .fin true 0 (-149) ∧
        Fmt.f32.read 3 0xBF800000 = .fin true 8388608 (-23)) ∧
      IsFinite (Fmt.f32.read 3 0x00200000) false 2097152 (-149) ((2 : ℚ) ^ (-128 : Int)) ∧
      IsFinite (Fmt.f32.read 3 0x00200001) false 2097153 (-149) (2097153 * (2 : ℚ) ^ (-149 : Int)) ∧
      IsFinite (Fmt.f32.read 3 0x40800000) false 8388608 (-21) ((2 : ℚ) ^ (2 * (1 : Int))) ∧
      IsFinite (Fmt.f32.read 3 0x43000000) false 8388608 (-16) (128) ∧
      IsFinite (Fmt.f32.read 3 0xC3150000) true 9764864 (-16) (((-149 : Int) : ℚ)) ∧
      IsFinite (Fmt.f32.read 1 0xC2FD0000) true 16580608 (-17) (-253 / 2) := by
  (with_reducible and_intros) <;> first | exact finite_is (by decide +kernel) (by norm_num) | decide +kernel

/-- Magnitudes that overflow and that do not: the least that RNE takes to an infinity, the one below it, one that RZ keeps. -/
theorem witness_RoundingIsWithinOneUnitOnTheModesSide :
    let f := Fmt.f32
    (f ∈ [Fmt.f32, Fmt.f16, Fmt.bf16] ∧ 0 < 2 ^ 25 - 1 ∧
        (2 : ℚ) ^ (f.emax + 1) - (2 : ℚ) ^ (f.emax - f.mbits) / 2 ≤ ((2 ^ 25 - 1 : Nat) : ℚ) * 2 ^ (103 : Int)) ∧
      ¬(2 : ℚ) ^ (f.emax + 1) - (2 : ℚ) ^ (f.emax - f.mbits) / 2 ≤ ((2 ^ 25 - 2 : Nat) : ℚ) * 2 ^ (103 : Int) ∧
      (¬(2 : ℚ) ^ (f.emax + 1) ≤ ((2 ^ 25 - 1 : Nat) : ℚ) * 2 ^ (103 : Int) ∧ (2 : ℚ) ^ (f.emax + 1) ≤ ((1 : Nat) : ℚ) * 2 ^ (128 : Int)) ∧
      -- At half a unit, and at the least normal magnitude.
      ((2 : ℚ) ^ f.emin - (2 : ℚ) ^ (f.emin - 1 - f.mbits) / 2 ≤ ((2 ^ 25 - 1 : Nat) : ℚ) * 2 ^ (-151 : Int) ∧
        ¬(2 : ℚ) ^ (f.emax + 1) - (2 : ℚ) ^ (f.emax - f.mbits) / 2 ≤ ((2 ^ 24 + 1 : Nat) : ℚ) * 2 ^ (0 : Int)) := by
  norm_num [Fmt.f32, Fmt.emax, Fmt.emin, Fmt.bias]

theorem witness_NanAndInvalidOperandsFollowR144 :
    (0x7FC00001 < 2 ^ Fmt.f32.width ∧ (Fmt.f32.val 0x7FC00001).isNan = true ∧ (Fmt.f32.val 0x7F800001).isNan = true) ∧
      (Fmt.f16.val 0x7C00 = .inf false ∧ Fmt.f16.val 0xFC00 = .inf (!false)) ∧
      (Fmt.bf16.val 0xFF80 = .inf true ∧ Fmt.bf16.val 0x8000 = .fin true 0 (-133) ∧ Fmt.bf16.read 3 0x8000 = .fin true 0 (-133)) ∧
      -- Finite operands: 1.0, 3.0 and -3.0, one with a root.
      (Fmt.f32.read 3 0x3F800000 = .fin false 8388608 (-23) ∧ Fmt.f32.read 3 0x40400000 = .fin false 12582912 (-22) ∧
        0 < valueOf (Fmt.f32.read 3 0x40400000) ∧ Fmt.f16.read 3 0xC200 = .fin true 1536 (-9)) ∧
      -- A NaN or an infinity beside a finite operand; the product -∞ and the addend +∞.
      (Fmt.f32.read 1 0x80000000 = .fin true 0 (-149) ∧ (Fmt.f32.val 0x7FC00000).isNan = true ∧
        (Fmt.f32.val 0x3F800000).isNan = false ∧ (Fmt.f32.val 0x3F800000).isInf = false) ∧
      (Fmt.f32.val 0xFF800000 = .inf true ∧ Fmt.f32.read 3 0x3F800000 = .fin false 8388608 (-23) ∧
        Fmt.f32.val 0x7F800000 = .inf (true == false)) := by
  have h : Fmt.f32.read 3 0x40400000 = .fin false 12582912 (-22) := by decide +kernel
  have hv : 0 < valueOf (Fmt.f32.read 3 0x40400000) := by rw [h]; norm_num [valueOf]
  (with_reducible and_intros) <;> first | exact hv | decide +kernel

theorem witness_ComparesFoldTheirConditionIntoThePair :
    (∃ l p, PairFolded l 1 2 0 true p ∧ (0 : BitVec 2) ≠ 3 ∧ (1 : BitVec 3) ≠ 2 ∧ (1 : BitVec 3) ≠ 0 ∧ (2 : BitVec 3) ≠ 0 ∧
        l.p.getLsbD 1 = !l.p.getLsbD 2) ∧
      MeetsP full .icmp (fun o => o.ty.regs) (fun o => o.ty.regs) ⟨1, 2, 1, 2, .v 1, .reg (.v 2), .s32⟩ ∧
      MeetsP full .icmp (fun o => o.ty.regs) (fun o => o.ty.regs) ⟨7, 0, 2, 5, .v 2, .reg (.v 254), .n64⟩ evens ∧
      MeetsP full .fcmp (fun _ => 1) (fun _ => 1) ⟨1, 2, 0, 13, .v 1, .reg (.v 2), .f32⟩ ∧
      MeetsP full .btst (fun o => o.ty.regs) (fun _ => 1) ⟨1, 2, 0, 0, .v 2, .reg (.v 1), .b64⟩ ∧
      Stands full all (.pset all ⟨4, 5, 0, 3, 2, 1, 0xE8⟩) [] (fun _ => True) ∧
      (let o : ROps := ⟨.z, .v 1, .z, .reg .z, .b32, 0xFE01⟩
       Stands full all (.pmovToPred all o) (o.regUses ⟨1, 1, 1, 1⟩) fun _ => True) := by
  (with_reducible and_intros) <;> try exact stands (by decide +kernel)
  exact ⟨{ Lane.dead with p := 4 }, 2, by unfold PairFolded; decide⟩

/-- Operands in order, out of order, equal, and none. -/
theorem witness_FloatCondition :
    let one := Fmt.f32.read 3 0x3F800000
    let two := Fmt.f32.read 3 0x40000000
    (Fmt.f32.read 3 0x7F800001 = .nan true ∧ (Fmt.f32.read 3 0x7FC00000).isNan = true) ∧ (Below one two ∧ ¬Below two one) ∧
      (Below (Fmt.f32.read 3 0xFF800000) one ∧ Below one (Fmt.f32.read 3 0x7F800000)) ∧
      (¬Below (Fmt.f32.read 3 0) (Fmt.f32.read 3 0x80000000) ∧ ¬Below (Fmt.f32.read 3 0x80000000) (Fmt.f32.read 3 0)) := by
  have h1 : Fmt.f32.read 3 0x3F800000 = .fin false 8388608 (-23) := by decide +kernel
  have h2 : Fmt.f32.read 3 0x40000000 = .fin false 8388608 (-22) := by decide +kernel
  have h3 : Fmt.f32.read 3 0 = .fin false 0 (-149) := by decide +kernel
  have h4 : Fmt.f32.read 3 0x80000000 = .fin true 0 (-149) := by decide +kernel
  have h5 : Fmt.f32.read 3 0xFF800000 = .inf true := by decide +kernel
  have h6 : Fmt.f32.read 3 0x7F800000 = .inf false := by decide +kernel
  rw [h1, h2, h3, h4, h5, h6]
  refine ⟨by decide +kernel, ?_, ?_, ?_⟩ <;> norm_num [Below, valueOf, FVal.isInf] <;> decide
theorem witness_CrossLaneInstructionsSeeExecutingLanesOnly :
    let one := fun (o : ROps) => (⟨o.ty.regs, o.ty.regs, 1, 1⟩ : Spans)
    MeetsX full .shfl one (ops 4 1 2 .b32 0x16) evens ∧ MeetsX full .shfl one (ops 4 6 1 .b64 3) noneEx ∧
      MeetsX full .voteAny (fun _ => ⟨1, 1, 1, 1⟩) ⟨.v 5, .z, .z, .reg .z, .b32, 4⟩ ∧
      MeetsX full .voteAll (fun _ => ⟨1, 1, 1, 1⟩) ⟨.v 5, .z, .z, .reg .z, .b32, 0x3D⟩ ∧
      MeetsX full .voteMask (fun _ => ⟨1, 1, 1, 1⟩) ⟨.v 5, .z, .z, .reg .z, .b32, 6⟩ evens ∧
      MeetsX full .matchAny (fun o => ⟨1, o.ty.regs, 1, 1⟩) (ops1 5 2 .b64) evens ∧
      MeetsX full .matchAll (fun o => ⟨1, o.ty.regs, 1, 1⟩) (ops1 5 1 .b32 1) ∧ MeetsX full .rdlane one (ops 5 1 2 .b32) ∧
      MeetsX full .wscan ROps.spans (ops1 3 1 .s32 8) evens ∧ MeetsX full .wred ROps.spans (ops1 3 1 .b32 5) noneEx := by
  with_reducible and_intros <;> exact stands (by decide +kernel)

theorem witness_ArrivalAtALoopEndTakesTheLaneBack :
    let f : Frame := { start := 0x1000, fin := 0x1040, remaining := 1 }
    ({ Lane.dead with frames := [f] } : Lane).frames = f :: [] ∧ f.fin = 0x1040 ∧ f.remaining.toNat ≤ 1 ∧ f.fin ≠ 0x1004 ∧
      1 < ({ f with remaining := 2 } : Frame).remaining.toNat ∧ Lane.dead.frames = [] := by decide

/-- Every lane of `full` has four frames. -/
def framed : State :=
  full.modWarp 0 0 fun w => { w with lanes := w.lanes.map fun l =>
    { l with frames := List.replicate 4 { start := 0x1000, fin := 0x1040, remaining := 2 } } }

theorem witness_LoopPushesAFrameOrSkipsOrOverflows :
    let o : COps := ⟨0x40, .v 1, 0, 0⟩
    let fullAt := fun (x : Iss) i => x.read i o.a 1 ≠ 0 ∧ x.pc + o.disp.signExtend 57 ≠ nextPc x.pc ∧ (x.w.lane i).frames.length = 4
    Stands full all (.loop all o) [(o.a, 1)] (fun x => validPc (x.pc + o.disp.signExtend 57) = true ∧ ∀ i ∈ x.ex, ¬fullAt x i) ∧
      (Stands framed all (.loop all o) [(o.a, 1)] fun x =>
        validPc (x.pc + o.disp.signExtend 57) = true ∧ x.ex = [0] ++ 1 :: x.ex.drop 2 ∧ (∀ j ∈ [0], ¬fullAt x j) ∧ fullAt x 1) := by
  constructor <;> exact stands (by decide +kernel)

/-- `v8` of lane i holds 0x20004 in even lanes and 0x30010 in odd ones; `v10` an address that is no slot. -/
def returning : State := withLanes full fun i l => { l with v := (l.v.set 8 (if i % 2 == 0 then 0x20004 else 0x30010)).set 10 0x20000 }

/-- A transfer to the slot 64 bytes ahead. -/
def near : COps := ⟨0x40, .z, 0, 0⟩

theorem witness_TransfersMoveLanesOrTrapBadTarget :
    (Stands full evens (.bra evens near) [] fun x => x.ex ≠ [] → validPc (x.pc + near.disp.signExtend 57) = true) ∧
      (let o : COps := ⟨0x40, .v 1, 0, 4⟩
       Stands full all (.brx all o) [(o.a, 1)] fun x => ∀ i ∈ x.ex, x.read i o.a 1 < (o.mod.extractLsb' 0 13).toNat →
         validPc (x.pc + o.disp.signExtend 57 + BitVec.ofNat 57 (64 * x.read i o.a 1)) = true) ∧
      (let o : COps := ⟨0x40, .v 254, 0, 0⟩
       Stands full all (.call all o) [(o.a, 2)] fun x => x.ex ≠ [] → validPc (x.pc + o.disp.signExtend 57) = true) ∧
      (let o : COps := ⟨0, .v 8, 0, 0⟩
       Stands returning all (.ret all o) [(o.a, 2)] fun x =>
         ∀ i ∈ x.ex, x.read i o.a 2 < 2 ^ 57 ∧ validPc (BitVec.ofNat 57 (x.read i o.a 2)) = true) ∧
      (Stands framed evens (.loopExit evens ⟨0x40, .z, 0, 1⟩) [] fun x => x.ex ≠ [] → validPc (x.pc + near.disp.signExtend 57) = true) ∧
      (let o : COps := ⟨0x48, .z, 0, 0⟩
       Stands full all (.bra all o) [] fun x => x.ex ≠ [] ∧ validPc (x.pc + o.disp.signExtend 57) = false) ∧
      (let o : COps := ⟨0, .v 10, 0, 0⟩
       Stands returning all (.ret all o) [(o.a, 2)] fun x => x.ex = [] ++ 0 :: x.ex.drop 1 ∧
         ¬(x.read 0 o.a 2 < 2 ^ 57 ∧ validPc (BitVec.ofNat 57 (x.read 0 o.a 2)) = true)) ∧
      (let o : COps := ⟨0x48, .v 1, 0, 4⟩
       let target := fun (x : Iss) j => x.pc + o.disp.signExtend 57 + BitVec.ofNat 57 (64 * x.read j o.a 1)
       Stands (withLanes full fun i l => { l with v := l.v.set 1 (BitVec.ofNat 32 (4 - i)) }) all (.brx all o) [(o.a, 1)] fun x =>
         x.ex = [0] ++ 1 :: x.ex.drop 2 ∧ ¬x.read 0 o.a 1 < (o.mod.extractLsb' 0 13).toNat ∧
           x.read 1 o.a 1 < (o.mod.extractLsb' 0 13).toNat ∧ validPc (target x 1) = false) ∧
      (let o : COps := ⟨0x48, .v 254, 0, 0⟩
       Stands full all (.call all o) [(o.a, 2)] fun x => x.ex ≠ [] ∧ validPc (x.pc + o.disp.signExtend 57) = false) ∧
      Stands framed evens (.loopExit evens ⟨0x48, .z, 0, 1⟩) [] fun x =>
        x.ex ≠ [] ∧ validPc (x.pc + (0x48#32).signExtend 57) = false := by
  with_reducible and_intros <;> exact stands (by decide +kernel)

/-- Every lane is enrolled at `cb15`; the odd ones have arrived and wait. -/
def enrolled : State :=
  withLanes (full.modWarp 0 0 fun w => { w with cb := w.cb.set 15 (0xFFFFFFFF, 0xAAAAAAAA) }) fun i l =>
    if i % 2 == 1 then { l with status := .waiting (.join 15) } else l

theorem witness_ConvergenceBarriersEnrolHoldAndRelease :
    let o : COps := ⟨0, .z, 15, 0⟩
    let m := fun (x : Iss) => x.w.cb.getD o.cb.toNat (0, 0)
    let arr := fun (x : Iss) => x.ex.filter fun i => (m x).1.getLsbD i
    let leaves := fun (x : Iss) => x.w.cb.length = 16 ∧
      ((m x).1 &&& ~~~maskOf x.ex = 0 ∨ (m x).2 &&& ~~~maskOf x.ex ≠ (m x).1 &&& ~~~maskOf x.ex)
    let waits := fun (s : State) (x : Iss) => x.w.cb.length = 16 ∧ x.w.holds = [] ∧ ∀ i ∈ arr x, s.loading (x.w.lane i).uid = false
    (Stands full evens (.joinEnrol evens o) [] fun x =>
        (m x).1 ||| maskOf x.ex = 0 ∨ (m x).2 ≠ (m x).1 ||| maskOf x.ex) ∧
      (Stands full noneEx (.joinEnrol noneEx o) [] fun x => (m x).1 ||| maskOf x.ex = 0) ∧
      Stands full all (.joinLeave all o) [] leaves ∧
      (Stands full all (.joinWait all o) [] fun x => waits full x ∧ (m x).1 = 0) ∧
      (Stands enrolled noneEx (.joinWait noneEx o) [] fun x => waits enrolled x ∧ (m x).2 ||| maskOf (arr x) ≠ (m x).1) ∧
      (Stands enrolled all (.joinWait all o) [] fun x => waits enrolled x ∧ (m x).1 ≠ 0 ∧ (m x).2 ||| maskOf (arr x) = (m x).1 ∧
        ∀ i ∈ x.act, i ∉ arr x → ((m x).2 ||| maskOf (arr x)).getLsbD i = false) := by
  with_reducible and_intros <;> exact stands (by decide +kernel)

/-- A warp with a counted load outstanding; with a soft request pending; with debugging on; in user mode. -/
def loading : State := full.modWarp 0 0 fun w => { w with
  ops := [{ id := 1, cls := .ld, left := 1, cpstat := none, w := 0, uids := [], trapAddr := none, pc := 0x10004, mask := 1 }] }
def softAsked : State := { full with preempt := some { ctx := 0, gen := 1, hard := false, start := 0, saving := false, acks := [] } }
def debugged : State := { full with sys := { full.sys with dbgctl := 3 } }
def user : State := full.modLaunch 0 fun l => { l with rec_ := l.rec_.set 0x32 0 }

/-- Lane 31 stands alone at 0x20004, where it has waited since cycle 7; it is cycle 1024. -/
def twoPaths : State :=
  { (full.modLaunch 0 fun l => { l with rec_ := l.rec_.set 0x32 9 }).modWarp 0 0 fun w =>
    { w with cur := some 0x10004, turnStart := 0, since := [(0x20004, 7)],
             lanes := w.lanes.mapIdx fun i l => { l with pc := if i == 31 then 0x20004 else 0x10004 } } with
    cycle := 1024 }
/-- The warp of `full`. -/
def warp0 (s : State) : Warp := s.warps.headD (Warp.formed s 0 0 0 0 0 0 .block [] none)

/-- After the step the warp has gone to that path. -/
def turned (o : Result) : Bool :=
  match o with
  | .next t => (warp0 t).paths.contains 0x20004 && (warp0 t).cur == some 0x20004 &&
      decide (((warp0 t).lane 0).pc ≠ 0x20004 ∧ (warp0 twoPaths).waited twoPaths.cycle 0x20004 < twoPaths.cycle)
  | _ => false

theorem witness_TurnsWaitsAndRegionsMoveTheirLanes :
    let z : ROps := ⟨.z, .z, .z, .reg .z, .s32, 0⟩
    let c : COps := ⟨0, .z, 0, 0⟩
    let within := fun (x : Iss) (o : WOps) => x.w.count .ld ≤ o.nld.toNat ∧ x.w.count .st ≤ o.nst.toNat ∧
      x.w.count .cp ≤ o.ncp.toNat ∧ x.w.count .mx ≤ o.nmx.toNat
    Stands full all (.nop all z) [] (fun _ => True) ∧ Stands full evens (.yield evens c) [] (fun _ => True) ∧
      Stands full all (.snooze all ⟨.z, .v 2, .z, .reg .z, .n32, 0⟩) [(.v 2, 1)] (fun _ => True) ∧
      Stands loading all (.wait all ⟨1, 0, 0, 0⟩) [] (fun x => x.ex = [] ∨ within x ⟨1, 0, 0, 0⟩) ∧
      Stands loading noneEx (.wait noneEx ⟨0, 0, 0, 0⟩) [] (fun x => x.ex = [] ∨ within x ⟨0, 0, 0, 0⟩) ∧
      Stands loading all (.wait all ⟨0, 127, 127, 127⟩) [] (fun x => x.ex ≠ [] ∧ ¬within x ⟨0, 127, 127, 127⟩) ∧
      Stands full evens (.rgn evens c) [] (fun _ => True) ∧
      Stands full all (.ppoint all ⟨0x7F, 0xFFFF, 0⟩) [] (fun x => ¬(x.ex ≠ [] ∧ full.softPending x.w.ctx = true)) ∧
      Stands softAsked evens (.ppoint evens ⟨0, 1, 2⟩) [] (fun x => x.ex ≠ [] ∧ softAsked.softPending x.w.ctx = true) ∧
      Stands full all (.brk all { c with mod := 0x7F }) [] (fun x => x.ex = [] ∨ full.sys.dbgctl.getLsbD 0 = false) ∧
      (Stands twoPaths all (.yield all c) [] (fun x => x.ex ≠ []) ∧ turned (exec (.yield all c) twoPaths) = true) ∧
      Stands twoPaths all (.snooze all ⟨.z, .v 2, .z, .reg .z, .n32, 0⟩) [(.v 2, 1)] (fun x => x.ex ≠ []) ∧
      turned (exec (.snooze all ⟨.z, .v 2, .z, .reg .z, .n32, 0⟩) twoPaths) = true := by
  (with_reducible and_intros) <;> first | exact stands (by decide +kernel) | decide +kernel

/-- Debugging on for the warp alone; a path of the warp is held at 0x20004 for lane 1, which has resumed at 0x10004. -/
def heldElsewhere : State :=
  { full.modWarp 0 0 fun w => { w with holds := [(0x20004, 2, 1)] } with sys := { full.sys with dbgctl := 1 } }

theorem witness_BreakpointHaltsTheWarpAndTrapTakesItsTrap :
    (∀ s ∈ [debugged, tabled debugged], Stands s evens (.brk evens ⟨0, .z, 0, 1⟩) [] fun x => x.ex ≠ [] ∧ s.sys.dbgctl.getLsbD 0 = true ∧
        x.w.holds = [] ∧ s.sys.dbgctl.getLsbD 1 = true ∧ (∀ v ∈ s.warps, v.ctx = x.w.ctx → v.holds = []) ∧ s.pendingRecs = []) ∧
      (debugged.ringFull = true ∧ (tabled debugged).ringFull = false) ∧
      (Stands heldElsewhere evens (.brk evens ⟨0, .z, 0, 1⟩) [] fun x => x.ex ≠ [] ∧ heldElsewhere.sys.dbgctl.getLsbD 0 = true ∧
        heldElsewhere.sys.dbgctl.getLsbD 1 = false ∧ x.w.holds = [(0x20004, 2, 1)] ∧ (2 : Mask).getLsbD 1 = true ∧
        (x.w.lane 1).status = .runnable ∧ (x.w.lane 1).pc ≠ 0x20004 ∧ x.l.run = .live ∧ heldElsewhere.ringFull = true ∧
        heldElsewhere.pendingRecs = []) ∧
      (Stands full all (.trap all ⟨.z, .z, .z, .reg .z, .s32, 0xFF⟩) [] fun x => x.ex ≠ []) ∧
      Stands full noneEx (.trap noneEx ⟨.z, .z, .z, .reg .z, .s32, 0⟩) [] fun x => x.ex = [] := by
  refine ⟨List.forall_mem_cons.mpr ⟨?_, List.forall_mem_singleton.mpr ?_⟩, by decide +kernel, ?_⟩
  all_goals first | exact stands (by decide +kernel) | (with_reducible and_intros <;> exact stands (by decide +kernel))

theorem witness_ExitEndsTheExecutingThreads :
    let c : COps := ⟨0, .z, 0, 0⟩
    let z : ROps := ⟨.z, .z, .z, .reg .z, .s32, 0⟩
    (Stands full noneEx (.exit noneEx c) [] fun x => x.ex = []) ∧ (Stands full evens (.exit evens c) [] fun x => x.ex ≠ [] ∧
        x.w.kind ≠ .handler ∧ full.block? x.w.ctx x.w.cluster (x.w.lane 0).bid ≠ none) ∧
      -- The even lanes, enrolled at `cb15`, end; the odd ones, arrived there, are released.
      (Stands enrolled evens (.exit evens c) [] fun x => x.ex ≠ [] ∧ x.w.cb.length = 16 ∧
        (x.w.cb.getD 15 (0, 0)).1 &&& ~~~maskOf x.ex ≠ 0 ∧
        (x.w.cb.getD 15 (0, 0)).2 &&& ~~~maskOf x.ex = (x.w.cb.getD 15 (0, 0)).1 &&& ~~~maskOf x.ex ∧ 1 ∉ x.act ∧
        (x.w.cb.getD 15 (0, 0)).2.getLsbD 1 = true ∧ ∀ d < 15, (x.w.cb.getD d (0, 0)).2.getLsbD 1 = false) ∧
      (Stands full noneEx (.mdone noneEx z) [] fun x => x.ex = []) ∧
      (Stands (asHandler full) all (.mdone all z) [] fun x => x.ex ≠ [] ∧ x.w.kind = .handler ∧
        ∀ i ∈ x.ex, (asHandler full).acquiring (x.w.lane i).uid = false) ∧
      Stands full all (.mdone all z) [] fun x => x.ex ≠ [] ∧ x.w.kind ≠ .handler ∧ ∀ i ∈ x.ex, full.acquiring (x.w.lane i).uid = false := by
  with_reducible and_intros <;> exact stands (by decide +kernel)

/-- Does every part of a plan have a place? -/
def LanePlan.placed (p : LanePlan) : Bool := p.trap.isNone && p.parts.all fun q => match q.out with
  | .ok _ => true
  | _ => false

/-- One evaluation shows that an access goes through. -/
theorem goesThrough {s : State} {x : Iss} {o : MOps} {kind : ReqKind} {aligned : Bool}
    (h : x.ex ≠ [] ∧ (∀ i ∈ x.ex, s.acquiring (x.w.lane i).uid = false) ∧ (kind = .load ∨ o.lc ≠ 3 ∨ x.fenced 2 = true) ∧
      (∀ i ∈ x.ex, LanePlan.placed (x.plan i o (o.ty.bits / 8) aligned (kind != .load)) = true) ∧ s.mends = [] ∧
      x.w.count kind.cls ≠ 127 ∧
      (let plans := x.ex.map fun i => x.plan i o (o.ty.bits / 8) aligned (kind != .load)
       x.needs o kind (if kind = .load then x.passing plans else []) plans ≤ s.entriesFor x.w.core x.w.slot) ∧
      (∀ q ∈ x.w.ops, q.left ≠ 0) ∧ s.pendingRecs = []) : GoesThrough s x o kind aligned := by
  obtain ⟨h1, h2, h3, h4, h5, h6, h7, h8, h9⟩ := h
  refine ⟨h1, h2, fun a b => ?_, fun i hi => ?_, h5, h6, h7, h8, h9⟩
  · obtain h | h | h := h3
    · exact absurd h a
    · exact absurd b h
    · exact h
  · have := h4 i hi
    simp only [LanePlan.placed, Bool.and_eq_true, Option.isNone_iff_eq_none, List.all_eq_true] at this
    refine ⟨this.1, fun p hp => ?_⟩
    have := this.2 p hp
    split at this
    · next m hm => exact ⟨m, hm⟩
    · cases this

theorem Stands.mono {s : State} {g : Guard} {i : Instr} {uses : List RegUse} {P Q : Iss → Prop} (h : Stands s g i uses P)
    (f : ∀ x, P x → Q x) : Stands s g i uses Q := by
  obtain ⟨hw, x, hx, hp⟩ := h
  exact ⟨hw, x, hx, f x hp⟩

/-- The registers `v20` and `v21` of the lanes of `mapped` hold 0x100000 and, in `mapped` and here, `v4` and `v5` hold 0. -/
def addressed : State := withLanes mapped fun _ l => { l with v := l.v.set 20 0x100000 }

theorem witness_AccessesSendOneRequestPerPart :
    (let o : MOps := ⟨.v 254, .v 4, .v 1, 60, 3, 0, .b64, 0, 0⟩
     Stands mapped all (.ld all o) ((o.d, o.ty.regs) :: addrUses o) fun x => nbvOk mapped o.ty = true ∧ GoesThrough mapped x o .load false) ∧
      (let o : MOps := ⟨.v 3, .v 20, .v 1, 0xFFC, 2, 0, .b32, 2, 0⟩
       Stands addressed evens (.ld evens o) ((o.d, o.ty.regs) :: addrUses o) fun x =>
         nbvOk addressed o.ty = true ∧ GoesThrough addressed x o .load false) ∧
      (let o : MOps := ⟨.v 2, .v 20, .v 1, 0, 3, 0, .b64, 3, 0⟩
       Stands addressed all (.st all o) ((o.d, o.ty.regs) :: addrUses o) fun x =>
         nbvOk addressed o.ty = true ∧ GoesThrough addressed x o .store false) ∧
      (let o : MOps := ⟨.v 2, .v 4, .v 1, 0, 2, 0, .n32, 0, 2⟩
       Stands mapped all (.red all o) ((o.d, o.ty.regs) :: addrUses o) fun x => GoesThrough mapped x o .red true) ∧
      (let o : MOps := ⟨.v 6, .v 20, .z, 0, 0, 0, .b32, 0, 8⟩
       Stands addressed all (.atom all o) ((o.d, if o.aop == 8 then 2 * o.ty.regs else o.ty.regs) :: addrUses o) fun x =>
         GoesThrough addressed x o .atom true) := by
  with_reducible and_intros
  on_goal 1 => refine Stands.mono (stands (P := fun x => nbvOk mapped _ = true ∧ _) ?_) fun x h => ⟨h.1, goesThrough h.2⟩
  on_goal 2 => refine Stands.mono (stands (P := fun x => nbvOk addressed _ = true ∧ _) ?_) fun x h => ⟨h.1, goesThrough h.2⟩
  on_goal 3 => refine Stands.mono (stands (P := fun x => nbvOk addressed _ = true ∧ _) ?_) fun x h => ⟨h.1, goesThrough h.2⟩
  all_goals first | decide +kernel | exact Stands.mono (stands (by decide +kernel)) fun x h => goesThrough h

/-- The conditions of `Issues`, as one that an evaluation decides. -/
abbrev IssuesCond (s : State) (x : Iss) (o : MOps) (kind : ReqKind) (aligned : Bool) : Prop :=
  let plan := fun i => x.plan i o (o.ty.bits / 8) aligned (kind != .load)
  x.ex ≠ [] ∧ (∀ i ∈ x.ex, s.acquiring (x.w.lane i).uid = false) ∧ (kind = .load ∨ o.lc ≠ 3 ∨ x.fenced 2 = true) ∧
    (∀ i ∈ x.ex, (plan i).trap = none) ∧
    (∀ i ∈ x.ex, ∀ p ∈ (plan i).parts, s.waitsForLog kind (x.w.lane i).uid x.w.core x.w.ctx p.va = false) ∧
    x.w.count kind.cls ≠ 127 ∧ (∀ q ∈ x.w.ops, q.left ≠ 0) ∧ s.pendingRecs = [] ∧
    ∀ i ∈ x.ex, ∀ j < x.w.lanes.length, (x.w.lane j).uid = (x.w.lane i).uid → j = i

theorem issues {s : State} {x : Iss} {o : MOps} {kind : ReqKind} {aligned : Bool} (h : IssuesCond s x o kind aligned) :
    Issues s x o kind aligned := by
  obtain ⟨h1, h2, h3, h4, h5, h6, h7, h8, h9⟩ := h
  refine ⟨h1, h2, fun a b => ?_, h4, fun i hi p hp _ => h5 i hi p hp, h6, h7, h8, h9⟩
  exact h3.elim (absurd · a) (·.elim (absurd b ·) id)

/-- The page at 0x100000 is mapped, the next is not; `v20` holds 0x100000. The fault ring has 16 records. -/
def halfMapped (ptes : List Nat := [0xB]) : State := withLanes (paged ptes) fun _ l => { l with v := l.v.set 20 0x100000 }
/-- An entry of another thread for the page at 0x100000 in the mend log of core 0. -/
def oneMend : Mend :=
  { core := 0, ctx := 0, cluster := 0, meas := 0, bid := 0, tid := 40, uid := 900, va := 0x10FFF0, data := [1, 2, 3, 4], aop := 0xFF, ty := .b32,
    lc := 0, nbv := 3 }
/-- One thread has an entry for the next page too; the log is full. -/
def logging (n : Nat) : State := { halfMapped with mends := List.replicate n oneMend }

/-- How many parts fault, how many go through, and how many find a unit of the log. -/
def partKinds (s : State) (x : Iss) (o : MOps) (kind : ReqKind) (aligned : Bool) : Nat × Nat × Nat :=
  let ps := partsOf x o kind aligned
  ((ps.filter fun c => c.2.faults).length, (ps.filter fun c => !c.2.faults).length,
    (ps.filter fun c => !c.2.faults && s.logged x.w.core x.w.ctx c.2.va).length)

/-- An access of the even lanes whose first lane reaches the mapped page and the others the next; with the log empty, with an entry of the
log for the mapped page, with a full log; and one that finds too few entries. -/
theorem witness_AccessesFaultPartlyOrAreRejected :
    let o := fun (ty : Ty) (aop : BitVec 6) => (⟨.v 2, .v 20, .v 1, 0xFFFC, 2, 0, ty, 0, aop⟩ : MOps)
    let stands := fun (s : State) (i : Instr) (o : MOps) (kind : ReqKind) (aligned : Bool) (n : Nat × Nat × Nat) =>
      Stands s evens i ((o.d, o.ty.regs) :: addrUses o) fun x => (nbvOk s o.ty = true ∧ partKinds s x o kind aligned = n ∧
        entriesNeeded x o kind aligned ≤ s.entriesFor x.w.core x.w.slot) ∧ Issues s x o kind aligned
    (stands halfMapped (.ld evens (o .b32 0)) (o .b32 0) .load false (15, 1, 0) ∧
        stands halfMapped (.atom evens (o .n32 0)) (o .n32 0) .atom true (15, 1, 0) ∧
        stands halfMapped (.st evens (o .b32 0)) (o .b32 0) .store false (15, 1, 0) ∧
        stands (logging 1) (.st evens (o .b32 0)) (o .b32 0) .store false (15, 1, 1) ∧
        stands (logging 250) (.red evens (o .n32 2)) (o .n32 2) .red true (15, 1, 1) ∧
        stands (logging 256) (.st evens (o .b32 0)) (o .b32 0) .store false (15, 1, 1)) ∧
      ((∀ s ∈ [halfMapped, logging 1], s.ringFull = false ∧ 4 ≤ s.ringN ∧ s.ringN ≤ 20 ∧ s.tsCovers s.ringBase (32 * 2 ^ s.ringN) = true ∧
          (s.sys.frtail - s.sys.frhead).toNat + 15 ≤ 2 ^ s.ringN) ∧
        ({ halfMapped with sys := { halfMapped.sys with frsize := 0 } } : State).ringFull = true) ∧
      ∀ s ∈ [{ halfMapped [0xB, 0xB] with reserved := [(0, 1, 0)] }],
        Stands s evens (.ld evens (o .b32 0)) (((o .b32 0).d, 1) :: addrUses (o .b32 0)) fun x => (nbvOk s .b32 = true ∧
          s.entriesFor x.w.core x.w.slot < entriesNeeded x (o .b32 0) .load false) ∧ Issues s x (o .b32 0) .load false := by
  refine ⟨?_, by decide +kernel, List.forall_mem_singleton.mpr ?_⟩
  on_goal 1 => with_reducible and_intros
  all_goals exact Stands.mono (Tests.stands (P := fun x => _ ∧ IssuesCond _ x _ _ _) (by decide +kernel)) fun x h => ⟨h.1, issues h.2⟩

/-- `mapped` with a constant window of 64 bytes at 0x200000, its line in the constant cache. -/
def windowed : State :=
  { mapped.modLaunch 0 fun l => { l with wtab := (0x200000, 64) :: l.wtab.tail } with
    ccache := [{ core := 0, ctx := 0, line := 0x8000, data := List.replicate 64 1, bad := [], again := [] }] }

theorem witness_PrefetchAndConstantLoadsComplete :
    (let o : MOps := ⟨.v 2, .v 4, .v 1, 60, 0, 0, .b32, 0, 0⟩
     (Stands mapped noneEx (.ld noneEx o) ((o.d, o.ty.regs) :: addrUses o) fun x => nbvOk mapped o.ty = true ∧ x.ex = []) ∧
       (Stands mapped noneEx (.st noneEx o) ((o.d, o.ty.regs) :: addrUses o) fun x => nbvOk mapped o.ty = true ∧ x.ex = [])) ∧
      (let o : MOps := ⟨.v 2, .v 4, .v 1, 60, 0, 0, .n32, 0, 0⟩
       (Stands mapped noneEx (.red noneEx o) ((o.d, o.ty.regs) :: addrUses o) fun x => nbvOk mapped o.ty = true ∧ x.ex = []) ∧
         Stands mapped noneEx (.atom noneEx o) ((o.d, if o.aop == 8 then 2 * o.ty.regs else o.ty.regs) :: addrUses o) fun x =>
           nbvOk mapped o.ty = true ∧ x.ex = []) ∧
      (let o : MOps := ⟨.v 2, .v 4, .z, 0, 0, 0, .b32, 0, 0⟩
       Stands mapped noneEx (.ldc noneEx o) [(o.d, o.ty.regs), (o.a, 1), (o.x, 1)] fun x => nbvOk mapped o.ty = true ∧ x.ex = []) ∧
      (let o : MOps := ⟨.z, .v 20, .z, 0, 0, 0, .b32, 0, 0⟩
       Stands addressed all (.pref all o) (addrUses o) fun x => ∀ i ∈ x.ex, addressed.acquiring (x.w.lane i).uid = false) ∧
      (let o : MOps := ⟨.v 2, .v 4, .z, 60, 0, 0, .b64, 0, 0⟩
       Stands windowed all (.ldc all o) [(o.d, o.ty.regs), (o.a, 1), (o.x, 1)] fun x =>
         (∀ i ∈ x.ex, windowed.acquiring (x.w.lane i).uid = false) ∧ (∀ i ∈ x.ex, x.ldcOffset i o % 4 = 0) ∧
           (∀ i ∈ x.ex, ∀ j < o.ty.regs,
             match x.windowVa o.aop.toNat (x.ldcOffset i o + 4 * j) with
             | some va => windowed.ccWord x.w.core x.w.ctx va = some (if j = 0 then 0x01010101 else 0)
             | none => (if j = 0 then 0x01010101#32 else 0) = 0) ∧
           ∀ c ∈ windowed.ccache, c.bad = []) := by
  with_reducible and_intros
  on_goal 7 =>
    refine Stands.mono (stands (P := fun x => (∀ i ∈ x.ex, windowed.acquiring (x.w.lane i).uid = false) ∧
      (∀ i ∈ x.ex, x.ldcOffset i ⟨.v 2, .v 4, .z, 60, 0, 0, .b64, 0, 0⟩ % 4 = 0) ∧
      (∀ i ∈ x.ex, ∀ j : Nat, j < 2 → (match x.windowVa 0 (x.ldcOffset i ⟨.v 2, .v 4, .z, 60, 0, 0, .b64, 0, 0⟩ + 4 * (j : Int)) with
        | some va => windowed.ccWord x.w.core x.w.ctx va == some (if j = 0 then 0x01010101 else 0)
        | none => (if j = 0 then 0x01010101#32 else 0) == 0) = true) ∧ ∀ c ∈ windowed.ccache, c.bad = []) (by decide +kernel)) ?_
    rintro x ⟨h1, h2, h3, h4⟩
    refine ⟨h1, h2, fun i hi j hj => ?_, h4⟩
    have := h3 i hi j hj
    split at this <;> simp_all
  all_goals exact stands (by decide +kernel)

/-- `Refused` as a condition that an evaluation decides. -/
def refusedDec (x : Iss) (o : MOps) (write aligned : Bool) (i code : Nat) : Decidable (Refused x o write aligned i code) := by
  unfold Refused; infer_instance
def refused (x : Iss) (o : MOps) (write aligned : Bool) (i code : Nat) : Bool :=
  @decide (Refused x o write aligned i code) (refusedDec x o write aligned i code)

theorem refused_iff {x : Iss} {o : MOps} {write aligned : Bool} {i code : Nat} :
    refused x o write aligned i code = true ↔ Refused x o write aligned i code := by
  exact ⟨fun h => @of_decide_eq_true _ (refusedDec x o write aligned i code) h,
    fun h => @decide_eq_true _ (refusedDec x o write aligned i code) h⟩

theorem Refused.code {x : Iss} {o : MOps} {write aligned : Bool} {i code : Nat} (h : Refused x o write aligned i code) :
    code = 6 ∨ code = 7 := by
  unfold Refused at h
  dsimp only at h
  split_ifs at h
  · exact .inr h
  · exact .inl h
  · exact .inr h.1

/-- The lanes of `pre` are not refused, and lane `i` is, with `code`. -/
abbrev FirstRefused (x : Iss) (o : MOps) (write aligned : Bool) (pre : List Nat) (i code : Nat) : Prop :=
  (∀ j ∈ pre, ∀ c, ¬Refused x o write aligned j c) ∧ Refused x o write aligned i code

theorem firstRefused {s : State} {g : Guard} {instr : Instr} {uses : List RegUse} {P : Iss → Prop} {o : MOps} {write aligned : Bool}
    {pre : List Nat} {i code : Nat}
    (h : Stands s g instr uses fun x => P x ∧ (∀ j ∈ pre, refused x o write aligned j 6 = false ∧ refused x o write aligned j 7 = false) ∧
      refused x o write aligned i code = true) :
    Stands s g instr uses fun x => P x ∧ FirstRefused x o write aligned pre i code := by
  refine Stands.mono h fun x ⟨hp, hn, hr⟩ => ⟨hp, fun j hj c hc => ?_, refused_iff.mp hr⟩
  obtain ⟨h6, h7⟩ := hn j hj
  obtain rfl | rfl := Refused.code hc
  · exact Bool.noConfusion (h6.symm.trans (refused_iff.mpr hc))
  · exact Bool.noConfusion (h7.symm.trans (refused_iff.mpr hc))

/-- An atomic whose address is misaligned in lane 1; a load past the block's SRAM in lane 1; a store whose second line is not
mapped; a reduction outside SRAM. -/
theorem witness_RefusedAddressesTrapBeforeAnythingIsSent :
    (let o : MOps := ⟨.v 3, .v 20, .v 1, 0, 0, 0, .n32, 0, 0⟩
     Stands addressed all (.atom all o) ((o.d, if o.aop == 8 then 2 * o.ty.regs else o.ty.regs) :: addrUses o) fun x =>
       (x.ex = [0] ++ 1 :: x.ex.drop 2 ∧ (∀ j ∈ x.ex, addressed.acquiring (x.w.lane j).uid = false) ∧ nbvOk addressed o.ty = true ∧
         (o.lc = 3 → x.fenced 2 = true)) ∧ FirstRefused x o true true [0] 1 0x06) ∧
      (let o : MOps := ⟨.v 3, .v 4, .v 1, 0xFFFC, 3, 0, .b32, 0, 0⟩
       Stands mapped all (.ld all o) ((o.d, o.ty.regs) :: addrUses o) fun x =>
         (x.ex = [0] ++ 1 :: x.ex.drop 2 ∧ (∀ j ∈ x.ex, mapped.acquiring (x.w.lane j).uid = false) ∧ nbvOk mapped o.ty = true) ∧
           FirstRefused x o false false [0] 1 0x07) ∧
      (let o : MOps := ⟨.v 3, .v 20, .v 1, 0xFFFC, 1, 0, .b32, 3, 0⟩
       Stands addressed all (.st all o) ((o.d, o.ty.regs) :: addrUses o) fun x =>
         (x.ex = [0] ++ 1 :: x.ex.drop 2 ∧ (∀ j ∈ x.ex, addressed.acquiring (x.w.lane j).uid = false) ∧ nbvOk addressed o.ty = true ∧
           x.fenced 2 = true) ∧ FirstRefused x o true false [0] 1 0x07) ∧
      (let o : MOps := ⟨.v 2, .v 4, .z, 0xFFFFFF, 0, 1, .n32, 0, 2⟩
       Stands mapped all (.red all o) ((o.d, o.ty.regs) :: addrUses o) fun x =>
         (x.ex = [] ++ 0 :: x.ex.drop 1 ∧ (∀ j ∈ x.ex, mapped.acquiring (x.w.lane j).uid = false) ∧ nbvOk mapped o.ty = true ∧
           (o.lc = 3 → x.fenced 2 = true)) ∧ FirstRefused x o true true [] 0 0x07) := by
  with_reducible and_intros <;> exact firstRefused (stands (by decide +kernel))

/-- Lane 31 has a write under way; the path is held at a fence of scope 2, whose conditions hold, or lane 31's do not. -/
def writing : State := withLanes mapped fun i l => { l with pw := if i == 31 then 1 else 0 }
def fencedIn (s : State) (ex : Mask) : State :=
  { s.modWarp 0 0 fun w => { w with hold := [(0x10004, .fence 2 0xFFFFFFFF ex true)] } with issuing := none }

/-- A path stands in a slot. -/
theorem standsThere {s : State} {core slot : Nat} {P : Iss → Prop} [DecidablePred P]
    (h : (match s.standing core slot with
      | some x => decide (P x)
      | none => false) = true) : ∃ x, s.standing core slot = some x ∧ P x := by
  split at h
  · next x hx => exact ⟨x, hx, of_decide_eq_true h⟩
  · cases h

/-- What meets a fence of scope 2 in a warp with nothing outstanding. -/
abbrev Quiet (x : Iss) (i : Nat) : Prop :=
  x.w.ops = [] ∧ x.s.outside.unacked = [] ∧ (x.w.lane i).pw = 0 ∧ (x.w.lane i).mc = 0 ∧ (x.w.lane i).vis < x.s.coreGt x.w.core

theorem Quiet.met {x : Iss} {i : Nat} (h : Quiet x i) : FenceMet x 2 i := by
  obtain ⟨h1, h2, h3, h4, h5⟩ := h
  simp [FenceMet, h1, h2, h3, h4, h5]

theorem unmet {x : Iss} {i : Nat} (h : (x.w.lane i).pw ≠ 0) : ¬FenceMet x 2 i := fun h' => by
  simp [FenceMet, h] at h'

theorem witness_FencePassesOnceItsConditionsHold :
    let o : ROps := ⟨.z, .z, .z, .reg .z, .s32, 2⟩
    (Stands mapped all (.fence all o) [] fun x => ∀ i ∈ x.ex, FenceMet x (o.mod.extractLsb' 0 2).toNat i) ∧
      (Stands writing all (.fence all o) [] fun x => ¬(∀ i ∈ x.ex, FenceMet x (o.mod.extractLsb' 0 2).toNat i)) ∧
      (∃ x, (fencedIn mapped 0x55555555).standing 0 0 = some x ∧
        x.w.holdAt x.pc = some (.fence 2 (maskOf x.act) 0x55555555 true) ∧
        ∀ i < 32, (0x55555555#32).getLsbD i = true → FenceMet x 2 i) ∧
      ∃ x, (fencedIn writing 0xFFFFFFFF).standing 0 0 = some x ∧
        x.w.holdAt x.pc = some (.fence 2 (maskOf x.act) 0xFFFFFFFF true) ∧
        ¬(∀ i < 32, (0xFFFFFFFF#32).getLsbD i = true → FenceMet x 2 i) := by
  refine ⟨?_, ?_, ?_, ?_⟩
  · exact Stands.mono (stands (P := fun x => ∀ i ∈ x.ex, Quiet x i) (by decide +kernel)) fun x h i hi => (h i hi).met
  · exact Stands.mono (stands (P := fun x => 31 ∈ x.ex ∧ (x.w.lane 31).pw ≠ 0) (by decide +kernel)) fun x h h' =>
      unmet h.2 (h' 31 h.1)
  · obtain ⟨x, hx, h⟩ := standsThere (s := fencedIn mapped 0x55555555) (core := 0) (slot := 0) (P := fun x =>
      x.w.holdAt x.pc = some (.fence 2 (maskOf x.act) 0x55555555 true) ∧ ∀ i ∈ List.range 32, Quiet x i) (by decide +kernel)
    exact ⟨x, hx, h.1, fun i hi _ => (h.2 i (List.mem_range.mpr hi)).met⟩
  · obtain ⟨x, hx, h⟩ := standsThere (s := fencedIn writing 0xFFFFFFFF) (core := 0) (slot := 0) (P := fun x =>
      x.w.holdAt x.pc = some (.fence 2 (maskOf x.act) 0xFFFFFFFF true) ∧ (x.w.lane 31).pw ≠ 0) (by decide +kernel)
    exact ⟨x, hx, h.1, fun h' => unmet h.2 (h' 31 (by decide) (by decide))⟩

/-- A request of lane 0 of the warp for four bytes at device address 124. -/
def ask (kind : ReqKind) : Req :=
  { id := 5, op := 3, core := 0, slot := 0, form := 0, ctx := 0, cluster := 0, bid := 0, uid := 1, lane := 0, kind := kind, ty := .b32, lc := 0, aop := 0,
    tgt := .line 124, va := 0x10007C, size := 4, at_ := 0, data := if kind == .load then [] else [1, 2, 3, 4], dest := .v 255,
    mse := false, fill := none, got := none, w := none, hc := 0, tag := 0, sealed := false, nbv := 3, meas := 0, poison := false,
    backD := false, backW := false, live := false, shown := false, seen := [] }

/-- A state whose memory the slices hold soundly. -/
abbrev Sound (s : State) : Prop :=
  s.hbm.wf = true ∧ (s.l2.map fun l => l.line).Nodup ∧ (∀ l ∈ s.l2, l.data.length = 128) ∧
    ∀ l ∈ s.l2, l.dirty = false → ∀ j < 128, s.hbm.get (l.line * 128 + j) = l.data.getD j 0

theorem Sound.sound {s : State} (h : Sound s) : SlicesSound s := ⟨h.1, h.2.1, h.2.2.1, h.2.2.2⟩

/-- `mapped` with one request in flight, counted by the warp. -/
def asking (kind : ReqKind) : State :=
  { mapped.modWarp 0 0 fun w => { w with
      ops := [{ id := 3, cls := kind.cls, left := 1, cpstat := none, w := 0, uids := [], trapAddr := none, pc := 0x10004, mask := 1 }],
      lanes := w.lanes.map fun l => { l with v := l.v.take 256, pw := 1 } } with
    reqs := [ask kind] }

/-- Stores, atomics and reductions of the last four bytes of line 0, of block SRAM and of a core-pinned frame; two stores of one
instruction that cover a poisoned sector together. -/
theorem witness_HomeWriteChangesExactlyItsBytes :
    (∀ k ∈ [ReqKind.store, .atom, .red], ∀ t ∈ [Target.line 124, .sram 0 0 0 0xFFFC, .frame 0 0 16],
      let r := { ask k with tgt := t }
      let s := { asking k with reqs := [r] }
      let old := s.homeRead (s.reqTarget r) r.size
      let n := r.ty.bits / 8
      let new := if r.kind = .store then r.data else
        natToBytes n (aopValue r.aop.toNat r.ty r.nbv (bytesToNat old) (bytesToNat (r.data.take n)) (bytesToNat (r.data.drop n)))
      s.reqs.find? (fun q => q.id == r.id && q.unperformed) = some r ∧ s.blocked r = false ∧ s.reqTarget r = t ∧
        s.poisonedAt (s.reqTarget r).sector 32 = false ∧ 124 % 128 + r.size ≤ 128 ∧ r.size ≠ 0 ∧ new.length = r.size ∧
        (∃ b ∈ s.blocks, s.block? 0 0 0 = some b ∧ b.sram.wf = true) ∧ ∃ c ∈ s.clusters, s.cluster? 0 0 = some c ∧ c.pinned.wf = true) ∧
      SlicesSound (asking .store) ∧
      (∃ p ∈ table6Types, ∃ ty ∈ p.2, 2 ^ 64 - 1 < 2 ^ ty.bits) ∧
      (let r := { ask .store with tgt := .line 0, va := 0x100000, size := 16, data := List.replicate 16 1 }
       let q := { r with id := 6, tgt := .line 16, va := 0x100010, at_ := 16, data := List.replicate 16 2 }
       let s := { asking .store with reqs := [r, q], poison := [0] }
       s.reqs.find? (fun q => q.id == r.id && q.unperformed) = some r ∧ r.kind = .store ∧ s.poisonedAt (s.reqTarget r).sector 32 = true ∧
         (s.reqs.filter fun q => q.op == r.op && q.kind == .store && q.unperformed && (s.reqTarget q).key == .line 0) = [r, q] ∧
         s.reqTarget r = .line 0 ∧ s.reqTarget q = .line 16 ∧ (s.reqs.map fun q => q.id).Nodup ∧
         (∀ p ∈ s.reqs, p.data.length = p.size ∧ p.size = 16) ∧
         (∀ p ∈ s.reqs, ∀ q ∈ s.reqs, s.blockedBy p q = true → p.op = q.op ∧ p.kind = .store) ∧ SlicesSound s) := by
  (with_reducible and_intros) <;> first | exact Sound.sound (by decide +kernel) | decide +kernel

theorem witness_CompletionsReachTheirThreads :
    (∀ t ∈ [Target.line 124, .sram 0 0 0 0xFFFC],
     let r := { ask .load with tgt := t }
     let s := { asking .load with reqs := [r] }
     s.reqs.find? (fun q => q.id == r.id && q.writesReg) = some r ∧ r.kind = .load ∧ r.got = none ∧ r.fill = none ∧ r.live = false ∧
       s.blocked r = false ∧ s.reqTarget r = t ∧ r.at_ = 0 ∧ r.dest = .v 255 ∧ s.poisonedAt t r.size = false ∧
       (∃ b ∈ s.blocks, s.block? 0 0 0 = some b) ∧
       (∀ q ∈ s.reqs, q.op = r.op → q.uid = r.uid → q = r) ∧ (∀ q ∈ s.reqs, q.id = r.id → q = r) ∧ s.takes r = true ∧
       (match s.warp? r.core r.slot with
        | some w => decide (r.lane < w.lanes.length ∧ ∀ q ∈ w.ops, q.trapAddr = none ∧ q.uids = [])
        | none => false) = true ∧ Sound s) ∧
      -- An atomic's value to a uniform register; the two parts of a load across lines.
      (let r := { ask .atom with got := some [1, 2, 3, 4], dest := .k 40 }
       let p := { ask .load with got := some [1, 2], size := 2 }
       let q := { p with id := 6, at_ := 2, tgt := .line 128, va := 0x100080 }
       ∀ c ∈ [(r, [r]), (p, [p, q]), (q, [p, q])],
         let s := { asking c.1.kind with reqs := c.2 }
         s.reqs.find? (fun q => q.id == c.1.id && q.writesReg) = some c.1 ∧ c.1.live = false ∧ c.1.got ≠ none ∧
           (s.reqs.filter fun q => q.op == c.1.op && q.uid == c.1.uid && q.kind == c.1.kind && !q.backD) = c.2 ∧
           (∀ p ∈ c.2, p.got ≠ none ∧ p.poison = false) ∧ (s.reqs.map fun q => q.id).Nodup ∧ p.at_ < q.at_ ∧ q.at_ < 16 ∧
           s.takes c.1 = true ∧ (match s.warp? c.1.core c.1.slot with
             | some w => decide (c.1.lane < w.lanes.length)
             | none => false) = true) ∧
      (let r := { ask .store with w := some 9 }
       let s := { asking .store with reqs := [r] }
       s.reqs.find? (fun q => q.id == r.id && !q.backW) = some r ∧ r.w = some 9 ∧ r.kind ≠ .atom ∧ s.hasThread r.uid = true ∧
         s.spilledAt r.uid = none ∧
         ∀ w ∈ s.warps, ∀ q ∈ w.ops, q.cpstat = none ∧ q.trapAddr = none ∧ q.uids = []) := by
  with_reducible and_intros <;> decide +kernel

/-- A fill of line 8 of core 0, on its way, and a load that waits for it; a clean line held in a slice. -/
def oneFill : Fill := { id := 7, core := 0, line := 8, ctx := 0, va := 0x100400, drop := false, tag := 0, hc := 0, toL1 := true }
def filling : State :=
  { asking .load with fills := [oneFill], reqs := [{ ask .load with tgt := .line 1024, va := 0x100400, fill := some 7 }] }
def oneLine (dirty : Bool) : L2Line :=
  { line := 0, data := if dirty then List.replicate 128 9 else [0, 0, 0, 0, 0, 7] ++ List.replicate 122 0, dirty := dirty, tag := 1,
    wrote := none, order := 0, locked := none }

theorem witness_FillsLeasesAndEvictionsKeepTheBytes :
    (let s := filling
     let f := oneFill
     let d := 1024
     s.fills.find? (fun h => h.core == f.core && h.line == f.line) = some f ∧
       (∀ q ∈ s.reqs, q.unperformed = false ∧ (q.pending = true → q.fill = some f.id)) ∧ d = s.forward f.ctx f.va (f.line * 128) ∧
       f.toL1 = true ∧ f.drop = false ∧ s.poisoned (d / 128 * 128) 128 = false ∧
       (∃ r ∈ s.reqs, r.fill = some f.id ∧ r.got = none) ∧ Sound s) ∧
      (∀ dirty ∈ [false, true],
        let k := oneLine dirty
        let s := { mapped with l2 := [k] }
        s.l2.find? (fun l => l.line == k.line) = some k ∧ k.locked = none ∧ s.hbm.wf = true ∧ k.data.length = 128 ∧
          (∀ l ∈ s.l2, l.line = k.line → l = k) ∧
          (k.dirty = false → ∀ j < 128, s.hbm.get (k.line * 128 + j) = k.data.getD j 0)) := by
  decide +kernel

/-- The fields of `AtHome` as one condition, which an evaluation decides. -/
abbrev HomeCond (s : State) (bl : Block) (x : Iss) : Prop :=
  x.w.kind ≠ .handler ∧ x.ex ≠ [] ∧ s.block? x.w.ctx x.w.cluster bl.bid = some bl ∧ (∀ i ∈ x.ex, (x.w.lane i).bid = bl.bid) ∧
    x.c.home x.l bl.bid = x.w.core ∧ bl.bars.length = 16 ∧ bl.rings.length = 8 ∧ s.packets = [] ∧ x.w.holds = []

theorem atHome {s : State} {bl : Block} {g : Guard} {i : Instr} {uses : List RegUse} {Q : Iss → Prop}
    (h : Stands s g i uses fun x => HomeCond s bl x ∧ Q x) : Stands s g i uses fun x => AtHome s x bl ∧ Q x := by
  obtain ⟨hw, x, hx, ⟨plain, some_, block, own, home, bars, rings, quiet, none_⟩, hq⟩ := h
  exact ⟨hw, x, hx, ⟨plain, some_, block, own, home, bars, rings, quiet, none_⟩, hq⟩

/-- The block of `mapped`; the state in which the odd threads have arrived in barrier 15 of count 32, and at the cluster
barrier. -/
def block0 : Block := newBlock launch0 (wordCluster State.reset) 0
def oddThere : List (Nat × Nat × Word) := (List.range 16).map fun i => (0, 2 * i + 1, 0)
def blockHalf : Block := { block0 with bars := block0.bars.set 15 { ph := 0, cnt := 16, ec := .all, pend := oddThere } }
def halfway : State :=
  { mapped with blocks := [blockHalf], clusters := mapped.clusters.map fun c => { c with cbar := { ph := 0, cnt := 16, ec := .all, pend := oddThere } } }

/-- The same with a second warp whose lanes wait at the two barriers. -/
def beside : Warp :=
  Warp.formed mapped 0 1 0 0 0 0 .sorter ([WaitOn.bar 15, .cbar].map fun k =>
    { Lane.start 256 0x10010 [] 60 0 1 0 0 with status := .waiting k }) none
def crowded : State := { halfway with warps := halfway.warps ++ [beside] }

theorem witness_ThreadsOfOtherWarpsWaitAtBarriers :
    crowded.warp? beside.core beside.slot = some beside ∧ beside.ofCluster 0 0 = true ∧ beside.lanes.length = 32 ∧
      (beside.lane 0).status = .waiting (.bar 15) ∧ (beside.lane 1).status = .waiting .cbar ∧
      (∀ i < 2, (blockHalf.bar 15).pending 0 (beside.lane i).tid = true ∧ (beside.lane i).bid = 0) ∧
      (∀ c ∈ crowded.clusters, c.cbar.pending 0 1 = true) ∧ beside ∈ crowded.warps := by
  decide +kernel

/-- Arrivals short of the count of 32 and arrivals that meet it; by all, and by the even lanes with the odd ones there. -/
theorem witness_BarrierPhasesCountTheirArrivals :
    let fits := fun (s : State) (bl : Block) (o : ROps) (x : Iss) =>
      let b := (o.mod.extractLsb' 2 4).toNat
      let c := x.read x.lead o.a 1
      c ≤ bl.threads ∧ ((bl.bar b).ec = .unset ∨ (bl.bar b).ec = expectOf c) ∧
        (∀ i ∈ x.ex, (bl.bar b).pending bl.bid (x.w.lane i).tid = false) ∧
        (∀ i ∈ x.ex, x.fenceOk (if o.mod.getLsbD 6 then 2 else 0) i = true) ∧ s.packets = []
    let cfits := fun (s : State) (o : ROps) (x : Iss) =>
      x.w.kind ≠ .handler ∧ x.ex ≠ [] ∧ s.packets = [] ∧ x.w.holds = [] ∧ x.w.core = coreAt x.c.die x.c.oy x.c.ox ∧
        (∀ i ∈ x.ex, x.c.cbar.pending (x.w.lane i).bid (x.w.lane i).tid = false) ∧
        ∀ i ∈ x.ex, x.fenceOk (if o.mod.getLsbD 6 then 2 else 1) i = true
    let o := fun (a : Sel) (m : BitVec 16) => (⟨.z, a, .z, .reg .z, .s32, m⟩ : ROps)
    (Stands mapped evens (.barArrive evens (o .z 0)) [(.z, 1)] fun x => AtHome mapped x block0 ∧ fits mapped block0 (o .z 0) x ∧
        x.ex.length < block0.threads) ∧
      (Stands crowded evens (.barArrive evens (o .z 0x7C)) [(.z, 1)] fun x => AtHome crowded x blockHalf ∧
        fits crowded blockHalf (o .z 0x7C) x ∧ (blockHalf.bar 15).cnt + x.ex.length = blockHalf.threads) ∧
      (Stands mapped all (.barSync all (o (.v 2) 2)) [(.v 2, 1)] fun x => AtHome mapped x block0 ∧ fits mapped block0 (o (.v 2) 2) x) ∧
      (Stands halfway all (.barWait all (o .z 0x3D)) [] fun x => AtHome halfway x blockHalf ∧ x.ex ≠ []) ∧
      (Stands mapped evens (.cbarArrive evens (o .z 0)) [] fun x => cfits mapped (o .z 0) x) ∧
      (Stands crowded evens (.cbarSync evens (o .z 0x42)) [] fun x => cfits crowded (o .z 0x42) x ∧
        x.c.cbar.cnt + x.ex.length = crowded.clusterLive x.w.ctx x.w.cluster) ∧
      Stands halfway all (.cbarWait all (o .z 1)) [] fun x => x.w.kind ≠ .handler ∧ x.ex ≠ [] ∧ halfway.packets = [] ∧
        x.w.holds = [] ∧ x.w.core = coreAt x.c.die x.c.oy x.c.ox := by
  with_reducible and_intros
  all_goals first | exact atHome (stands (by decide +kernel)) | exact stands (by decide +kernel)

/-- The slot (15 + 1) mod 16 of ring 7, posted with a release of scope 2; its wait for an inverted phase. -/
theorem witness_StageRingsInvertAndAwaitTheirSlotBit :
    (let o : ROps := ⟨.z, .k 33, .z, .reg .z, .s32, 0x21E⟩
     Stands mapped evens (.sringPost evens o) [(o.a, 1)] fun x => AtHome mapped x block0 ∧
       ∀ i ∈ x.ex, x.fenceOk (if o.mod.getLsbD 9 then 2 else 0) i = true) ∧
      (let o : ROps := ⟨.z, .v 1, .z, .reg (.v 2), .s32, 0x10F⟩
       Stands mapped all (.sringWait all o) ((o.a, 1) :: o.b.use 1) fun x => AtHome mapped x block0 ∧ x.ex ≠ []) := by
  constructor <;> exact atHome (stands (by decide +kernel))

theorem witness_HandlerThreadsTrapAtBlockInstructions :
    let o := fun (m : BitVec 16) => (⟨.z, .v 2, .z, .reg .z, .s32, m⟩ : ROps)
    let z := fun (m : BitVec 16) => (⟨.z, .z, .z, .reg .z, .s32, m⟩ : ROps)
    let no := fun (i : Guard → Instr) uses => Stands full noneEx (i noneEx) uses fun x => x.ex = []
    let handler := fun (i : Guard → Instr) uses => Stands (asHandler full) all (i all) uses fun x => x.ex ≠ [] ∧ x.w.kind = .handler
    (no (.barArrive · (o 0)) [(.v 2, 1)] ∧ handler (.barArrive · (o 0)) [(.v 2, 1)]) ∧
      (no (.barWait · (z 1)) [] ∧ handler (.barWait · (z 1)) []) ∧
      (no (.barSync · (o 2)) [(.v 2, 1)] ∧ handler (.barSync · (o 2)) [(.v 2, 1)]) ∧
      (no (.cbarArrive · (z 0)) [] ∧ handler (.cbarArrive · (z 0)) []) ∧ (no (.cbarWait · (z 1)) [] ∧ handler (.cbarWait · (z 1)) []) ∧
      (no (.cbarSync · (z 2)) [] ∧ handler (.cbarSync · (z 2)) []) ∧
      (no (.sringPost · (o 0)) [(.v 2, 1)] ∧ handler (.sringPost · (o 0)) [(.v 2, 1)]) ∧
      no (.sringWait · { o 1 with b := .reg (.v 3) }) [(.v 2, 1), (.v 3, 1)] ∧
      handler (.sringWait · { o 1 with b := .reg (.v 3) }) [(.v 2, 1), (.v 3, 1)] := by
  with_reducible and_intros <;> exact stands (by decide +kernel)

/-- A launch with one handler warp to a core, at 0x20004. -/
def handling : State := mapped.modLaunch 0 fun l => { l with rec_ := l.rec_.set 0x31 1, htab := l.htab.map fun _ => 0x20004 }

theorem witness_MessagesCarryTheLanesPayload :
    let o : ROps := ⟨.z, .v 248, .z, .reg .z, .s32, 0x23F⟩
    let n := (o.mod.extractLsb' 6 4).toNat
    Stands handling all (.msend all o) ((o.a, n) :: o.b.use 1) fun x =>
      (∀ q, o.a = .v q → n = 0 ∨ q.toNat + n ≤ x.l.nreg) ∧ x.w.kind ≠ .handler ∧ x.ex ≠ [] ∧ x.w.holds = [] ∧ x.w.hold = [] ∧
        (∀ i ∈ x.ex, handling.acquiring (x.w.lane i).uid = false) ∧ (∀ i ∈ x.ex, x.msgFault o i = false) ∧ (∀ d, x.c.taken (x.c.ordinal x.l x.w.core) d + x.ex.length ≤ 32) ∧
        x.fenced (if o.mod.getLsbD 10 then 2 else 1) = true := by
  refine Stands.mono (stands (P := fun x => x.l.nreg = 256 ∧ x.w.kind ≠ .handler ∧ x.ex ≠ [] ∧ x.w.holds = [] ∧ x.w.hold = [] ∧
    (∀ i ∈ x.ex, handling.acquiring (x.w.lane i).uid = false) ∧
    (∀ i ∈ x.ex, x.msgFault ⟨.z, .v 248, .z, .reg .z, .s32, 0x23F⟩ i = false) ∧ (x.c.allow = [] ∧ x.ex.length ≤ 32) ∧
    x.fenced 1 = true) (by decide +kernel)) ?_
  rintro x ⟨h1, h2, h3, h4, h5, h6, h, ⟨h7, h8⟩, h9⟩
  refine ⟨fun q hq => ?_, h2, h3, h4, h5, h6, h, fun d => ?_, h9⟩
  · cases hq; rw [h1]; decide
  · simp [Cluster.taken, h7, h8]

/-- Packets of core 0: an engine entry, a ring post, arrivals at a named barrier and at the cluster barrier, ended threads, requests
to wait. -/
def oneEntry (opk : Nat) (o : XOps) : G5Entry :=
  { id := 3, core := 0, ctx := 0, cluster := 0, bid := 0, wcore := 0, slot := 0, form := 0, pc := 0x10004, opk := opk, ops := o, a := 0,
    r := 128, vals := [], nbv := 3, uids := [1], st := .queued, prog := 0, flags := 0, w := 0 }
def onePacket (c : Carried) : Packet := { id := 9, core := 0, dst := 0, slot := 0, ctx := 0, cluster := 0, pc := 0x10004, mask := 1, what := c }
def carried : List Carried :=
  [.group5 (oneEntry 7 ⟨15, 0, .z, .z, 0, .s32, 0, 0, 0⟩), .ringPost 0 7 15, .arrive 0 15 0 [(0, 0)], .carrive [(0, 0, 0)],
   .exits 0 [1], .cexits 1, .waitRing 0 7 15 false [1], .waitRing 0 7 15 true [1], .waitBar 0 15 [(0, 1)], .waitCbar [(0, 0, 1)]]

/-- In `mapped` the bit of slot 15 of ring 7 is 0 and no thread has arrived; in `halfway` thread 1 is pending at both barriers. -/
theorem witness_PacketsTakeEffectWhereTheyArrive :
    ((block0.rings.getD 7 0).getLsbD 15 = false ∧ (block0.bar 15).pending 0 1 = false ∧ (blockHalf.bar 15).pending 0 1 = true ∧
      (∀ s ∈ [mapped, halfway], (s.block? 0 0 0).isSome = true ∧ ∀ c ∈ s.clusters, c.cbar.pending 0 1 = (s.blocks == [blockHalf])) ∧
      mapped.blocks = [block0] ∧ halfway.blocks = [blockHalf]) ∧
    ∀ c ∈ carried,
      let p := onePacket c
      let s := { mapped with packets := [p] }
      s.packets.find? (fun q => q.id == p.id) = some p ∧ (∀ q ∈ s.packets, q.id < p.id → q.core = p.core → q.dst ≠ p.dst) ∧
        s.block? p.ctx p.cluster 0 = some block0 ∧ 7 < block0.rings.length ∧ 15 < block0.bars.length ∧
        block0.barBad 15 0 [(0, 0)] = none ∧ (block0.bar 15).cnt + 1 < block0.threads - block0.exited.length ∧
        (match s.cluster? p.ctx p.cluster with
         | some c => decide ((∀ u ∈ [(0, 0, 0)], c.cbar.pending u.2.1 u.2.2 = false) ∧ c.cbar.cnt + 1 < s.clusterLive p.ctx p.cluster)
         | none => false) = true := by
  unfold carried
  decide +kernel

/-- A message on its way to core 0, and one that pends there. -/
def oneMsg (arrived : Bool) : Msg :=
  { id := 4, ctx := 0, cluster := 0, src := 0, dst := 0, h := 63, payload := List.replicate 12 5, msrc := 0, dev := false, pc := 0x10004,
    lane := 0, slot := 0, core := 0, arrived := arrived }

theorem witness_MessagesArriveInOrderAndFormHandlerWarps :
    (let m := oneMsg false
     let s := { handling with msgs := [m] }
     s.msgs.find? (fun q => q.id == m.id && !q.arrived) = some m ∧
       ∀ q ∈ s.msgs, q.id < m.id → q.arrived = false → q.ctx = m.ctx → q.cluster = m.cluster → q.src = m.src → q.dst ≠ m.dst) ∧
      (let m := oneMsg true
       let s : State := { handling with msgs := [m] }
       let c := s.clusters.headD (wordCluster State.reset)
       let l := s.launches.headD wordLaunch
       HandlerReady s 0 c l m [] ∧ (∀ c' l' m' rest', HandlerReady s 0 c' l' m' rest' → c' = c) ∧ s.freeSlot 0 = some 1) := by
  refine ⟨by decide +kernel, by constructor <;> decide +kernel, fun c' l' m' rest' h => List.mem_singleton.mp h.placed, by decide +kernel⟩

/-- Core 0 waits for the fetch line at 0x100000, and for the constant line there. -/
def awaited (fetch : Bool) : CWait :=
  { core := 0, slot := 0, ctx := 0, line := 0x4000, va := 0x100000, fetch := fetch, pc := 0x100004, dev := some 0, hc := 0, tag := 0, again := [] }

/-- The copy of core 0 has a bit of slot 0 wrong; its home is mapped, and the block window lies elsewhere. -/
def flipped (again : List VAddr) : State :=
  { full with
    banks := full.banks.map fun b => { b with bsbase := 0x1000000000 },
    icache := [{ core := 0, ctx := 0, line := 0x400, data := (wordLine 0x0000415FFFFFFC007FC00000).set 4 1, bad := [], again := again }],
    tlbs := [{ owner := 0, ctx := 0, va := 0x10000, size := 65536, pte := 0xB, geo := geo1 }] }

theorem witness_AwaitedLinesComeBackWholeOrAreRefetched :
    (∀ f ∈ [true, false],
      let c := awaited f
      let s := { mapped with cwaits := [c] }
      c.fetch = f ∧ c.dev = some 0 ∧
        s.cwaits.find? (fun e => e.core == c.core && e.ctx == c.ctx && e.line == c.line && (if f then e.fetch else !e.fetch)) = some c) ∧
      ∀ again ∈ [[], [(0x10004 : VAddr)]],
        let s := flipped again
        (match s.standing 0 0 with
         | none => false
         | some x =>
           let window := (s.bank x.w.ctx).bsbase.toNat % 2 ^ 57 / 2 ^ 19 * 2 ^ 19
           match s.iline 0 x.w.ctx (x.pc.toNat / 64), s.translate x.who (x.pc.toNat / 64 * 64) false with
           | some c, .ok m => c.again == again && x.checkLine c == .parity && m.tgt == .line 0 &&
             decide (¬(window ≤ x.pc.toNat ∧ x.pc.toNat < window + 0x80000)) && (x.pc ∈ again || again == []) &&
             !s.awaited 0 x.w.ctx (x.pc.toNat / 64) true
           | _, _ => false) = true := by
  constructor <;> decide +kernel

/-- The warp's lanes snooze until cycle 5, have stalled 2^20 cycles, and its paths are two. -/
def snoozing : State := withLanes { full with cycle := 5 } fun _ l => { l with status := .waiting (.snooze 5) }
def stalled : State := { full with cycle := 2 ^ 30, sys := { full.sys with wdog := 30 } }
def rejected : State := full.modWarp 0 0 fun w => { w with ages := [(0x10004, 64)] }

theorem witness_TimersEndSnoozesHoldsAndTurns :
    (snoozing.warp? 0 0 = some (warp0 snoozing) ∧ (warp0 snoozing).lanes.length = 32 ∧
        ((warp0 snoozing).lane 31).status = .waiting (.snooze 5) ∧ 5 ≤ snoozing.cycle) ∧
      (let s := rejected
       let w := warp0 s
       (∀ r ∈ s.reserved, r.1 ≠ 0) ∧ w ∈ s.warps ∧ w.core = 0 ∧ (∃ a ∈ w.ages, a.2 = 64) ∧
         ∀ v ∈ s.warps, v.core = 0 → v ≠ w → (∃ a ∈ v.ages, a.2 = 64) → w.form < v.form) ∧
      (let s := twoPaths
       let w := warp0 s
       s.warp? w.core w.slot = some w ∧ s.launch? w.ctx ≠ none ∧ (s.launches.headD wordLaunch).promise = true ∧ w.cur = some 0x10004 ∧
         w.brk = false ∧ w.turnStart + max 64 (s.sys.fairt.toNat % 65536) ≤ s.cycle ∧ (∀ v ∈ s.sys.fairWas, v.1 < w.turnStart) ∧
         (∀ q ∈ w.paths, q ≠ 0x10004 → w.waited s.cycle q < s.cycle) ∧ 1 < w.paths.length ∧ w.paths.Nodup) ∧
      (∀ full? ∈ [true, false],
        let s := if full? then stalled else tabled stalled
        let w := warp0 s
        s.warp? w.core w.slot = some w ∧ w.stallMask = 0 ∧ w.brk = false ∧ (s.launches.all fun l => l.run != .halted) = true ∧
          ((List.range 32).filter fun j => (w.lane j).stalled s.cycle s.sys) = 0 :: (List.range 32).tail ∧
          s.ringFull = full? ∧ s.pendingRecs = []) := by
  have waits : ∀ q ∈ (warp0 twoPaths).paths, q ≠ 0x10004 → (warp0 twoPaths).waited twoPaths.cycle q < twoPaths.cycle := by
    have h : (warp0 twoPaths).paths = [0x10004, 0x20004] := by decide +kernel
    have h' : (warp0 twoPaths).waited twoPaths.cycle 0x20004 < twoPaths.cycle := by decide +kernel
    rw [h]
    intro q hq hn
    simp only [List.mem_cons, List.not_mem_nil, or_false] at hq
    obtain rfl | rfl := hq
    · exact absurd rfl hn
    · exact h'
  with_reducible and_intros <;> first | exact waits | decide +kernel

/-- A record that waits; a lane parked at 0x100000, and the answers' registers. -/
def oneRec : FaultRec :=
  { gen := 1, ctx := 0, gt := 0, aux := 0, lane := 0, addr := 0x100000, count := 1, warp := 0, core := 0, code := 0, typ := 1, kind := 0 }
def parked : State :=
  { withLanes mapped (fun i l => if i == 31 then { l with status := .parked 1 [0x100000] } else l) with
    sys := { mapped.sys with frans0 := 0x100000 } }

/-- A pinned page of core 0, and one that waits for its page. -/
def onePin : Pin := { core := 0, ctx := 0, cluster := 0, va := 0x100000, size := 65536, count := 2, pte := some 0xB, geo := geo1 }
def waitingPin (va : Nat) : Pin := { onePin with va := va, pte := none }

/-- Pages at 0x100000 mapped, at 0x110000 not, at 0x120000 read-only, at 0x130000 the host's; in each but the last an entry of the log,
and pins at the first, the second and the last, the fifth page having a malformed PTE. The answer covers 2 MiB. -/
def logged : State :=
  let s := paged [0xB, 0, 0x3, 0xF, 0x1]
  { s with mends := [0x100000, 0x110000, 0x120000].map fun va => { oneMend with va := va },
           pins := [0x100000, 0x110000, 0x130000, 0x140000].map waitingPin, sys := { s.sys with frans0 := 0x100000 + 31 } }

/-- How the replays of the entries and the pins of `logged` come out. -/
def outcomes : List Xlat × List (Walk × Option Xlat) :=
  (logged.mends.map fun m => match logged.engPlace (logged.engineWho m.core m.ctx m.cluster) ⟨m.ctx, m.cluster, m.bid, 0⟩ false m.va
      m.data.length true with
    | .ok m => .ok { m with tlb := none }
    | x => x,
   logged.pins.map fun p => (logged.walk p.ctx p.va, match logged.walk p.ctx p.va with
    | .leaf pte size => some (match logged.judge (logged.engineWho p.core p.ctx p.cluster) pte
        (logged.geoEntry p.ctx (pteWord pte).geo) size p.va false none with
      | .ok m => .ok { m with tlb := none }
      | x => x)
    | _ => none))

theorem witness_FaultRecordsReachTheRingAndAnswersAct :
    (let s := tabled { full with pendingRecs := [oneRec] }
     s.pendingRecs = [oneRec] ∧ ({ s with sys := { s.sys with frhead := 0 } } : State).ringFull = false) ∧
      (let s := tabled { full with pendingRecs := [oneRec, { oneRec with ctx := 1 }, { oneRec with ctx := 2 }] }
       4 ≤ s.ringN ∧ s.ringN ≤ 20 ∧ s.tsCovers s.ringBase (32 * 2 ^ s.ringN) = true ∧
         (s.sys.frtail - 0xFFFFFFF3).toNat + s.pendingRecs.length = 2 ^ s.ringN) ∧
      (let s := { full with pendingRecs := [oneRec] }
       s.pendingRecs = oneRec :: [] ∧ ({ s with sys := { s.sys with frhead := 0 } } : State).ringFull = true) ∧
      (full.pendingRecs = [] ∧ ({ full with stopped := true } : State).stopped = true) ∧
      (full.named (0x4001 : DWord).toNat = none ∧ full.stopped = false ∧
        parked.named (0x40 : DWord).toNat = some launch0 ∧ parked.stopped = false ∧ parked.vectorStopped launch0.ctx = false ∧
        parked.mends = [] ∧ parked.pins = [] ∧ ∀ c ∈ parked.cwaits, c.again = []) ∧
      (logged.stopped = false ∧ logged.named (0x40 : DWord).toNat = some launch0 ∧ logged.vectorStopped launch0.ctx = false ∧
        (∀ c ∈ logged.cwaits, c.again = []) ∧ logged.reqs = [] ∧
        (∀ m ∈ logged.mends, m.ctx = 0 ∧ (ansRange logged.sys.frans0).1 ≤ m.va ∧ m.va < (ansRange logged.sys.frans0).2) ∧
        (∀ p ∈ logged.pins, p.ctx = 0 ∧ p.pte = none ∧ (ansRange logged.sys.frans0).1 ≤ p.va ∧ p.va < (ansRange logged.sys.frans0).2)) ∧
      (let ok : Xlat := .ok { tgt := .line 0, hc := 0, tag := 0, sealed := false, tlb := none }
       outcomes = ([ok, .fault 0, .violation],
         [(.leaf 0xB 65536, some ok), (.invalid, none), (.leaf 0xF 65536, some (.fault 1)), (.malformed, none)])) ∧
      (let s' := fun (s : State) => { s with sys := { s.sys with frans1 := ((0x40 : DWord) &&& 0xFFFF) ||| 0x10000 } }
       let hit := fun (s : State) => ((s' s).waiters 0).filter fun a =>
         decide ((ansRange s.sys.frans0).1 ≤ a.va) && decide (a.va < (ansRange s.sys.frans0).2)
       hit parked ≠ [] ∧ full.named (0x40 : DWord).toNat = some wordLaunch ∧ full.vectorStopped wordLaunch.ctx = false ∧ hit full = []) := by
  with_reducible and_intros <;> decide +kernel

/-- The launch of `full` as a record of a queue in table space, which asks for an interrupt. -/
def recorded : Launch := { wordLaunch with rec_ := wordLaunch.rec_.set 0x32 (wordLaunch.rec_.getD 0x32 0 ||| 16), statusAt := some 0x10144 }

theorem witness_HaltingTrapRecordsAndHaltsItsContext :
    let r : FaultRec := { oneRec with kind := 3, code := 0xFF }
    (∀ l ∈ [wordLaunch, recorded], ∀ s ∈ [full, tabled full], let s := { s with launches := [l] }
      s.launch? r.ctx = some l ∧ l.run = .live ∧ s.preempt = none ∧ r.code < 256 ∧ s.pendingRecs = []) ∧
      (recorded.irq = true ∧ recorded.statusAt = some 0x10144 ∧ (tabled full).tsCovers 0x10144 4 = true) ∧
      full.ringFull = true ∧ (tabled full).ringFull = false := by
  with_reducible and_intros <;> decide +kernel

/-- A path issues in a state, and its view passes a test. -/
theorem issuing {s : State} {P : Iss → Prop} [DecidablePred P]
    (h : (match s.iss all with
      | some x => decide (P x)
      | none => false) = true) : ∃ x, s.iss all = some x ∧ P x := by
  split at h
  · next x hx => exact ⟨x, hx, of_decide_eq_true h⟩
  · cases h

/-- A thread of 8 registers (`v7` is its last, `v8` lies outside) in a launch of 4 tiles and 2 bindings; version 2. -/
def small : State := full.modLaunch 0 fun l => { l with rec_ := (((l.rec_.set 0x1F 1).set 0x26 4).set 0x27 2) }
def oldNumerics : State := { full with sys := { full.sys with nbv := 2 } }

theorem witness_IllegalAndPrivilegedInstructionsTrap :
    (let o := ops 7 1 8 .s32
     let c : COps := ⟨0x48, .v 8, 0, 0⟩
     let i : IOps := ⟨.v 8, .v 0, .z, 0, .n64, 0⟩
     let p : POps := ⟨1, 2, 0, 0, .v 8, .reg (.v 1), .s32⟩
     let m : MOps := ⟨.v 1, .v 8, .z, 0, 0, 0, .dt8, 0, 0⟩
     let e : XOps := ⟨4, 2, .v 8, .v 9, 1, .dt8, 0, 0, 0⟩
     ∃ x, small.iss all = some x ∧
       (∀ f ∈ [(Instr.add all o, o.regUses o.spans), (.cvt all o, o.regUses ⟨1, 1, 1, 1⟩), (.msend all o, (o.a, 0) :: o.b.use 1),
         (.cp all o, [(o.d, 2), (o.a, 2), (o.c, 1)] ++ o.b.use 1), (.call all c, [(c.a, 2)]),
         (.movi all i, [(i.d, 2), (i.a, 2)]), (.icmp all p, (p.a, 1) :: p.b.use 1), (.ld all m, (m.d, 1) :: addrUses m),
         (.mma all e, g5Uses 0 e), (.pfill all e, g5Uses 0 e)], f ∈ formatR all o ++ otherFormats all c i p m e ∧ ∃ u ∈ f.2, u.1.inAlloc x.l.nreg = false) ∧
       validPc (x.pc + c.disp.signExtend 57) = false ∧ x.l.nacc ≤ e.acc.toNat ∧ x.l.nprs ≤ e.prs.toNat) ∧
      (let s := oldNumerics
       (∃ x, s.iss all = some x ∧ x.w.slot = 0) ∧ s.nbv ≠ 3) ∧
      (let o : ROps := ⟨.v 2, .v 4, .z, .reg (.v 2), .n64, 0⟩
       ∃ x, user.iss all = some x ∧ (∀ uses ∈ [[(o.d, o.ty.regs)], [(o.a, o.ty.regs)], [], [(o.a, 2)] ++ o.b.use 1],
         ∀ u ∈ uses, u.1.inAlloc x.l.nreg = true) ∧ x.l.super = false) := by
  refine ⟨issuing (by decide +kernel), ⟨issuing (by decide +kernel), by decide +kernel⟩, issuing (by decide +kernel)⟩

/-- Thread 31 has been given a later time than its core has now. -/
def ahead : State := withLanes mapped fun i l => if i == 31 then { l with seenGt := 5 } else l

theorem witness_SystemInstructionsReadWriteAndHalt :
    (Stands full all (.gtime all ⟨.v 254, .z, .z, .reg .z, .n64, 0⟩) [(.v 254, 2)] fun x =>
        ∀ i ∈ x.ex, (x.w.lane i).seenGt ≤ full.gtOf x.w.core) ∧
      (Stands ahead all (.gtime all ⟨.v 254, .z, .z, .reg .z, .n64, 0⟩) [(.v 254, 2)] fun x =>
        ¬∀ i ∈ x.ex, (x.w.lane i).seenGt ≤ ahead.gtOf x.w.core) ∧
      (Stands full all (.sysrd all ⟨.v 255, .z, .z, .reg .z, .n32, 1⟩) [(.v 255, 1)] fun x => x.l.super = true) ∧
      (Stands full all (.sysrd all ⟨.v 2, .z, .z, .reg .z, .n64, 0x400⟩) [(.v 2, 2)] fun x => x.l.super = true) ∧
      (Stands full noneEx (.syswr noneEx ⟨.z, .v 2, .z, .reg .z, .n32, 1⟩) [(.v 2, 1)] fun x => x.l.super = true ∧ x.ex = []) ∧
      (Stands mapped evens (.syswr evens ⟨.z, .v 254, .z, .reg .z, .n64, 0x400⟩) [(.v 254, 2)] fun x =>
        x.l.super = true ∧ x.ex ≠ [] ∧ x.fenced 2 = true) ∧
      (Stands full noneEx (.hlt noneEx ⟨.z, .z, .z, .reg .z, .s32, 1⟩) [] fun x => x.l.super = true ∧ x.ex = []) ∧
      Stands full all (.hlt all ⟨.z, .z, .z, .reg .z, .s32, 0xFF⟩) [] fun x =>
        x.l.super = true ∧ x.ex ≠ [] ∧ x.l.run = .live ∧ full.preempt = none := by
  with_reducible and_intros <;> exact stands (by decide +kernel)

/-- The page of 0x100000 in the L2 TLB of group 0 alone. -/
def grouped : State := { mapped with tlbs := mapped.tlbs.map fun e => { e with owner := 192 } }

theorem witness_TranslationsAreCachedAndInvalidated :
    (let l := mapped.launches.headD wordLaunch
     let c := mapped.clusters.headD (wordCluster State.reset)
     let who : Who := { core := 0, ctx := 0, super := l.super, cl := some (c, l) }
     grouped.clusterOn 0 0 = some (c, l) ∧ (∃ m e, grouped.pageTranslate who 0x10FFFF false = .ok m ∧ m.tlb = some e) ∧
       ∀ m, grouped.pageTranslate who 0x110000 false ≠ .ok m) ∧
      (let o := fun (m : BitVec 16) => (⟨.z, .z, .z, .reg .z, .s32, m⟩ : ROps)
       let quiet := fun (s : State) => s.reqs = [] ∧ s.fills = [] ∧ s.cwaits = []
       let meets := fun (x : Iss) => x.l.super = true ∧ x.ex ≠ [] ∧ quiet mapped ∧ x.w.hold = [] ∧
         ∀ e ∈ mapped.tlbs, e.va < 2 ^ 57 ∧ 0 < e.size
       let r : ROps := ⟨.z, .v 20, .z, .reg (.v 2), .s32, 1⟩
       Stands mapped all (.tlbinvCtx all (o 0)) [] meets ∧ Stands addressed evens (.tlbinvRange evens r) ([(r.a, 2)] ++ r.b.use 1) meets ∧
         Stands mapped all (.tlbinvAll all (o 2)) [] meets ∧
         (Stands mapped all (.cinv all (o 3)) [] fun x => x.l.super = true ∧ x.ex ≠ []) ∧
         (Stands mapped noneEx (.tlbinvAll noneEx (o 2)) [] fun x => x.l.super = true ∧ x.ex = []) ∧
         Stands mapped noneEx (.cinv noneEx (o 1)) [] fun x => x.l.super = true ∧ x.ex = []) := by
  refine ⟨⟨by decide +kernel, ?_, ?_⟩, ?_, ?_, ?_, ?_, ?_, ?_⟩
  · exact ⟨_, _, rfl, rfl⟩
  · intro m h
    have : (match grouped.pageTranslate { core := 0, ctx := 0, super := true, cl := some (mapped.clusters.headD (wordCluster State.reset),
      mapped.launches.headD wordLaunch) } 0x110000 false with
      | .ok _ => false
      | _ => true) = true := by decide +kernel
    have e : (mapped.launches.headD wordLaunch).super = true := by decide +kernel
    simp only [e] at h
    rw [h] at this
    cases this
  all_goals exact stands (by decide +kernel)

theorem witness_DriverWritesReachTheirRegister :
    sysInfo (0xFFF : BitVec 12).toNat = none ∧ (∃ i, sysInfo (0x6BF : BitVec 12).toNat = some i ∧ i.ro = true) ∧
      63 < full.banks.length ∧ full.sys.ports.length = 8 ∧ full.sys.queues.length = 64 ∧ full.pendingRecs = [] ∧
      (full.bank 63).heap.length = 4 ∧ (0x001, 3, 0) ∈ plainRegisters ∧ (4, 1, 0) ∈ queueFields ∧ (2, 15, 0) ∈ portFields ∧
      (4, 1, 0) ∈ heapFields := by
  refine ⟨by decide +kernel, ⟨_, rfl, by decide +kernel⟩, by decide +kernel⟩

/-- The conditions of `EngineReady` beyond those of the issue, as one that an evaluation decides. -/
abbrev EngineCond (s : State) (opk : Nat) (o : XOps) (x : Iss) : Prop :=
  o.acc.toNat < x.l.nacc ∧ (g5Bind opk = true → o.prs.toNat < x.l.nprs) ∧ (opk = 0 → o.opt ≠ 0 → s.nbv = 3) ∧
    (opk = 6 → o.tya = .dt8 → s.nbv = 3) ∧
    (opk = 4 → (match o.aop with
      | .v n => decide (n.toNat + (if o.mod.getLsbD 1 then 2 else 4) ≤ x.l.nreg)
      | _ => false) = true) ∧ NoneHeld x

/-- A well-formed instruction of group 5 issues, and its issue meets a condition. -/
def ReadyFor (s : State) (g : Guard) (i : Instr) (opk : Nat) (o : XOps) (Q : Iss → Prop) : Prop :=
  i.wf = true ∧ ∃ x, EngineReady s g x opk o ∧ Q x

theorem engineReady {s : State} {g : Guard} {i : Instr} {opk : Nat} {o : XOps} {Q : Iss → Prop}
    (h : Stands s g i (g5Uses opk o) fun x => EngineCond s opk o x ∧ Q x) : ReadyFor s g i opk o Q := by
  obtain ⟨hw, x, hx, ⟨h1, h2, h3, h4, h5, h6⟩, hq⟩ := h
  refine ⟨hw, x, ⟨hx, h1, h2, h3, h4, fun e => ?_, h6⟩, hq⟩
  have := h5 e
  split at this
  · next n hn => exact ⟨n, hn, of_decide_eq_true this⟩
  · cases this

/-- An instruction of group 5 that a whole warp executes and whose operands pass, or fail, its checks. -/
abbrev Queued (i : Guard → Instr) (opk : Nat) (o : XOps) (cls : OpClass) : Prop :=
  ReadyFor mapped all (i all) opk o fun x => x.w.kind ≠ .handler ∧ x.ex = List.range 32 ∧
    (∀ j < 32, (x.w.lane j).bid = (x.w.lane 0).bid) ∧ (∀ j < 32, mapped.acquiring (x.w.lane j).uid = false) ∧
    x.g5Bad o opk (if o.asrc = 1 then x.read 0 o.aop 2 % 2 ^ 57 else x.read 0 o.aop 1 % 2 ^ 32) (x.read 0 o.skp 1 % 2 ^ 32) = none ∧
    (mapped.entries.filter fun e => e.core == x.c.home x.l (x.w.lane 0).bid).length < 32 ∧ (cls ≠ .none → x.w.count cls ≠ 127)

theorem witness_EngineInstructionsQueueTheirEntry :
    (let o : XOps := ⟨15, 0, .v 4, .z, 0, .s8, 32, 0, 0⟩
     Queued (.mma · o) 0 o .mx ∧
       ReadyFor mapped noneEx (.mma noneEx o) 0 o (fun x => x.ex = []) ∧
       ReadyFor mapped evens (.mma evens o) 0 o fun x => x.ex ≠ [] ∧ x.ex ≠ List.range 32) ∧
      (let o : XOps := ⟨0, 15, .v 2, .z, 1, .f32, 1, 0, 0⟩
       ReadyFor mapped all (.mma all o) 0 o fun x => x.ex = List.range 32 ∧
         x.g5Bad o 0 (x.read 0 o.aop 1 % 2 ^ 32) (x.read 0 o.skp 1 % 2 ^ 32) = some 3) ∧
      (let o : XOps := ⟨5, 0, .v 3, .z, 0, .s32, 0, 0, 0⟩
       Queued (.tfill · o) 1 o .mx) ∧
      Queued (.tfillId · ⟨5, 0, .z, .z, 6, .s32, 0, 0, 1⟩) 1 ⟨5, 0, .z, .z, 6, .s32, 0, 0, 1⟩ .mx ∧
      (let o : XOps := ⟨1, 0, .v 4, .v 4, 0, .s32, 0, 0, 0⟩
       Queued (.tld · o) 2 o .mx ∧ Queued (.tst · o) 3 o .st) ∧
      (let o : XOps := ⟨1, 0, .v 252, .v 3, 0, .s32, 0, 0, 0xFC⟩
       Queued (.tmovGet · o) 4 { o with mod := o.mod &&& 0xFFFFE } .none) ∧
      (let o : XOps := ⟨1, 0, .v 254, .v 3, 0, .s32, 0, 0, 0x1FF⟩
       Queued (.tmovPut · o) 4 { o with mod := o.mod ||| 1 } .none) ∧
      (let o : XOps := ⟨0, 0, .v 4, .v 5, 0, .s8, 32, 0, 0⟩
       Queued (.tmask · o) 5 o .mx) ∧
      (let o : XOps := ⟨0, 15, .v 4, .v 4, 0, .dt8, 0, 0, 0x3FC0⟩
       Queued (.pbind · o) 6 o .none) ∧
      (let o : XOps := ⟨15, 0, .z, .z, 0, .s32, 0, 0, 1⟩
       Queued (.tbind · o) 7 o .none) ∧
      (let o : XOps := ⟨0, 9, .v 4, .v 5, 0, .s32, 0, 1, 1⟩
       Queued (.pfill · o) 8 o .cp) := by
  with_reducible and_intros <;> exact engineReady (stands (by decide +kernel))

/-- The fields of `EngineHead`, as one condition. -/
abbrev HeadCond (s : State) (core : Nat) (e : G5Entry) (b : Block) (l : Launch) : Prop :=
  s.queue core = [e] ∧ e.st = .queued ∧ s.engineRuns e.ctx = true ∧ (g5Reads e.opk = true → s.writesOut e.uids = false) ∧
    s.block? e.ctx e.cluster e.bid = some b ∧ s.launch? e.ctx = some l ∧ (∀ f ∈ s.g5, f.id = e.id → f = e) ∧
    (g5Tile e.opk = true → e.ops.acc.toNat < b.tiles.length) ∧ (g5Bind e.opk = true → e.ops.prs.toNat < b.binds.length) ∧ s.badSram = []

theorem engineHead {s : State} {core : Nat} {e : G5Entry} {b : Block} {l : Launch} (h : HeadCond s core e b l) :
    EngineHead s core e b l := by
  obtain ⟨h1, h2, h3, h4, h5, h6, h7, h8, h9, h10⟩ := h
  exact ⟨⟨_, h1⟩, h2, h3, h4, h5, h6, h7, h8, h9, h10⟩

/-- A block whose tile 15 holds s32 elements and whose binding 0 is 32 rows of s8 or 8 of f16, and `mapped`
with that block and one entry in the queue of core 0. -/
def blockB (ty : Ty) : Block :=
  { block0 with tiles := block0.tiles.set 15 { Tile.zero with s32 := ty == .s8 }, binds := block0.binds.set 0 (bindWord ty 32 0 64) }
def queuing (e : G5Entry) (ty : Ty := .s8) : State := { mapped with blocks := [blockB ty], g5 := [e] }

theorem witness_MemoryAndMultiplyEntriesPerformAtTheQueuesHead :
    (∀ opk ∈ [2, 3], let e := { oneEntry opk ⟨15, 0, .z, .z, 0, .s8, 0, 0, 0x1FF⟩ with a := 65536 - 64 * 128 }
      let b := blockB .s8
      EngineHead (queuing e) 0 e b launch0 ∧ e.opk = opk ∧ e.ops.asrc = 0 ∧
        e.a.toNat + 63 * e.r.toNat + 128 * (e.ops.tya.bits / 8) ≤ b.size ∧ e.ops.tya ≠ .b1 ∧ 128 * (e.ops.tya.bits / 8) ≤ e.r.toNat ∧
        b.sram.wf = true ∧ (b.tile 15).rows.length = 64 ∧ ∀ r ∈ (b.tile 15).rows, r.length = 128) ∧
      (let e := { oneEntry 5 ⟨0, 0, .z, .z, 3, .f16, 31, 0, 0⟩ with a := 2048, r := 0 }
       let b := blockB .s8
       EngineHead (queuing e) 0 e b launch0 ∧ e.opk = 5 ∧ e.ops.asrc = 0 ∧ e.ops.tya ∈ [Ty.s8, .n8, .f16, .bf16, .f32] ∧ b.sram.wf = true ∧
         e.a.toNat + e.ops.kst.toNat * panelBytes e.ops.tya ≤ b.size) ∧
      (∀ c ∈ [(0, true), (1, true), (2, false)], let e := oneEntry 0 ⟨15, 0, .z, .z, 0, .s8, c.1, 0, 1⟩
       let b := blockB .s8
       let d := b.bind e.ops.prs.toNat
       EngineHead (queuing e) 0 e b launch0 ∧ e.opk = 0 ∧ (c.2 = true ↔ (bindBound d = true ∧ (bindType d = .dt8 → e.nbv = 3) ∧
         comboOk e.ops.opt.toNat e.ops.tya (bindType d) (b.tile 15).s32 = true ∧
         ((e.ops.mod.extractLsb' 1 13).toNat + e.ops.kst.toNat) * kstepOf e.ops.tya ≤ bindK d))) ∧
      (let e := oneEntry 8 ⟨0, 0, .z, .z, 0, .s32, 0, 1, 0⟩
       let b := blockB .s8
       EngineHead (queuing e) 0 e b launch0 ∧ e.opk = 8 ∧ bindBound (b.bind e.ops.prs.toNat) = true ∧ e.ops.mod.getLsbD 0 = false ∧
         ((queuing e).copyOps.filter fun c => c.core == e.core).length < 32) ∧
      -- The last k-step of entry 0 from the end of block SRAM; k-steps of entries 4 and 1 under a skip map, of bits and of FP16.
      (∀ c ∈ [(0, Ty.s8, 1, Sel.z, 65536 - 2048), (4, .b1, 2, .v 3, 0), (1, .f16, 2, .v 3, 0)],
        let e := { oneEntry 0 ⟨15, 0, .z, c.2.2.2.1, c.1, c.2.1, c.2.2.1, 0, 0⟩ with a := c.2.2.2.2, r := 0x4000, st := .running }
        let s := queuing e c.2.1
        let b := blockB c.2.1
        s.queue 0 = [] ++ e :: [] ∧ e.opk = 0 ∧ e.st = .running ∧ s.block? e.ctx e.cluster e.bid = some b ∧
          s.launch? e.ctx = some launch0 ∧ (∀ f ∈ s.g5, f.id = e.id → f = e) ∧ s.badSram = [] ∧ e.ops.acc.toNat < b.tiles.length ∧
          e.ops.asrc = 0 ∧ s.engineRuns e.ctx = true ∧ s.stopped = false ∧ (b.tile 15).prog = 0 ∧ e.ops.tya ≠ .dt8 ∧
          e.a.toNat + 0 * panelBytes e.ops.tya + panelBytes e.ops.tya ≤ b.size ∧ (b.tile 15).rows.length = 64 ∧
          ∀ r ∈ (b.tile 15).rows, r.length = 128) ∧
      -- A cell and sixteen pairs of finite FP16 elements, 1 and -2; a NaN of either kind, an infinity beside a zero.
      (let ps := List.replicate 16 ((0x3C00 : Nat), (0xC000 : Nat), false)
       0x3F800000 < 2 ^ 32 ∧ Fmt.f32.val 0x3F800000 = .fin false 8388608 (-23) ∧ ps.length = 16 ∧ (ps.filter fun p => !p.2.2) ≠ [] ∧
         (∀ p ∈ ps, Fmt.f16.val p.1 = .fin false 1024 (-10) ∧ Fmt.f16.val p.2.1 = .fin true 1024 (-9)) ∧
         Fmt.f16.val 0x7D00 = .nan true ∧ Fmt.f16.val 0x7E00 = .nan false ∧ Fmt.f16.val 0x7C00 = .inf false ∧
         Fmt.f16.val 0 = .fin false 0 (-24) ∧ ([(0x3C00, 0xC000, true)].filter fun p : Nat × Nat × Bool => !p.2.2) = []) := by
  refine ⟨?_, ?_, ?_, ?_, by decide +kernel, by decide +kernel⟩
  · intro opk h
    simp only [List.mem_cons, List.not_mem_nil, or_false] at h
    obtain rfl | rfl := h
    · exact ⟨engineHead (by decide +kernel), by decide +kernel⟩
    · exact ⟨engineHead (by decide +kernel), by decide +kernel⟩
  · exact ⟨engineHead (by decide +kernel), by decide +kernel⟩
  · intro c h
    simp only [List.mem_cons, List.not_mem_nil, or_false] at h
    obtain rfl | rfl | rfl := h
    · exact ⟨engineHead (by decide +kernel), by decide +kernel⟩
    · exact ⟨engineHead (by decide +kernel), by decide +kernel⟩
    · exact ⟨engineHead (by decide +kernel), by decide +kernel⟩
  · exact ⟨engineHead (by decide +kernel), by decide +kernel⟩

theorem witness_TileEntriesPerformAndWriteTstat :
    (let e := oneEntry 7 ⟨15, 0, .z, .z, 0, .s32, 0, 0, 1⟩
     EngineHead (queuing e) 0 e (blockB .s8) launch0 ∧ e.opk = 7) ∧
      (let e := { oneEntry 1 ⟨15, 0, .z, .z, 0, .s32, 0, 0, 0⟩ with a := 0xFFFFFFFF }
       EngineHead (queuing e) 0 e (blockB .s8) launch0 ∧ e.opk = 1 ∧ e.ops.mod.getLsbD 0 = false) ∧
      (let e := oneEntry 1 ⟨15, 0, .z, .z, 6, .s32, 0, 0, 1⟩
       EngineHead (queuing e) 0 e (blockB .s8) launch0 ∧ e.opk = 1 ∧ e.ops.mod.getLsbD 0 = true ∧
         identity e.ops.opt.toNat ((blockB .s8).tile 15).s32 = none) ∧
      (let e := { oneEntry 4 ⟨15, 0, .v 252, .z, 0, .s32, 0, 0, 0xFC⟩ with r := 1 }
       EngineHead (queuing e) 0 e (blockB .s8) launch0 ∧ e.opk = 4 ∧ e.ops.mod.getLsbD 0 = false) ∧
      (let e := { oneEntry 4 ⟨15, 0, .v 254, .z, 0, .s32, 0, 0, 0x1FF⟩ with r := 0, vals := List.replicate 64 1 }
       EngineHead (queuing e) 0 e (blockB .s8) launch0 ∧ e.opk = 4 ∧ e.ops.mod.getLsbD 0 = true ∧
         ((blockB .s8).tile 15).rows.length = 64 ∧ ∀ r ∈ ((blockB .s8).tile 15).rows, r.length = 128) ∧
      (let e := { oneEntry 6 ⟨0, 15, .z, .z, 0, .dt8, 0, 0, 0x2000⟩ with r := 8192 }
       EngineHead (queuing e) 0 e (blockB .s8) launch0 ∧ e.opk = 6 ∧
         pbindOk e.ops.tya (launch0.nprs * 1024) e.a.toNat e.r.toNat (e.ops.mod.extractLsb' 0 14).toNat = true) ∧
      (let e := { oneEntry 6 ⟨0, 15, .z, .z, 0, .dt8, 0, 0, 0x2000⟩ with r := 8224 }
       EngineHead (queuing e) 0 e (blockB .s8) launch0 ∧ e.opk = 6 ∧
         pbindOk e.ops.tya (launch0.nprs * 1024) e.a.toNat e.r.toNat (e.ops.mod.extractLsb' 0 14).toNat = false) ∧
      (let e := { oneEntry 4 ⟨15, 0, .v 252, .z, 0, .s32, 0, 0, 0⟩ with st := .finished 0 0, vals := List.replicate 128 1 }
       let s := queuing e
       let w := warp0 s
       s.queue 0 = e :: [] ∧ e.st = .finished 0 0 ∧ e.opk < 8 ∧ s.block? e.ctx e.cluster e.bid = some (blockB .s8) ∧ e.opk = 4 ∧
         e.ops.mod.getLsbD 0 = false ∧ e.ops.aop = .v 252 ∧ s.warp? e.wcore e.slot = some w ∧ w.form = e.form ∧ w.lanes.length = 32 ∧
         (w.lane 0).status = .runnable ∧ ∀ q ∈ w.ops, q.id ≠ e.id ∧ q.cpstat = none ∧ q.trapAddr = none ∧ q.uids = []) := by
  (with_reducible and_intros) <;> first | exact engineHead (by decide +kernel) | decide +kernel

/-- An operation of core 0's engine. -/
def oneCopy (opk : Nat) (o0 o1 : DWord) (o2 : Word) (q : List Word) (mod : BitVec 16) (st : EngState) (probed : Bool := true) : CopyOp :=
  { id := 6, core := 0, ctx := 0, cluster := 0, bid := 0, slot := 0, form := 0, pc := 0x10004, mask := 1, opk := opk, o0 := o0, o1 := o1,
    o2 := o2, q := q, mod := mod, ty := .s32, uids := [1], st := st, prog := 0, part := 0, aux0 := 3, aux1 := 0, slices := [], probed := probed, w := 0, mapA := [], mapB := [], buf := [],
    super := false, meas := 0 }
def copying (c : CopyOp) : State := { mapped with copyOps := [c], hbm := [] }

theorem witness_CopyInstructionsStartTheirOperation :
    let moves := fun (i : Guard → Instr) uses => Stands mapped noneEx (i noneEx) uses fun x => x.ex = []
    let starts := fun (i : Guard → Instr) uses => Stands mapped evens (i evens) uses fun x => x.ex ≠ [] ∧
      (∀ j ∈ x.ex, mapped.acquiring (x.w.lane j).uid = false) ∧ x.w.count .cp ≠ 127 ∧ (mapped.copyQueue x.w.core).length < 32
    let both := fun (i : Guard → Instr) uses => moves i uses ∧ starts i uses
    let o := fun (d a c b : Sel) (m : BitVec 16) => (⟨d, a, c, .reg b, .s32, m⟩ : ROps)
    let uses := fun (o : ROps) n => [(o.d, 2), (o.a, 2), (o.c, n)] ++ o.b.use 1
    (let p := o (.v 2) (.v 4) .z (.v 255) 0x8014
     both (.cp · p) (uses p 1)) ∧
      (let p := o (.v 2) (.v 4) (.v 252) (.v 6) 1
       both (.cp2d · p) (uses p 4)) ∧
      (let p := o (.v 2) (.v 4) (.v 6) (.v 8) 0x8FFF
       both (.gath · p) (uses p 2)) ∧
      (let p := o (.v 2) (.v 4) (.v 6) (.v 8) 0
       both (.scat · p) (uses p 2)) ∧
      (let p := o .z (.v 2) .z (.v 4) 1
       both (.probe · p) (uses p 1)) ∧
      (let p := o .z (.v 2) .z (.v 4) 0
       both (.unpin · p) (uses p 1)) ∧
      (let p := o (.v 2) (.v 4) .z (.v 6) 0
       both (.cpseal · p) (uses p 1)) ∧
      (let p := o .z (.v 2) (.v 5) (.v 4) 0
       both (.rstrp · p) ([(p.a, 2), (p.c, 1)] ++ p.b.use 1)) ∧
      let p := o .z .z .z .z 0xFF
      both (.discard · p) [] := by
  with_reducible and_intros <;> exact stands (by decide +kernel)

/-- The fields of `Engaged`, as one condition. -/
abbrev EngagedCond (s : State) (c : CopyOp) (b : Block) : Prop :=
  c ∈ s.copyOps ∧ (∀ d ∈ s.copyOps, d.id = c.id → d = c) ∧ s.engineRuns c.ctx = true ∧ s.block? c.ctx c.cluster c.bid = some b ∧
    b.size ≤ 0x80000 ∧ b.sram.wf = true ∧ s.badSram = [] ∧ c.slices = [] ∧ c.orphan = false

theorem engaged {s : State} {c : CopyOp} {b : Block} (h : EngagedCond s c b) : Engaged s c b := by
  obtain ⟨mem, unique, runs, block, size, form, sound, pinless, own⟩ := h
  constructor <;> assumption

theorem witness_CopyEnginesMoveBytesAndWriteCpstat :
    (∀ k ∈ [(0, 0, 0x0002), (4096, 0, 0x0002), (4096, 2 ^ 20 + 1, 0x0003)],
      let c := oneCopy 0 0 0 (BitVec.ofNat 32 k.1) [BitVec.ofNat 32 k.2.1] (BitVec.ofNat 16 k.2.2) .queued
      let s := copying c
      Engaged s c block0 ∧ c.st = .queued ∧ s.copyQueue c.core = c :: [] ∧ s.writesOut c.uids = false ∧ c.opk = 0) ∧
      (let c := oneCopy 4 0 0x10FFFF 1 [] 0 .queued
       let s := { copying c with pins := [onePin] }
       Engaged s c block0 ∧ c.st = .queued ∧ s.copyQueue c.core = c :: [] ∧ s.writesOut c.uids = false ∧ c.opk = 4 ∧
         ∀ p ∈ s.pins, 0 < p.count) ∧
      (let c := oneCopy 0 0xFC00 0x5000 1024 [] 0b00010 .running
       let s := copying c
       Engaged s c block0 ∧ c.st = .running ∧ c.probed = true ∧ c.opk = 0 ∧ c.mod.extractLsb' 0 5 = 0b00010 ∧
         c.prog * 4096 < c.o2.toNat ∧ c.o0.toNat = fieldAt (s.bank c.ctx).bsbase 56 19 + 0xFC00 ∧ 0xFC00 + c.o2.toNat ≤ block0.size ∧
         ∃ p ∈ s.outside.apertures, p.1 ≤ c.o1.toNat ∧ c.o1.toNat + c.o2.toNat ≤ p.2) ∧
      (let c := oneCopy 0 0x5000 0x100000 64 [] 0b01000 .running
       let s := { copying c with tlbs := mapped.tlbs.map fun e => { e with pte := 0x1B } }
       Engaged s c block0 ∧ c.st = .running ∧ c.probed = true ∧ c.opk = 0 ∧ c.mod.extractLsb' 0 5 = 0b01000 ∧
         c.prog * 4096 < c.o2.toNat ∧ s.launch? c.ctx = some launch0 ∧ s.preempt = none ∧
         (∃ p ∈ s.outside.apertures, p.1 ≤ c.o0.toNat ∧ c.o0.toNat + c.o2.toNat ≤ p.2) ∧
         (c.mapSide s false [((0x100000 : Nat), 64)]).faults = [] ∧ (c.mapSide s false [((0x100000 : Nat), 64)]).bad = none ∧
         ∃ p ∈ (c.mapSide s false [((0x100000 : Nat), 64)]).ok, p.m.sealed = true) ∧
      (let c := oneCopy 1 0xE000 0x8000 33 [0x4000, 0] 127 .running false
       let s := copying c
       Engaged s c block0 ∧ c.st = .running ∧ c.probed = false ∧ c.opk = 1 ∧ c.q.length = 2 ∧ c.listAt = 0 + 0x4000 ∧ c.flat = 0 + 0xE000 ∧
         c.table = 0 + 0x8000 ∧ 0x4000 % 4 = 0 ∧ 0x4000 + 4 * 33 ≤ block0.size ∧ 0xE000 + 33 * 128 ≤ block0.size ∧
         fieldAt (s.bank c.ctx).bsbase 56 19 = 0 ∧
         ∀ i < 33, 0 ≤ (0x8000 : Int) + (BitVec.ofNat 32 (bytesToNat (block0.sram.getN (0x4000 + 4 * i) 4))).toInt * 128 ∧
           (0x8000 : Int) + (BitVec.ofNat 32 (bytesToNat (block0.sram.getN (0x4000 + 4 * i) 4))).toInt * 128 + 128 ≤ block0.size) ∧
      (∀ opk ∈ [1, 2],
        let c := if opk = 1 then oneCopy 1 0xE000 0x8000 33 ([0x4000, 0] ++ List.replicate 33 0xFFFFFFFF) 127 .running
          else oneCopy 2 0x8000 0xE000 33 ([0x4000, 0] ++ List.replicate 33 0xFFFFFFFF) 127 .running
        let s := copying c
        Engaged s c block0 ∧ c.st = .running ∧ c.probed = true ∧ c.opk = opk ∧ 32 * c.prog < 33 ∧ c.flat = 0 + 0xE000 ∧ c.table = 0 + 0x8000 ∧
          (c.mod.extractLsb' 12 3).toNat = 0 ∧ 0xE000 + 33 * 128 ≤ block0.size ∧
          ∀ i < 33, 0 ≤ (0x8000 : Int) + c.index i * 128 ∧ (0x8000 : Int) + c.index i * 128 + 128 ≤ block0.size ∧
            ((0x8000 : Int) + c.index i * 128 + 128 ≤ 0xE000)) ∧
      (let c := oneCopy 8 0x5000 0 0 [1, 2] 0 .running
       let s := copying c
       Engaged s c block0 ∧ c.st = .running ∧ c.probed = true ∧ c.opk = 8 ∧ c.o2.toNat ≤ c.prog * 4096 ∧ s.outside.host.wf = true) ∧
      (∀ k ∈ [(0x8000#16, 0x40), (0x8000#16, 0), (0#16, 255)],
        let c := oneCopy 0 0 0 16 [] k.1 (.finished k.2 9)
        let q : OutOp := { id := 6, cls := .cp, left := 1, cpstat := none, w := 0, uids := [], trapAddr := none, pc := 0x10004, mask := 1 }
        let s := (copying c).modWarp 0 0 fun w => { w with ops := [q] }
        let w := warp0 s
        c ∈ s.copyOps ∧ (∀ d ∈ s.copyOps, d.id = c.id → d = c) ∧ c.opk < 16 ∧ c.opk ≠ 5 ∧ k.2 < 256 ∧ s.warp? c.core c.slot = some w ∧
          w.ops = [q] ∧ q.id = c.id ∧ q.cls = .cp ∧ (w.lane 0).status = .runnable ∧ s.launch? w.ctx = some launch0 ∧
          launch0.run = .live ∧ s.preempt = none) := by
  (with_reducible and_intros) <;> try first | exact engaged (by decide +kernel) | decide +kernel
  all_goals
    intro k h
    simp only [List.mem_cons, List.not_mem_nil, or_false] at h
  · obtain rfl | rfl | rfl := h <;> exact ⟨engaged (by decide +kernel), by decide +kernel⟩
  · obtain rfl | rfl := h <;> exact ⟨engaged (by decide +kernel), by decide +kernel⟩

/-- Its links up, and behind ports 3 and 7 a window of 1 MiB at the end of the 57-bit space. -/
def linked (c : CopyOp) : State :=
  { copying c with outside := { mapped.outside with peerWindows := [3, 7].map fun p => (p, 2 ^ 57 - 2 ^ 20, 2 ^ 57) } }
theorem onLines {s : State} {c : CopyOp} {ps : List Piece}
    (h : (ps.all fun p => match s.pieceTarget c.ctx p with
      | .line d => decide (d % 128 + p.n ≤ 128)
      | _ => false) = true) : OnLines s c ps := by
  intro p hp
  have := List.all_eq_true.mp h p hp
  split at this
  · next d e => exact ⟨d, e, of_decide_eq_true this⟩
  · cases this

/-- What a chunk to or from device memory wants of the side there. -/
abbrev Clear (s : State) (c : CopyOp) (write : Bool) (a n : Nat) : Prop :=
  let m := c.mapSide s write [((a : Int), n)]
  m.faults = [] ∧ m.bad = none ∧ OnLines s c m.ok ∧ (write = true ∨ ∀ p ∈ m.ok, p.m.sealed = false)

theorem witness_CopyEnginesReachHostPeersAndOtherLines :
    (let c := oneCopy 0 0xFC00 (3 * 2 ^ 60 + (2 ^ 57 - 1024)) 1024 [] 0b00100 .running
     let s := linked c
     EngagedCond s c block0 ∧ c.o1.toNat / 2 ^ 60 % 8 = 3 ∧ c.o1.toNat < 2 ^ 63 ∧ c.o1.toNat / 2 ^ 57 % 8 = 0 ∧
       s.outside.linkUp.getLsbD 3 = true ∧ c.prog * 4096 < c.o2.toNat ∧ c.o0.toNat = fieldAt (s.bank c.ctx).bsbase 56 19 + 0xFC00 ∧
       0xFC00 + c.o2.toNat ≤ block0.size ∧
       ∃ p ∈ s.outside.peerWindows, p.1 = 3 ∧ p.2.1 ≤ c.o1.toNat % 2 ^ 57 ∧ c.o1.toNat % 2 ^ 57 + c.o2.toNat ≤ p.2.2 ∧ p.2.2 ≤ 2 ^ 57) ∧
      (let c := oneCopy 0 0x5000 0x10003F 4100 [] 0b01000 .running
       let s := linked c
       EngagedCond s c block0 ∧ s.poison = [] ∧ Clear s c false 0x10003F 4096 ∧ s.outside.host.wf = true ∧
         ∃ p ∈ s.outside.apertures, p.1 ≤ c.o0.toNat ∧ c.o0.toNat + c.o2.toNat ≤ p.2) ∧
      (let c := oneCopy 0 (7 * 2 ^ 60 + (2 ^ 57 - 4100)) 0x10003F 4100 [] 0b10000 .running
       let s := linked { c with prog := 1 }
       EngagedCond s { c with prog := 1 } block0 ∧ s.poison = [] ∧ Clear s { c with prog := 1 } false 0x10103F 4 ∧ s.outside.peer.wf = true ∧
         c.o0.toNat / 2 ^ 60 % 8 = 7 ∧ c.o0.toNat < 2 ^ 63 ∧ c.o0.toNat / 2 ^ 57 % 8 = 0 ∧ s.outside.linkUp.getLsbD 7 = true ∧
         ∃ p ∈ s.outside.peerWindows, p.1 = 7 ∧ p.2.1 ≤ c.o0.toNat % 2 ^ 57 ∧ c.o0.toNat % 2 ^ 57 + c.o2.toNat ≤ p.2.2 ∧ p.2.2 ≤ 2 ^ 57) ∧
      (let c := oneCopy 0 0x102001 0x100000 300 [] 0 .running
       let s := linked c
       EngagedCond s c block0 ∧ s.poison = [] ∧ Clear s c false 0x100000 300 ∧ Clear s c true 0x102001 300 ∧
         (homesOf s c (c.mapSide s true [((0x102001 : Int), 300)]).ok).Nodup ∧ Sound s) ∧
      ∀ r ∈ scatterOps,
        let c := oneCopy 2 0x8000 0xE000 33 ([0x4000, 0] ++ List.replicate 33 0xFFFFFFFF) (BitVec.ofNat 16 (r.1 * 4096 + 127)) .running
        let s := copying c
        EngagedCond s c block0 ∧ ((c.mod.extractLsb' 12 3).toNat, r.2) ∈ scatterOps ∧ c.ty.bits = 32 ∧
          ((c.mod.extractLsb' 0 12).toNat + 1) % 4 = 0 ∧ c.flat = 0 + 0xE000 ∧ c.table = 0 + 0x8000 ∧ 0xE000 + 33 * 128 ≤ block0.size ∧
          ∀ i < 33, 0 ≤ (0x8000 : Int) + c.index i * 128 ∧ (0x8000 : Int) + c.index i * 128 + 128 ≤ 0xE000 := by
  with_reducible and_intros <;> first | exact onLines (by decide +kernel) | decide +kernel


/-- A line of tag 66 written at time 5, and one of another tag. -/
def tagged (line tag : Nat) (wrote : Option Nat) : L2Line :=
  { line := line, data := List.replicate 128 9, dirty := true, tag := tag, wrote := wrote, order := 0, locked := none }
/-- A page on the move from the first frame of channel 0 to the next, `n` lines of it moved. -/
def oneMove (n : Nat) (shot : Bool) : Moving :=
  { op := 6, ctx := 0, va := 0x100000, size := 65536, pteAt := 2 ^ 31 + 0x202080, old := 0xB, oldGeo := geo1, new_ := 0x1000B, newGeo := geo1,
    moved := n, shot := shot }
/-- The pool descriptor at 0x400 of block SRAM: return list at 0x800, 16 entries. -/
def poolBytes : List Byte :=
  natToBytes 8 0x600 ++ natToBytes 4 16 ++ natToBytes 4 0 ++ natToBytes 4 1 ++ natToBytes 4 0 ++ natToBytes 8 0x800 ++ natToBytes 4 16 ++
    natToBytes 4 0 ++ natToBytes 4 0 ++ List.replicate 20 0
def pooled (c : CopyOp) : State :=
  { copying c with blocks := [{ block0 with sram := Memory.setN [] 0x400 poolBytes }], moving := [oneMove 512 true], rsv := [(0x400, 1)] }

/-- One page is to move into frames of the pool at 0x400 of block SRAM, which geometry entry 0 names. -/
def movesOne : CopyOp := oneCopy 6 0 0x100000 1 [0] 0 .queued false
def reserving : State :=
  let s := paged [0xB]
  { s with copyOps := [movesOne], hbm := tableWord s.hbm 0x203008 0x400, blocks := [{ block0 with sram := Memory.setN [] 0x400 poolBytes }] }
/-- The sides of the pool that the operation reaches: the descriptor, the list, the return list, HEAD. -/
def reservingSides : List RangeMap :=
  [movesOne.mapSide reserving true [((0x400 : Nat), 64)], movesOne.mapSide reserving false [((0x600 : Nat), 8 * 16)],
   movesOne.mapSide reserving true [((0x800 : Nat), 16 * 16)], movesOne.mapSide reserving true [((0x414 : Nat), 4)]]

theorem reserving_keeps_the_state : ∀ m ∈ reservingSides, m.s = reserving ∧ m.faults = [] ∧ m.bad = none := by
  intro m h
  simp only [reservingSides, List.mem_cons, List.not_mem_nil, or_false] at h
  obtain rfl | rfl | rfl | rfl := h <;> exact ⟨rfl, by decide +kernel, by decide +kernel⟩

/-- The fields that a successful reservation reads. -/
theorem witness_PlacementOperationsReserve :
    let s := reserving
    let c := movesOne
    let pool := (geometry (s.geoEntry c.ctx 0)).pool
    let d := poolOf (s.engRead c.ctx (c.mapSide s true [((pool : Nat), 64)]).ok)
    c ∈ s.copyOps ∧ (∀ d ∈ s.copyOps, d.id = c.id → d = c) ∧ c.opk = 6 ∧ c.probed = false ∧ c.st = .queued ∧
      s.engineRuns c.ctx = true ∧ Sound s ∧ 0 < c.o2.toNat ∧ s.rangeSize c = some 65536 ∧ (c.q.getD 0 0).toNat = 0 ∧
      (geometry (s.geoEntry c.ctx 0)).valid = true ∧ pool = 0x400 ∧ (d.list, d.cap, d.rlist, d.rcap) = (0x600, 16, 0x800, 16) ∧
      (match (c.mapSide s true [((0x414 : Nat), 4)]).ok with
       | [pc] => (match s.pieceTarget c.ctx pc with
         | .sram x k i _ => (match s.block? x k i with
           | some b => b.sram.wf
           | none => false)
         | _ => false)
       | _ => false) = true ∧ d.valid = true ∧ d.frame = 65536 ∧ s.rangeBusy c 65536 = false ∧
      c.o2.toNat ≤ (d.tail - d.head).toNat ∧
      (d.rtail - d.rhead).toNat + (s.rsvOf (s.poolKey c pool) + s.returnedOf (s.poolKey c pool)) + c.o2.toNat ≤ d.rcap := by
  decide +kernel

theorem witness_PlacementOperationsDiscardAndMoveLines :
    (let c := { oneCopy 7 0 0 0 [] 66 .running with slices := [0, 5], aux0 := 5 }
     let s := { copying c with l2 := [tagged 0 66 (some 5), tagged 1 66 (some 6), tagged 2 1 none] }
     c ∈ s.copyOps ∧ (∀ d ∈ s.copyOps, d.id = c.id → d = c) ∧ c.opk = 7 ∧ c.st = .running ∧ 0 ∈ c.slices) ∧
      (∀ k ∈ [(0, 0, 0x02), (1, 63, 0x02), (1, 64, 0x03), (1, 1, 0x03)],
        let c := oneCopy 6 0 (if k.2.2 = 0x03 then 0x100000 else 0x130000) (BitVec.ofNat 32 k.1) [BitVec.ofNat 32 k.2.1] 0 .queued false
        let s := { paged [0xB] with copyOps := [c] }
        c ∈ s.copyOps ∧ (∀ d ∈ s.copyOps, d.id = c.id → d = c) ∧ c.opk = 6 ∧ c.probed = false ∧ c.st = .queued ∧
          s.engineRuns c.ctx = true ∧ (k.1 = 0 → c.o2 = 0) ∧ (k.1 ≠ 0 → c.o2 ≠ 0) ∧
          (k.2.2 = 0x02 → s.rangeSize c = none) ∧
          (k.2.2 = 0x03 → s.rangeSize c ≠ none ∧ (64 ≤ (c.q.getD 0 0).toNat ∨
            (geometry (s.geoEntry c.ctx (c.q.getD 0 0).toNat)).valid = false ∨
            (geometry (s.geoEntry c.ctx (c.q.getD 0 0).toNat)).pool = 0))) ∧
      (let c := oneCopy 6 0 0x100000 1 [0] 0 .running
       let m := oneMove 511 false
       let s := { copying c with moving := [m], l2 := [tagged 511 66 none] }
       c ∈ s.copyOps ∧ (∀ d ∈ s.copyOps, d.id = c.id → d = c) ∧ c.opk = 6 ∧ c.probed = true ∧ c.st = .running ∧
         s.engineRuns c.ctx = true ∧ s.moving.find? (fun n => n.op == c.id) = some m ∧ m.moved * 128 < m.size ∧
         m.place false (m.moved * 128) = some 0xFF80 ∧ m.place true (m.moved * 128) = some 0x1FF80 ∧ 0xFF80 % 128 = 0 ∧ 0x1FF80 % 128 = 0 ∧
         Sound s) ∧
      (let m := oneMove 512 false
       let s := { paged [0xB] with moving := [m] }
       m ∈ s.moving ∧ (∀ n ∈ s.moving, n.op = m.op → n = m) ∧ m.shot = false ∧ m.size ≤ m.moved * 128 ∧ s.engineRuns m.ctx = true ∧
         m.pteAt % 128 + 8 ≤ 128 ∧ Sound s) ∧
      (let c := { oneCopy 6 0 0x100000 1 [0] 0 .running with slices := [0, 0x400] }
       let m := oneMove 512 true
       let s := pooled c
       (c ∈ s.copyOps ∧ (∀ d ∈ s.copyOps, d.id = c.id → d = c) ∧ c.st = .running ∧ s.engineRuns c.ctx = true ∧ m ∈ s.moving ∧
         (∀ n ∈ s.moving, n.op = c.id → n = m) ∧ m.op = c.id ∧ m.shot = true) ∧
         s.oldAccess m = false ∧ ({ s with reqs := [{ ask .load with tgt := .line 0, va := 0x100000 }] } : State).oldAccess m = true ∧
         c.readAt s 0x400 64 = (s, some poolBytes) ∧
         (let w := c.mapSide s true [(((poolOf poolBytes).rlist : Nat), 16)]
          w.s = s ∧ w.faults = [] ∧ w.bad = none) ∧
         let v := c.mapSide s true [((0x424 : Nat), 4)]
         v.s = s ∧ v.faults = [] ∧ v.bad = none) := by
  (with_reducible and_intros) <;> decide +kernel

/-- `mapped` as a reorder-enabled launch whose domain holds the threads given; the same with 64 registers a thread. -/
def domainOf (bs : List Basketed) (marks : List (Nat × Nat × Nat)) : Domain :=
  { quota := 128, units := 1, spill := 64, reserve := [], nextArr := 7, threads := bs, marks := marks, progress := 0 }
def sorting (bs : List Basketed) (marks : List (Nat × Nat × Nat) := []) : State :=
  let s := mapped.modLaunch 0 fun l => { l with rec_ := l.rec_.set 0x32 0x0C }
  { s with clusters := s.clusters.map fun c => { c with domain := some (domainOf bs marks) } }
/-- A thread in the sorter with key 4095 and two payload registers. -/
def oneThread (arr : Nat) (place : RecPlace) : Basketed :=
  { lane := { Lane.start 256 0x10010 [0, 0, 1, 2] (100 + arr) 0 (arr % 1024) 0 0 with key := 4095 }, stage := 0, n := 2, q := 2,
    arr := BitVec.ofNat 32 arr, place := place, readBack := false, came := 0, left := 0, settle := 0 }
def launchS : Launch := { launch0 with rec_ := launch0.rec_.set 0x32 0x0C }
def clusterS (bs : List Basketed) (marks : List (Nat × Nat × Nat)) : Cluster :=
  { wordCluster State.reset with domain := some (domainOf bs marks) }

theorem witness_SorterInstructionsOfferRunsAskAndMark :
    let s := sorting [oneThread 0 .sram]
    let d := domainOf [oneThread 0 .sram] []
    let o := fun (dst a c : Sel) (m : BitVec 16) => (⟨dst, a, c, .reg .z, .s32, m⟩ : ROps)
    let free := fun (s : State) (x : Iss) => NoneHeld x ∧ ∀ i ∈ x.ex, s.acquiring (x.w.lane i).uid = false
    let at_ := fun (x : Iss) => x.c.domain = some d ∧ free s x
    let go := fun (x : Iss) => x.ex ≠ [] ∧ x.l.reorder = true ∧ x.w.kind ≠ .handler
    let w := o .z (.v 1) (.v 244) 12
    (Stands s noneEx (.sortw noneEx w) [(w.a, 1), (w.c, 12)] fun x => at_ x ∧ x.ex = [] ∧ 244 + 12 ≤ x.l.nreg) ∧
      (Stands s evens (.sortw evens w) [(w.a, 1), (w.c, 12)] fun x => at_ x ∧ go x ∧ 244 + 12 ≤ x.l.nreg ∧
        (∀ i ∈ x.ex, x.sortStop i = none) ∧ x.w.count .ld = 0 ∧ x.w.count .cp = 0 ∧ x.w.count .mx = 0 ∧
        (∀ i ∈ x.ex, s.cbarInFlight x.w.ctx x.w.cluster (x.w.lane i).bid (x.w.lane i).tid = false) ∧ x.fenced 1 = true) ∧
      (let t := s.modWarp 0 0 fun v => { v with cb := v.cb.set 15 (0x10, 0) }
       Stands t evens (.sortw evens (o .z (.v 1) .z 0)) [(.v 1, 1), (.z, 0)] fun x => at_ x ∧ go x ∧ x.ex = [0, 2] ++ 4 :: x.ex.drop 3 ∧
         (∀ j ∈ [0, 2], x.sortStop j = none) ∧ x.sortStop 4 = some 0x0E) ∧
      (let t := { s with blocks := [blockHalf] }
       Stands t all (.sortw all (o .z (.v 1) .z 0)) [(.v 1, 1), (.z, 0)] fun x => at_ x ∧ go x ∧ x.ex = [0] ++ 1 :: x.ex.drop 2 ∧
         (∀ j ∈ [0], x.sortStop j = none) ∧ x.sortStop 1 = some 0x0D) ∧
      (Stands s all (.sortqKey all (o (.v 3) (.v 1) .z 0)) [(.v 3, 1), (.v 1, 1)] fun x => at_ x ∧ go x) ∧
      (Stands s all (.sortqAll all (o (.v 255) .z .z 1)) [(.v 255, 1)] fun x => at_ x ∧ go x) ∧
      (Stands s all (.sortd all (o .z .z .z 0)) [] fun x => at_ x ∧ go x) ∧
      (Stands s all (.sortdKey all (o .z (.v 1) .z 1)) [(.v 1, 1)] fun x => at_ x ∧ go x) ∧
      (Stands s evens (.sortc evens (o .z .z .z 0)) [] fun x => at_ x ∧ go x) ∧
      (Stands s all (.sortcJoin all (o .z .z .z 1)) [] fun x => at_ x ∧ go x) ∧
      (Stands (asHandler s) all (.sortc all (o .z .z .z 0)) [] fun x =>
        free (asHandler s) x ∧ x.ex ≠ [] ∧ x.w.kind = .handler ∧ x.l.reorder = true) ∧
      ∀ k ∈ [(Instr.sortw all w, [(w.a, 1), (w.c, 12)]), (.sortqKey all (o (.v 3) (.v 1) .z 0), [(.v 3, 1), (.v 1, 1)]),
          (.sortqAll all (o (.v 255) .z .z 1), [(.v 255, 1)]), (.sortd all (o .z .z .z 0), []), (.sortdKey all (o .z (.v 1) .z 1), [(.v 1, 1)]),
          (.sortc all (o .z .z .z 0), []), (.sortcJoin all (o .z .z .z 1), [])],
        Stands mapped all k.1 k.2 fun x => x.ex ≠ [] ∧ x.l.reorder = false ∧ x.w.kind ≠ .handler ∧ free mapped x := by
  with_reducible and_intros <;> try exact stands (by decide +kernel)
  intro k h
  simp only [List.mem_cons, List.not_mem_nil, or_false] at h
  rcases h with rfl | rfl | rfl | rfl | rfl | rfl | rfl <;> exact stands (by decide +kernel)

/-- The even lanes' run is offered; another path is held at a fence. -/
def offered : State :=
  withLanes ((sorting []).modWarp 0 0 fun w => { w with
    cur := none, hold := [(0x20004, .fence 1 0 0 true),
      (0x10004, .sorter 0 0xFFFFFFFF 0x55555555 12 244 ((List.range 16).map fun i => (2 * i, 4095)))] }) fun _ l =>
    { l with status := .waiting .sorter }

/-- Record 62 of spill unit 0 holds these bytes; what the read-back of a thread spilled there gives. -/
def holding (bs : List Byte) : State :=
  { tabled (sorting [oneThread 5 (.spill 0 62)]) with hbm := Memory.setN [] (2 ^ 31 + 64 * 62) bs }
def spilled (b : Basketed) (bs : List Byte) : List Byte := (holding bs).tsGet (launchS.spill + 4096 * 0 + 64 * 62) (64 * b.records)

theorem inTransit : InTransit (oneThread 5 (.spill 0 62)) launchS.nreg := by
  constructor <;> try decide +kernel
  refine ⟨by decide +kernel, fun j h => ?_⟩
  have v : (oneThread 5 (.spill 0 62)).lane.v = [0, 0, 1, 2] ++ List.replicate 252 0 := rfl
  obtain h | h : j < 2 ∨ 4 ≤ j := h
  · obtain rfl | rfl : j = 0 ∨ j = 1 := by omega
    all_goals decide +kernel
  · rw [v, List.getD_eq_getElem?_getD, List.getElem?_append_right (by simpa using h), List.getElem?_replicate]
    split <;> rfl

theorem witness_SorterKeepsOrdersAndEmitsItsThreads :
    (let s := offered
     let w := warp0 s
     let keys := (List.range 16).map fun i => (2 * i, 4095)
     s.warp? w.core w.slot = some w ∧ s.launch? w.ctx = some launchS ∧ s.cluster? w.ctx w.cluster = some (clusterS [] []) ∧
       s.engineRuns w.ctx = true ∧
       w.hold = [(0x20004, .fence 1 0 0 true)] ++ (0x10004, .sorter 0 0xFFFFFFFF 0x55555555 12 244 keys) :: [] ∧
       (Hold.fence 1 0 0 true).isSorter = false ∧
       (domainOf [] []).inSram + (keys.map fun k => recordCount (w.lane k.1) 12).sum ≤ (domainOf [] []).quota ∧
       (∀ k ∈ keys, (w.lane k.1).v.length = launchS.nreg) ∧ 244 + 12 ≤ launchS.nreg) ∧
      (let bs := (List.range 32).map fun i => oneThread i .sram
       let s := sorting bs
       let c := clusterS bs []
       let d := domainOf bs []
       s.launch? c.ctx = some launchS ∧ s.cluster? c.ctx c.idx = some c ∧ s.engineRuns c.ctx = true ∧ s.emitCore c launchS = some 0 ∧
         (s.quadFree 0 (s.bestQuad 0)).head? = some 16 ∧ d.mark? 0 4095 = none ∧ 32 ≤ (d.basket 0 4095).length ∧
         d.first ((d.basket 0 4095).take 32) = true ∧ ∀ b ∈ (d.basket 0 4095).take 32, b.place = .sram) ∧
      (let bs := [oneThread 5 .sram]
       let marks := [(0, 4095, 0)]
       let s := sorting bs marks
       let c := clusterS bs marks
       let d := domainOf bs marks
       s.launch? c.ctx = some launchS ∧ s.cluster? c.ctx c.idx = some c ∧ s.engineRuns c.ctx = true ∧ s.emitCore c launchS = some 0 ∧
         (s.quadFree 0 (s.bestQuad 0)).head? = some 16 ∧ (d.drainSeq 0).take 32 = bs ∧ d.first bs = true ∧ ∀ b ∈ bs, b.place = .sram) ∧
      (let b := oneThread 5 (.spill 0 62)
       ((holding b.bytes).launch? 0 = some launchS ∧ (holding b.bytes).cluster? 0 0 = some (clusterS [b] []) ∧ b.place = .spill 0 62 ∧
         (domainOf [b] []).threads.find? (fun e => e.arr.toNat == b.arr.toNat && e.place != .sram && !e.readBack) = some b) ∧
         spilled b b.bytes = b.bytes ∧ InTransit b launchS.nreg ∧
         (bytesToNat ((spilled b (List.replicate 128 255)).take 8) ≥ 2 ^ 57) ∧ launchS.run = .live ∧ (holding b.bytes).preempt = none) ∧
      (let b := oneThread 5 .sram
       let s := { sorting [b] with cycle := 2048 }
       s.cluster? 0 0 = some (clusterS [b] []) ∧ (domainOf [b] []).basket 0 4095 = b :: [] ∧ s.sys.bage.toNat % 65536 ≠ 0 ∧
         b.came + max 64 (s.sys.bage.toNat % 65536) ≤ s.cycle) ∧
      (let s := (sorting [oneThread 5 .sram]).modWarp 0 0 fun w => { w with
         hold := [(0x10004, .sortq 0xFFFFFFFF (.v 255) ((List.range 32).map fun i => (i, some i)))] }
       let ex := List.range 32
       ∃ x, s.standing 0 0 = some x ∧ (x.w.core = 0 ∧ x.w.slot = 0 ∧ s.cluster? x.w.ctx x.w.cluster = some (clusterS [oneThread 5 .sram] []) ∧
         ex = (List.range 32).filter (fun i => ex.contains i) ∧ (∀ i ∈ ex, i ∈ x.act) ∧
         x.w.holdAt x.pc = some (.sortq (maskOf x.act) (.v 255) (ex.map fun i => (i, some i))))) ∧
      (let d := { domainOf [] [] with quota := 4, reserve := [0] }
       let s := { offered with cycle := 2048, clusters := offered.clusters.map fun c => { c with domain := some d } }
       let w := warp0 s
       s.launch? 0 = some launchS ∧ s.cluster? 0 0 = some { clusterS [] [] with domain := some d } ∧ (d.emissions = [] ∨ s.emitCore (clusterS [] []) launchS = none) ∧
         s.engineRuns 0 = true ∧
         longestHeld (s.heldRuns 0 0) = some (w, 0x10004, 0, 0x55555555) ∧
         d.progress + (if s.sys.bage.toNat % 65536 = 0 then 2048 else max 64 (s.sys.bage.toNat % 65536)) ≤ s.cycle) := by
  (with_reducible and_intros) <;> first | exact inTransit | exact standsThere (by decide +kernel) | decide +kernel

/-- No launch; queue 63 of a table space holds one record. -/
def queued (bs : List Byte) : State :=
  let s := tabled State.reset
  { s with
    hbm := Memory.setN [] (2 ^ 31 + 0x10100) bs,
    sys := { s.sys with queues := s.sys.queues.set 63 { base := 0x10000, size := 1, wr := 0, rd := 0xFFFFFFFF, ctl := 1 } } }
/-- Lane 31 alone has predicate 2; queue 63 is device-appendable with room for one record, or full. -/
def appending (wr : Word) : State :=
  let s := tabled (withLanes mapped fun i l => { l with p := if i == 31 then 4 else 0, v := l.v.set 6 63 })
  { s with sys := { s.sys with queues := s.sys.queues.set 63 { base := 0x10000, size := 1, wr := wr, rd := 0, ctl := 3 } } }
def lane31 : Guard := ⟨0xF0, 2, 0, 0⟩
/-- A launch that waits to be placed. -/
def waiting0 : Launch := { wordLaunch with placed := [] }
def waitingS : State := { State.reset with launches := [waiting0] }

theorem witness_LaunchesAreAppendedAcceptedAndPlaced :
    (let o : ROps := ⟨.v 254, .v 4, .z, .reg (.v 6), .s32, 0⟩
     (Stands mapped noneEx (.launch noneEx o) ([(o.d, 1), (o.a, 2)] ++ o.b.use 1) fun x => x.w.hold = [] ∧ x.ex = []) ∧
       (∀ wr ∈ [1, 2], Stands (appending wr) lane31 (.launch lane31 o) ([(o.d, 1), (o.a, 2)] ++ o.b.use 1) fun x =>
         x.w.hold = [] ∧ x.ex = [31] ∧ x.fenceOk 2 31 = true ∧ x.w.kind ≠ .handler ∧
           (appending wr).block? x.w.ctx x.w.cluster (x.w.lane 31).bid = some block0 ∧ block0.size ≤ 0x80000 ∧
           x.read 31 o.a 2 = fieldAt ((appending wr).bank x.w.ctx).bsbase 56 19 + 0 ∧ 0 + 256 ≤ block0.size ∧ x.readB 31 o.b 1 = 63) ∧
       Stands mapped all (.launch all { o with a := .v 2 }) ([(o.d, 1), (.v 2, 2)] ++ o.b.use 1) fun x =>
         x.w.hold = [] ∧ x.ex.find? (fun i => decide (x.read i (.v 2) 2 % 256 ≠ 0)) = some 0) ∧
      (63 < full.sys.queues.length) ∧
      (∀ bs ∈ [List.replicate 256 0, wordRecord],
        (queued bs).freeEntry = some 0 ∧ (queued bs).service.recovery = false ∧ (queued bs).sys.queues.length = 64 ∧
          (queued bs).gens.length = 64) ∧
      (∃ h code, ((queued (List.replicate 256 0)).heads 0).find? Head.failed = some h ∧ h.out.2 = .inl code) ∧
      (((queued wordRecord).heads 0).find? Head.failed = none ∧
        ∃ h ht wt, bestHead ((queued wordRecord).heads 0) = some h ∧ h.out.2 = .inr (ht, wt)) ∧
      ({ State.reset with launches := (List.range 64).map fun c => { wordLaunch with ctx := c } } : State).freeEntry = none ∧
      (waitingS.launch? 0 = some waiting0 ∧ (∀ k ∈ waitingS.launches, k.before waiting0 = true → waitingS.plan k = none) ∧
        (match waitingS.plan waiting0 with
         | some (.place idx o) => decide (idx = 0 ∧ o = (0, 0, 0))
         | _ => false) = true ∧ 0 < waiting0.cw ∧ 0 < waiting0.bpc) := by
  (with_reducible and_intros) <;> try first | exact stands (by decide +kernel) | decide +kernel
  · intro wr h
    simp only [List.mem_cons, List.not_mem_nil, or_false] at h
    obtain rfl | rfl := h <;> exact stands (by decide +kernel)
  · have h : (match ((queued (List.replicate 256 0)).heads 0).find? Head.failed with
        | some h => h.out.2.isLeft
        | none => false) = true := by decide +kernel
    split at h
    · next x hx =>
      match e : x.out.2 with
      | .inl code => exact ⟨x, code, hx, e⟩
      | .inr _ => rw [e] at h; cases h
    · cases h
  · have h : (match bestHead ((queued wordRecord).heads 0) with
        | some h => h.out.2.isRight
        | none => false) = true := by decide +kernel
    split at h
    · next x hx =>
      match e : x.out.2 with
      | .inr (ht, wt) => exact ⟨x, ht, wt, hx, e⟩
      | .inl _ => rw [e] at h; cases h
    · cases h

/-- Two clusters in the grid, completion map at 0x100000; a cluster whose threads have gone, with its blocks released. -/
def launchC (cmap : Bool) : Launch :=
  { launch0 with rec_ := (launch0.rec_.set 0x18 2).set 0x4A (if cmap then 0x10 else 0), placed := [0, 1] }
def cluster0 : Cluster := wordCluster State.reset
def gone (cmap : Bool) (l : Launch := launchC cmap) : State := { mapped with launches := [l], blocks := [], warps := [] }
/-- The completion bit of cluster 0 is to be set, its threads' VIS being 0. -/
def retiredC : Cluster := { cluster0 with retired := true }

/-- The conditions of `AllPlaced`, as one. -/
abbrev PlacedCond (s : State) (ctx : Nat) : Prop :=
  let there := fun (k cl : Nat) => ∃ c ∈ s.clusters, c.ctx = k ∧ c.idx = cl
  (∀ v ∈ s.warps, v.ctx = ctx → there v.ctx v.cluster) ∧ (∀ b ∈ s.blocks, b.ctx = ctx → there b.ctx b.cluster) ∧
    (∀ e ∈ s.g5, e.ctx = ctx → there e.ctx e.cluster) ∧ (∀ m ∈ s.msgs, m.ctx = ctx → there m.ctx m.cluster) ∧
    (∀ p ∈ s.packets, p.ctx = ctx → there p.ctx p.cluster) ∧ (∀ m ∈ s.mends, m.ctx = ctx → there m.ctx m.cluster) ∧
    ∀ d ∈ s.copyOps, d.ctx = ctx → d.cluster < goneCluster → there d.ctx d.cluster

theorem allPlaced {s : State} {ctx : Nat} (h : PlacedCond s ctx) : AllPlaced s ctx := by
  obtain ⟨warps, blocks, entries, messages, packets, logged, copies⟩ := h
  constructor <;> assumption

/-- Context 0 with something of each kind under way: a write in flight, a log entry, an engine entry, a packet, a message, a pin, a copy. -/
def busy (run : RunState) : State :=
  { copying (oneCopy 0 0 0 0 [0] 2 .queued) with
    launches := [{ launchC false with run := run }], reqs := [ask .store], mends := [oneMend], pins := [onePin],
    g5 := [oneEntry 7 ⟨15, 0, .z, .z, 0, .s32, 0, 0, 1⟩], packets := [onePacket (.exits 0 [3])], msgs := [oneMsg false] }

/-- `WritesSeen`, evaluated. -/
def seen (s : State) (c : Cluster) : Bool :=
  decide (s.clusterVis c < s.gtOf (coreAt c.die c.oy c.ox) ∧ (∀ m ∈ s.mends, ¬(m.ctx = c.ctx ∧ m.cluster = c.idx)) ∧
    ∀ r ∈ s.reqs, r.ctx = c.ctx → r.cluster = c.idx → r.kind = .store ∨ r.kind = .atom ∨ r.kind = .red → r.backW = true)
theorem seen_iff {s : State} {c : Cluster} : seen s c = true ↔ WritesSeen s c := decide_eq_true_iff

theorem witness_KillOfABusyContext : ∀ run ∈ [RunState.live, .halted], AllPlaced (busy run) 0 := by
  intro run h
  simp only [List.mem_cons, List.not_mem_nil, or_false] at h
  obtain rfl | rfl := h <;> exact allPlaced (by decide +kernel)

theorem witness_RetirementKillAndResetReleaseWhatTheyName :
    (let b := { block0 with exited := List.range 32 }
     let l := { launch0 with placed := [0] }
     let s := { mapped with launches := [l], blocks := [b], warps := [], pins := [onePin] }
     s.block? 0 0 0 = some b ∧ s.retires b = true ∧ s.launch? 0 = some l ∧ l.gx * l.gy ≤ l.placed.length ∧ l.toRestore = [] ∧
       ({ s with launches := [launchC false], blocks := [b, { b with cluster := 1 }] } : State).retires b = true ∧
       mapped.block? 0 0 0 = some block0 ∧ block0.exited.length < block0.threads) ∧
      (∀ k ∈ [(true, launchC true), (false, launchC false), (false, { launch0 with placed := [0] })],
        let s := gone k.1 k.2
        s.cluster? 0 0 = some cluster0 ∧ s.launch? 0 = some k.2 ∧ cluster0.retired = false ∧ k.2.run = .live ∧
          (∀ b ∈ s.blocks, ¬(b.ctx = 0 ∧ b.cluster = 0)) ∧ (∀ m ∈ s.msgs, ¬(m.ctx = 0 ∧ m.cluster = 0)) ∧ s.handlerLive 0 0 = false ∧
          (k.1 = true ↔ k.2.cmap ≠ 0) ∧ WritesSeen s cluster0 ∧ ¬WritesSeen { s with gt := 0 } cluster0) ∧
      (let l := { launch0 with placed := [0] }
       let s := { gone false l with clusters := [retiredC] }
       s.cluster? 0 0 = some retiredC ∧ s.launch? 0 = some l ∧ l.run = .live ∧ l.cmap = 0 ∧ l.gx * l.gy ≤ l.done.length + 1 ∧
         WritesSeen s retiredC ∧ ¬WritesSeen { s with mends := [oneMend] } retiredC ∧ ¬WritesSeen { s with reqs := [ask .red] } retiredC) ∧
      (∀ gt ∈ [0, 1],
        let s := { gone true with gt := gt, clusters := [retiredC], hbm := [] }
        let l := launchC true
        s.cluster? 0 0 = some retiredC ∧ s.launch? 0 = some l ∧ l.run = .live ∧ l.mapFault = [] ∧ Sound s ∧
          (gt = 0 → ¬WritesSeen s retiredC) ∧
          (gt = 1 → WritesSeen s retiredC ∧
            (match s.engPlace (partWho retiredC.origin 0 l.super) ⟨0, 0, 0, 0⟩ false (l.cmap + 0 / 8) 1 true with
             | .ok m => decide (m.tgt = .line 0 ∧ s.forward 0 (l.cmap + 0 / 8) 0 = 0)
             | _ => false) = true ∧ l.done.length + 1 < l.gx * l.gy)) ∧
      (∀ run ∈ [RunState.live, .halted],
        let s := busy run
        let l := { launchC false with run := run }
        s.named (0x4041 : Word).toNat = none ∧ s.named (0x40 : Word).toNat = some l ∧
          (∀ k ∈ s.launches, k.ctx = l.ctx → k = l) ∧ ∃ r ∈ s.reqs, r.survives = true) ∧
      (let s := busy .live
       let l := launchC false
       s.named (0x40 : DWord).toNat = some l ∧ s.launch? l.ctx = some l ∧ s.cluster? l.ctx ((0x40 : DWord).toNat / 2 ^ 32) = some cluster0 ∧
         cluster0.retired = false ∧ l.run = .live ∧ l.done.length + 1 < l.gx * l.gy) := by
  simp only [← seen_iff]
  with_reducible and_intros <;> decide +kernel

/-- A request to save context 0 of generation 1, hard or soft, acknowledged by these engines. -/
def asked (hard : Bool) (acks : List Engine) : Preempt := { ctx := 0, gen := 1, hard := hard, start := 0, saving := hard, acks := acks }
def preempting (p : Option Preempt) (prq : Word) : State :=
  let s := tabled mapped
  { s with sys := { s.sys with prq := prq, pimg := 0x100000, pisz := 16 }, preempt := p }
/-- The bytes other than 0 of an image (Tables 3 to 7 of 19_pre_emption): format 3, hard, 0x3200 bytes, one cluster, its directory at
0x1000, its section at 0x2000 with one block, no warp; the launch record of one block of one thread of 8 registers. -/
def imageBytes : Memory :=
  [(0, 3), (4, 1), (9, 0x32), (16, 1), (24, 1), (33, 0x10), (40, 0x10), (41, 0x10)] ++
    [(256, 4), (258, 1), (280, 1), (282, 1), (284, 1), (285, 1), (286, 1), (287, 1), (288, 1), (290, 1), (292, 1), (295, 16), (300, 1),
     (306, 8), (324, 1), (326, 1)] ++
    [(4105, 0x20), (4112, 1), (8196, 1), (8449, 0x30), (12296, 255), (12297, 255), (12298, 255), (12299, 255)]
def restoring : State :=
  { preempting none 0 with launches := [], clusters := [], blocks := [], warps := [], tlbs := [],
                           hbm := imageBytes.map fun c => (2 ^ 31 + 0x100000 + c.1, c.2) }

/-- A launch of 8 registers without tiles or bindings, its warp with one lane that has not exited, and an area that its image fits. -/
def slim (s : State) : State :=
  let l : Launch := { wordLaunch with rec_ := ((wordLaunch.rec_.set 0x1F 1).set 0x26 0).set 0x27 0 }
  { s with launches := [l], blocks := [newBlock l (wordCluster State.reset) 0], sys := { s.sys with pisz := 32 },
           warps := s.warps.map fun w => { w with lanes := w.lanes.mapIdx fun i k => if i = 0 then k else { k with status := .exited } } }
def slimLaunch : Launch := (slim mapped).launches.headD wordLaunch

/-- Nothing of the context is under way at core 0. -/
abbrev Still (s : State) : Prop :=
  (∀ w ∈ s.warps, w.hold = []) ∧ s.reqs = [] ∧ s.g5 = [] ∧ s.copyOps = [] ∧ s.packets = [] ∧ s.msgs = []

theorem witness_PreemptionStopsSavesAndRestores :
    let noArea := fun (s : State) => ({ s with sys := { s.sys with pisz := 0x10000 } } : State)
    let s := preempting none 0
    (s.sys.prq.getLsbD 23 = false ∧ s.named (0x4041 : Word).toNat = none ∧ (noArea s).imageArea = false ∧ s.imageArea = true ∧
        s.named (0x40 : Word).toNat = some launch0 ∧ launch0.run = .live ∧
        (s.modLaunch 0 fun l => { l with run := .halted }).named (0x40 : Word).toNat = some { launch0 with run := .halted }) ∧
      ({ s with launches := (List.range 64).map fun c => { launch0 with ctx := c } } : State).freeEntry = none ∧
      (let r := restoring
       r.sys.prq.getLsbD 23 = false ∧ r.freeEntry = some 0 ∧ (noArea r).imageArea = false ∧ (noArea r).freeEntry = some 0 ∧
         r.service.recovery = false ∧ r.imageArea = true ∧ r.imageOk r.imageBase r.imageRoom = true ∧ r.imgDirectory r.imageBase ≠ []) ∧
      (let p := asked false []
       let s := preempting (some p) 0x00800000
       s.sys.prq.getLsbD 23 = true ∧ s.preempt = some p ∧ (0x40 : Word).toNat % 64 = p.ctx ∧ (0x40 : Word).toNat / 64 % 1024 = p.gen ∧ p.hard = false) ∧
      -- Each engine stands still, or has something of its own under way that has no stop unit here.
      (∀ e ∈ [Engine.vector 0, .matrix 0, .copy 0, .messages 0],
        let p := asked true ([Engine.vector 0, .matrix 0, .copy 0, .messages 0].filter fun k => k != e)
        let s := preempting (some p) 0x00A00000
        s.preempt = some p ∧ s.launch? p.ctx = some launch0 ∧ p.saving = true ∧ e ∈ s.enginesOf launch0 ∧ e ∉ p.acks ∧ Still s) ∧
      ((∀ r ∈ (asking .load).reqs, r.core = 0 ∧ r.ctx = 0) ∧
        ((queuing { oneEntry 7 ⟨15, 0, .z, .z, 0, .s32, 0, 0, 1⟩ with st := .finished 0 0 }).queue 0).map (fun f => f.st) = [.finished 0 0] ∧
        (∀ c ∈ (copying (oneCopy 7 0 0 0 [] 66 .running)).copyOps, c.core = 0 ∧ c.ctx = 0 ∧ c.st = .running ∧ c.opk = 7) ∧
        (∀ c ∈ (copying { oneCopy 0 0 0x100000 64 [] 0 .running with part := 16 }).copyOps, c.core = 0 ∧ c.ctx = 0 ∧ c.part ≠ 0 ∧
          c.cluster < 2 ^ 32 ∧ c.ended = false) ∧
        (∀ h ∈ [Hold.msend 1, .launch 1 1 0],
          ∀ w ∈ (mapped.modWarp 0 0 fun w => { w with hold := [(0x10004, h)] }).warps, w.core = 0 ∧ w.ctx = 0 ∧ ∀ p ∈ w.hold, p.2.hasBegun = true) ∧
        (oneMsg false).core = 0 ∧ (oneMsg false).ctx = 0 ∧ (oneMsg false).arrived = false) ∧
      (∀ gt ∈ [1999999, 2000000],
        let p := asked false []
        let s := { preempting (some p) 0x00800000 with gt := gt }
        s.preempt = some p ∧ p.saving = false ∧ (gt = 1999999 → s.gt < p.start + 1000 * (s.sys.pdeadline.toNat % 2 ^ 24)) ∧
          (gt = 2000000 → p.start + 1000 * (s.sys.pdeadline.toNat % 2 ^ 24) ≤ s.gt)) ∧
      (let p := asked true [.vector 0, .matrix 0, .copy 0, .messages 0]
       let s := preempting (some p) 0x00A00000
       s.preempt = some p ∧ s.launch? p.ctx = some launch0 ∧ launch0.ctx = p.ctx ∧ p.saving = true ∧
         ∀ e ∈ s.enginesOf launch0, e ∈ p.acks) ∧
      -- The image fits its area; and the area is none.
      (let p := asked true [.vector 0, .matrix 0, .copy 0, .messages 0]
       let s := slim (preempting (some p) 0x00A00000)
       let u := s.settleSave slimLaunch
       s.preempt = some p ∧ s.launch? p.ctx = some slimLaunch ∧ (∀ e ∈ s.enginesOf slimLaunch, e ∈ p.acks) ∧ u.imageArea = true ∧
         (u.image p.hard slimLaunch).length ≤ u.imageRoom ∧ u.allStowed 0 = true ∧ Sound u ∧
         (∀ o < (u.image p.hard slimLaunch).length, (u.tsPlace (u.imageBase + o)).isSome = true) ∧
         ({ s with sys := { s.sys with pisz := 0x10000 } } : State).imageArea = false) := by
  let s := slim (preempting (some (asked true [.vector 0, .matrix 0, .copy 0, .messages 0])) 0x00A00000)
  let u := s.settleSave slimLaunch
  have room : u.sys.tsloc.toNat % 2 ^ 31 + u.imageBase + u.imageRoom ≤ 2 ^ 31 := by decide +kernel
  have fits : (u.image true slimLaunch).length ≤ u.imageRoom := by decide +kernel
  have placed : ∀ o < (u.image true slimLaunch).length, (u.tsPlace (u.imageBase + o)).isSome = true :=
    fun o ho => State.tsPlace_isSome u _ (by omega)
  (with_reducible and_intros) <;> first | exact fits | exact placed | decide +kernel

/-- The warp is at a breakpoint and selected. -/
def broken (f : Nat → Lane → Lane) : State :=
  (withLanes mapped f).modWarp 0 0 fun w => { w with brk := true, brkAt := 0 }

theorem witness_DebugResumesAndWritesTheSelectedWarp :
    (let s := mapped
     let w := warp0 s
     s.selected w.ctx = some w ∧ s.warp? w.core w.slot = some w ∧ s.launch? w.ctx = some launch0 ∧ launch0.run = .live ∧ w.brk = false) ∧
      (let s := broken fun _ l => l
       let w := warp0 s
       s.selected w.ctx = some w ∧ s.warp? w.core w.slot = some w ∧ s.launch? w.ctx = some launch0 ∧ w.brk = true ∧
         (∀ i < 32, (w.lane i).status ≠ .exited → (w.lane i).status ≠ .departed → validPc (w.lane i).pc = true) ∧
         (∀ v ∈ s.warps, (s.warp? v.core v.slot).isSome = true) ∧ 31 < w.lanes.length ∧ 255 < (w.lane 31).v.length ∧
         (w.lane 31).status = .runnable ∧ (w.lane 31).uid ≠ 0) ∧
      (let s := broken fun i l => if i < 31 then { l with status := .exited } else { l with pc := 0x10000 }
       let w := warp0 s
       s.selected w.ctx = some w ∧ s.warp? w.core w.slot = some w ∧ s.launch? w.ctx = some launch0 ∧ w.brk = true ∧ s.preempt = none ∧
         (w.lane 31).status = .runnable ∧ (w.lane 31).uid ≠ 0 ∧ validPc (w.lane 31).pc = false ∧
         ∀ j < 31, (w.lane j).status = .exited) := by
  with_reducible and_intros <;> decide +kernel

/-- `paged`: a device-owned page at 0x100000, a host-owned one at 0x110000, a device-owned read-only one at 0x120000, and a window of
port 5 upon them; the host window begins at 0x100000. -/
def reached : State :=
  let s := paged [0xB, 0xF, 0x3]
  { s with
    sys := { s.sys with hwinbase := 0x100000, hwinctx := 0,
                        ports := s.sys.ports.set 5 { base := 0x100000, limit := 0x130000, ctx := 0x40 } }
    outside := { s.outside with linkUp := 0x20 } }

/-- Does an access reach one piece of `n` bytes within a line? -/
def onePiece (r : State × Option (List Reach)) (n : Nat) : Bool :=
  match r.2 with
  | some [q] => q.n == n && decide (q.dev % 128 + n ≤ 128)
  | _ => false

/-- A page that a flip in the direction given may begin upon. -/
def mayFlip (s : State) (va : Nat) (toDevice : Bool) : Bool :=
  match s.page 0 va with
  | some p => pteOk p.pte && (pteWord p.pte).hc != 3 && (coveringWindow va (s.bank 0).heap).isNone && pteOwn p.pte == toDevice
  | none => false

/-- Context 0 asks for a flip of the page at `va`. -/
def flipAsked (va : Nat) : State := { reached with sys := { reached.sys with ownf0 := BitVec.ofNat 64 va } }

theorem witness_HostAndPeersReachOnlyTheirPages :
    (let s := reached
     let r := fun (o n : Nat) => s.reach (s.sys.hwinctx.toNat % 64) (s.sys.hwinbase.toNat + o) n fun p => pteOwn p.pte
     (∀ k ∈ [(0, 4), (0x1FFFE, 4), (2 ^ 36 - 4, 4)], k.1 + k.2 ≤ 2 ^ 36 ∧ (r k.1 k.2).2 = none) ∧
       (∀ k ∈ [(0x1007C, 4), (0x1FFFF, 1)], k.1 + k.2 ≤ 2 ^ 36 ∧ onePiece (r k.1 k.2) k.2 = true) ∧
       (r 0x10000 256).2.isSome = true ∧ Sound s) ∧
      (let s := reached
       s.outside.linkUp.getLsbD 5 = true ∧
         (∀ a ∈ [0xFFFFC, 0x110000, 0x120000, 0x12FFFE], (s.inbound 5 a 4 true).2 = none) ∧
         (∀ a ∈ [0xFFFFC, 0x110000, 0x12FFFE], (s.inbound 5 a 4 false).2 = none) ∧
         (∀ a ∈ [0x100000, 0x10FFFC], onePiece (s.inbound 5 a 4 true) 4 = true) ∧
         (∀ a ∈ [0x100000, 0x12FFFC], (s.inbound 5 a 4 false).2.isSome = true)) ∧
      (∀ port ∈ [0, 7],
        let c := oneCopy 0 0x100000 (BitVec.ofNat 64 (port * 2 ^ 60 + 0x80)) 64 [] 0x4 .running
        port < 8 ∧ (copying c).copyOps = [c] ∧ c.underWay = true ∧ c.peerAt port = some 0x80) ∧
      (∀ k ∈ [(0x100000, false, true), (0x110000, true, true), (0x100000, true, false), (0x110000, false, false)],
        (flipAsked k.1).sys.ownf1.getLsbD 18 = false ∧ (flipAsked k.1).named (0x40 : Word).toNat = some launch0 ∧
          (reached.page 0 (fieldAt (flipAsked k.1).sys.ownf0 56 16)).isSome = true ∧
          mayFlip (flipAsked k.1) (fieldAt (flipAsked k.1).sys.ownf0 56 16) k.2.1 = k.2.2) ∧
      (∀ k ∈ [(0x100000, false, true, []), (0x110000, true, true, []), (0x100000, false, false, [oneMove 0 false])],
        let s := { reached with flipping := some (0, k.1, k.2.1), moving := k.2.2.2 }
        (s.leafOffset 0 k.1).isSome = true ∧ (match s.page 0 k.1 with
          | some p => s.flipReady 0 p k.2.1 == k.2.2.1
          | none => false) = true) := by
  with_reducible and_intros <;> decide +kernel

/-- A request waits in the mailbox: its command, the length in its header, its payload. -/
def mailed (cmd len : Nat) (payload : List Byte) (s : State := reached) : State :=
  { s with
    service := { s.service with
      request := Memory.setN [] 0 (natToBytes 4 cmd ++ natToBytes 4 len ++ natToBytes 4 9 ++ natToBytes 4 0 ++ payload) },
    sys := { s.sys with mbstat := 1, mbdoor := 9 } }
def served (f : Service → Service) : State := { reached with service := f reached.service }
/-- Slots 1 to n are taken. -/
def slotted (n : Nat) : State :=
  served fun v => { v with slots := (List.range n).map fun k => { slot := k + 1, va := 0, len := 64, digest := 0 } }
def oneBox (kind : Nat) : BoxRec := { gt := 7, kind := kind, source := 9, data := 0 }
/-- Does the request ask for this (`Asks`, as a Bool)? -/
def asksOk (s : State) (cmd len : Nat) : Bool :=
  s.sys.mbstat.getLsbD 0 && bytesToNat (s.service.request.getN 0 4) == cmd && bytesToNat (s.service.request.getN 4 4) == len &&
    bytesToNat (s.service.request.getN 8 4) == s.sys.mbdoor.toNat && !s.service.recovery

theorem asks_of {s : State} {cmd len : Nat} (h : asksOk s cmd len = true) : Asks s cmd len := by
  simp only [asksOk, Bool.and_eq_true, beq_iff_eq, Bool.not_eq_true'] at h
  exact ⟨h.1.1.1.1, h.1.1.1.2, h.1.1.2, h.1.2, h.2⟩

/-- A field of the payload. -/
def payloadOf (s : State) (o n : Nat) : Nat := bytesToNat (s.service.request.getN (16 + o) n)

theorem witness_MailboxAnswersEachCommand :
    (∀ k ∈ [(1, 48, 0), (2, 64, 32752), (3, 4, 5), (4, 0, 1), (5, 16, 15), (6, 8, 9), (7, 16, 17)],
      asksOk (mailed k.1 k.2.2 []) k.1 k.2.2 = true ∧ k.2.2 ≤ 32752 ∧ k.2.2 ≠ k.2.1 ∧ (mailed k.1 k.2.2 []).service.response.wf = true) ∧
      (∀ cmd ∈ [1, 5], let s := mailed cmd 32752 [] (served fun v => { v with recovery := true })
        s.sys.mbstat.getLsbD 0 = true ∧ bytesToNat (s.service.request.getN 0 4) = cmd ∧ s.service.recovery = true ∧
          bytesToNat (s.service.request.getN 4 4) ≤ 32752 ∧ bytesToNat (s.service.request.getN 8 4) = s.sys.mbdoor.toNat) ∧
      (∀ n ∈ [0, 1],
        let s := mailed 1 48 [7] (served fun v => { v with leaves := 2 ^ 15 - 1, firmware := [1], seq := n })
        asksOk s 1 48 = true ∧ s.service.leaves < 2 ^ 15 ∧ s.service.firmware ≠ [] ∧ s.service.seq = n) ∧
      (∀ k ∈ [(2 ^ 57 - 2 ^ 28, 2 ^ 28, 0), (64, 64, 13), (0, 64, 14)],
        let s := mailed 2 64 (natToBytes 8 k.1 ++ natToBytes 8 k.2.1) (slotted k.2.2)
        asksOk s 2 64 = true ∧ payloadOf s 0 8 % 64 = 0 ∧ payloadOf s 8 8 % 64 = 0 ∧ 64 ≤ payloadOf s 8 8 ∧ payloadOf s 8 8 ≤ 2 ^ 28 ∧
          payloadOf s 0 8 + payloadOf s 8 8 ≤ 2 ^ 57 ∧
          (k.2.2 < 14 → (∀ c ∈ s.service.slots, c.slot ≠ k.2.2 + 1) ∧ ∀ j < k.2.2 + 1, 1 ≤ j → ∃ c ∈ s.service.slots, c.slot = j) ∧
          (k.2.2 = 14 → ∀ j < 15, 1 ≤ j → ∃ c ∈ s.service.slots, c.slot = j)) ∧
      (∀ k ∈ [(1, true), (14, true), (0, false), (15, false)], let s := mailed 3 4 (natToBytes 4 k.1) (slotted 14)
        asksOk s 3 4 = true ∧ ((∃ c ∈ s.service.slots, c.slot = payloadOf s 0 4) ↔ k.2 = true)) ∧
      (∀ n ∈ [0, 1], let s := mailed 4 0 [] (served fun v => { v with seq := n })
        asksOk s 4 0 = true ∧ s.service.seq = n) ∧
      (let s := mailed 5 16 ([0, 0, 1, 0, 0, 0, 0, 0] ++ natToBytes 8 0x100000) { reached with sealedFrames := [(0, geo1, 65536)] }
       asksOk s 5 16 = true ∧ (match s.named (payloadOf s 0 1 % 64 + 64 * (payloadOf s 2 2 % 1024)) with
         | some l => (match s.page l.ctx (payloadOf s 8 8) with
           | some p => (match p.place p.va with
             | some d => s.sealedFrames.any fun f => (geometry f.2.1).holds f.2.2 f.1 d
             | none => false)
           | none => false)
         | none => false) = true ∧ ∀ k ∈ s.l2, k.data.length = 128) ∧
      -- An address without a page, and a page whose geometry entry is not valid.
      (∀ k ∈ [(0x900000, none), (0x130000, some (0xB + 2 ^ 48))],
        let s := mailed 5 16 ([0, 0, 1, 0, 0, 0, 0, 0] ++ natToBytes 8 k.1) { reached with hbm := tableWord reached.hbm 0x202098 (k.2.getD 0) }
        asksOk s 5 16 = true ∧ (match s.named (payloadOf s 0 1 % 64 + 64 * (payloadOf s 2 2 % 1024)), k.2 with
          | some l, none => (s.page l.ctx (payloadOf s 8 8)).isNone
          | some l, some _ => (match s.page l.ctx (payloadOf s 8 8) with
            | some p => (p.place p.va).isNone && (pteWord p.pte).hc != 3
            | none => false)
          | none, _ => false) = true) ∧
      (∀ n ∈ [0, 1, 511, 512], let s := mailed 6 8 (natToBytes 4 0 ++ natToBytes 4 n) (served fun v => { v with box := [oneBox 3, oneBox 4] })
        asksOk s 6 8 = true ∧ payloadOf s 4 4 = n ∧ (0 < n → s.service.box[payloadOf s 0 4 + 0]? = some (oneBox 3)) ∧
          (1 < n → s.service.box[payloadOf s 0 4 + 1]? = some (oneBox 4))) ∧
      ∀ n ∈ [1, 2 ^ 26],
        let s := mailed 7 16 (natToBytes 8 0x40 ++ natToBytes 8 n) { reached with outside := { reached.outside with apertures := [(0x40, 0x40 + 2 ^ 26)] } }
        asksOk s 7 16 = true ∧ 1 ≤ payloadOf s 8 8 ∧ payloadOf s 8 8 ≤ 2 ^ 26 ∧ s.hostOk (payloadOf s 0 8) (payloadOf s 8 8) = true := by
  with_reducible and_intros <;> decide +kernel

/-- A clean line of 128 bytes as memory holds them. -/
def cleanLine : L2Line := { line := 0, data := List.replicate 128 0, dirty := false, tag := 0, wrote := none, order := 0, locked := none }
def dirtyLine : L2Line := { cleanLine with line := 1, data := List.replicate 128 5, dirty := true }

theorem witness_ErrorsPowerAndResetsActAsStated :
    384 * 2 ^ 26 - 1 < 384 * 2 ^ 26 ∧
      (let s := { mapped with launches := [] }
       0 ∉ s.retired ∧ 23 ∉ s.retired ∧ (∀ k ∈ s.l2, k.locked = none) ∧ s.launches = []) ∧
      (∃ g < 24, g ∉ mapped.retired ∧ launch0 ∈ mapped.launches ∧ (∀ k ∈ mapped.launches, k.ctx = launch0.ctx → k = launch0) ∧
        mapped.inGroup launch0 g = true) ∧
      (State.reset.outside.fuses = [] ∧
        ∃ g < 24, g ∈ ({ mapped with outside := { mapped.outside with fuses := [23] } } : State).outside.fuses) ∧
      (let s := { mapped with l2 := [cleanLine, dirtyLine], hbm := [(129, 6)] }
       s.hbm.wf = true ∧ (∀ k ∈ s.l2, k.data.length = 128) ∧ (∀ k ∈ s.l2, ∀ j ∈ s.l2, j.line = k.line → j = k) ∧
         ∀ k ∈ s.l2, k.dirty = false → ∀ j < 128, s.hbm.get (k.line * 128 + j) = k.data.getD j 0) := by
  refine ⟨by decide, by decide +kernel, ⟨0, by decide +kernel⟩, ⟨by decide +kernel, 23, by decide +kernel⟩, by decide +kernel⟩

theorem op_is_not_all_ones (i : Instr) : i.op ≠ some 0x3FF := by
  cases i <;> exact fun h => nomatch h

theorem witness_DecodingInvertsEncoding :
    (Instr.add all ⟨.v 255, .v 0, .z, .reg (.v 2), .s32, 1⟩).wf = true ∧
      (match decode (natToBytes 12 0x0000415FFFFFFC007FC00000) with
        | .ok _ => true
        | .error _ => false) = true ∧
      ¬∃ i : Instr, i.wf = true ∧ encode i = some 0xFFFFFFFFFFFFFFFFFFFFFFFF := by
  refine ⟨by decide, by decide, ?_⟩
  rintro ⟨i, -, h⟩
  unfold encode at h
  split at h
  · next op g b ho hb =>
    have e := congrArg (fun w : IWord => w.extractLsb' 69 10) (Option.some.inj h)
    simp only [Sys2Proof.Laws.Encoded.op_field] at e
    exact op_is_not_all_ones i (ho.trans (congrArg some (e.trans (by decide))))
  · cases h

theorem witness_EveryStepAnswersANextState :
    ((Instr.add all ⟨.v 3, .v 1, .z, .reg (.v 2), .s32, 0⟩).body).isSome = true ∧ (full.iss all).isSome = true := by
  decide +kernel

theorem witness_EveryStepKeepsMemoryInForm :
    State.reset.memOk = true ∧ mapped.memOk = true ∧ (match step State.reset with
      | .next t => t.memOk
      | _ => false) = true := by
  decide +kernel

theorem witness_BytesArePlacedByStripes :
    (geometry geo1).valid = true ∧ 65536 ≤ 2 ^ 57 ∧ 0 % (geometry geo1).stripe = 0 ∧
      ((geometry geo1).place 65536 0 65535).isSome = true ∧ (geometry geo1).place 65536 0x7FFFFF00 256 = none := by
  decide +kernel

/-- Reset with the word of an instruction where the next step fetches it, a load into `v4` under way for thread 1, and the state as the
turn begins. -/
def fetching (i : Instr) : State := { State.reset.withFetchWord 96 ((encode i).getD 0).toNat with reqs := [{ ask .load with dest := .v 4 }] }
def begun (i : Instr) : State :=
  let s := fetching i
  { s with schedule := [], gt := s.gt + 1, cycle := s.cycle + 1 }
/-- Every condition on the fetch of slot 0 of core 0, and the instruction that comes of it. -/
def fetchOk (i : Instr) : Bool :=
  match (begun i).candidates 0 0, ({ begun i with issuing := some (0, 0) } : State).iss ⟨0xFF, 0, 0, 0⟩ with
  | 0 :: rest, some x =>
    rest.isEmpty && (match (begun i).iline 0 x.w.ctx (x.pc.toNat / 64) with
      | some c => c.bad.isEmpty && c.again.isEmpty && linePar c.data && lineClean c.data && validPc x.pc && slotTgt c.data (slotIndex x.pc) &&
          slotPar c.data (slotIndex x.pc) && (match decode (slotBytes c.data (slotIndex x.pc)) with
            | .ok j => decide (j = i)
            | .error _ => false)
      | none => false)
  | _, _ => false
/-- Does the instruction issue there, or is it held? -/
def issued (i : Instr) : Option Bool :=
  match exec i { begun i with issuing := some (0, 0) } with
  | .next t => some (t.issues != (begun i).issues)
  | _ => none

theorem witness_AStepRunsTheDecodedInstruction :
    (∀ i ∈ [(Instr.add all ⟨.v 255, .v 0, .z, .reg (.v 2), .s32, 0⟩, true), (Instr.add all ⟨.v 255, .v 0, .z, .reg (.v 4), .s32, 0⟩, false)],
      (fetching i.1).schedule = [⟨1, 1, .issue 0 0⟩] ∧ fetchOk i.1 = true ∧ issued i.1 = some i.2) ∧
      (let s := { State.reset with schedule := [⟨5, 4, .event .softErrorCorrected⟩] }
       s.schedule = [⟨5, 4, .event .softErrorCorrected⟩] ∧ isEvent .softErrorCorrected = true ∧
         (match exec .softErrorCorrected { s with schedule := [], gt := s.gt + 5, cycle := s.cycle + 4 } with
          | .next _ => true
          | _ => false) = true ∧ s.stopped = false) ∧
      (∃ i, isEvent i = true ∧ onDies i = true ∧ ({ State.reset with stopped := true } : State).stopped = true) := by
  refine ⟨by decide +kernel, by decide +kernel, .instructionFetch 0 0 0, by decide +kernel⟩

end Sys2Proof.Tests
end

/-! ## Registers and predicates: integers, counts and fields, compares -/

namespace Sys2Proof.Machine

open Sys2Proof Sys2Proof.Claims

/-! ### Numbers given by their bits -/

theorem bitsOf_lt (f : Nat → Bool) (n : Nat) : bitsOf f n < 2 ^ n := by
  induction n with
  | zero => simp [bitsOf]
  | succ n ih =>
    rw [bitsOf, Nat.pow_succ]
    split <;> omega

theorem testBit_bitsOf (f : Nat → Bool) (n k : Nat) : (bitsOf f n).testBit k = (decide (k < n) && f k) := by
  induction n with
  | zero => simp [bitsOf]
  | succ n ih =>
    have hlt := bitsOf_lt f n
    rcases Nat.lt_trichotomy k n with hk | rfl | hk
    · have hs : k < n + 1 := by omega
      cases hf : f n
      · simp [bitsOf, hf, ih, hk, hs]
      · simp [bitsOf, hf, Nat.add_comm _ (2 ^ n), Nat.testBit_two_pow_add_gt hk, ih, hk, hs]
    · cases hf : f k
      · simp [bitsOf, hf, ih]
      · simp [bitsOf, hf, Nat.add_comm _ (2 ^ k), Nat.testBit_two_pow_add_eq, ih]
    · have hs : ¬k < n + 1 := by omega
      have hle : 2 ^ (n + 1) ≤ 2 ^ k := Nat.pow_le_pow_right (by omega) (by omega)
      rw [Nat.testBit_lt_two_pow (Nat.lt_of_lt_of_le (bitsOf_lt f (n + 1)) hle)]
      simp [hs]

theorem bits_bitsOf (n : Nat) (f : Nat → Bool) : Bits n f (bitsOf f n) := testBit_bitsOf f n

/-! ### Counts (R129, Table 5) -/

theorem leadingZeros_le (n x : Nat) : leadingZeros n x ≤ n := by
  induction n with
  | zero => simp [leadingZeros]
  | succ n ih =>
    rw [leadingZeros]
    split <;> omega

/-- Above the highest one bit among `n` bits there are zeros. -/
theorem testBit_of_lt_leadingZeros (n x k : Nat) (h : k < leadingZeros n x) : x.testBit (n - 1 - k) = false := by
  induction n generalizing k with
  | zero => simp [leadingZeros] at h
  | succ n ih =>
    rw [leadingZeros] at h
    split at h
    · omega
    · next hn =>
      cases k with
      | zero => simpa using hn
      | succ k =>
        rw [show n + 1 - 1 - (k + 1) = n - 1 - k by omega]
        exact ih k (by omega)

theorem testBit_leadingZeros (n x : Nat) (h : leadingZeros n x < n) : x.testBit (n - 1 - leadingZeros n x) = true := by
  induction n with
  | zero => omega
  | succ n ih =>
    rw [leadingZeros] at h ⊢
    split at h
    · next hn =>
      rw [if_pos hn]
      simpa using hn
    · next hn =>
      rw [if_neg hn, show n + 1 - 1 - (1 + leadingZeros n x) = n - 1 - leadingZeros n x by omega]
      exact ih (by omega)

theorem trailingZeros_le (n x : Nat) : trailingZeros n x ≤ n := by
  induction n generalizing x with
  | zero => simp [trailingZeros]
  | succ n ih =>
    have := ih (x / 2)
    rw [trailingZeros]
    split <;> omega

theorem testBit_of_lt_trailingZeros (n x k : Nat) (h : k < trailingZeros n x) : x.testBit k = false := by
  induction n generalizing x k with
  | zero => simp [trailingZeros] at h
  | succ n ih =>
    rw [trailingZeros] at h
    split at h
    · omega
    · next hn =>
      cases k with
      | zero => simpa [Nat.testBit_zero] using hn
      | succ k =>
        rw [Nat.testBit_succ]
        exact ih _ k (by omega)

theorem testBit_trailingZeros (n x : Nat) (h : trailingZeros n x < n) : x.testBit (trailingZeros n x) = true := by
  induction n generalizing x with
  | zero => omega
  | succ n ih =>
    rw [trailingZeros] at h ⊢
    split at h
    · next hn =>
      rw [if_pos hn]
      simpa [Nat.testBit_zero] using hn
    · next hn =>
      rw [if_neg hn, Nat.add_comm, Nat.testBit_succ]
      exact ih _ (by omega)

theorem popcountN_eq (n x : Nat) : popcountN n x = ((List.range n).filter fun k => x.testBit k).length := by
  induction n generalizing x with
  | zero => rfl
  | succ n ih =>
    have hshift : ((List.range n).map Nat.succ).filter (fun k => x.testBit k) =
        ((List.range n).filter fun k => (x / 2).testBit k).map Nat.succ := by
      rw [List.filter_map]
      congr 2
      funext k
      exact Nat.testBit_succ x k
    rw [popcountN, ih, List.range_succ_eq_map, List.filter_cons, hshift]
    rcases Nat.mod_two_eq_zero_or_one x with hx | hx <;> simp [Nat.testBit_zero, hx, Nat.add_comm]

/-! ### Integers at a type -/

/-- Two's complement as the model reads it is the balanced remainder. -/
theorem signedOf_eq_bmod (n x : Nat) : signedOf n x = Int.bmod x (2 ^ n) := by
  rw [Int.bmod_def, signedOf, ← Int.natCast_mod]
  generalize x % 2 ^ n = r
  generalize 2 ^ n = m
  split <;> split <;> omega

theorem int_eq_intAt (ty : Ty) (x : Nat) : ty.int x = intAt ty x := by
  rw [Ty.int, intAt, signedOf_eq_bmod, low]

/-- Settles O3: each count and field is one function of the shape `aluR`; a field's bits are `bitsOf` of the bits that
R130 names. -/
theorem countsAndFieldsFollowTables5AndR130 : Obligations.CountsAndFieldsFollowTables5AndR130 := by
  refine ⟨computes_aluR (f := fun o a _ _ => leadingZeros o.ty.bits a) (fun _ _ _ => rfl) ?_,
    computes_aluR (f := fun o a _ _ => trailingZeros o.ty.bits a) (fun _ _ _ => rfl) ?_,
    computes_aluR (f := fun o a _ _ => popcountN o.ty.bits a) (fun _ _ _ => rfl) ?_,
    computes_aluR (f := fun o a b _ => bfxValue o.ty a b) (fun _ _ _ => rfl) ?_,
    computes_aluR (f := fun o => bfiValue o.ty.bits) (fun _ _ _ => rfl) ?_⟩
  · exact fun _ _ _ _ _ _ => ⟨leadingZeros_le _ _, testBit_of_lt_leadingZeros _ _, testBit_leadingZeros _ _⟩
  · exact fun _ _ _ _ _ _ => ⟨trailingZeros_le _ _, testBit_of_lt_trailingZeros _ _, testBit_trailingZeros _ _⟩
  · exact fun _ _ _ _ _ _ => popcountN_eq _ _
  · exact fun _ _ _ _ _ _ => bits_bitsOf _ _
  · exact fun _ _ _ _ _ _ => bits_bitsOf _ _

/-! ### The predicate pair (R122) -/

theorem getLsbD_setPred (p : BitVec 8) (n : BitVec 3) (b : Bool) (j : Nat) (hj : j < 8) :
    (setPred p n b).getLsbD j = if n ≠ 0 ∧ j = n.toNat then b else p.getLsbD j := by
  rw [setPred, ← BitVec.twoPow_eq]
  by_cases hn : n = 0
  · rw [if_pos (beq_iff_eq.mpr hn), if_neg fun h => h.1 hn]
  rw [if_neg fun h => hn (beq_iff_eq.mp h)]
  by_cases hjn : j = n.toNat
  · rw [if_pos (show n ≠ 0 ∧ j = n.toNat from ⟨hn, hjn⟩)]
    cases b <;> simp [← hjn, hj]
  · rw [if_neg (show ¬(n ≠ 0 ∧ j = n.toNat) from fun h => hjn h.2)]
    cases b <;> simp [hj, hjn]

theorem pred_of_ne_zero (l : Lane) {n : BitVec 3} (h : n ≠ 0) : l.pred n = l.p.getLsbD n.toNat := by
  rw [Lane.pred, beq_eq_false_iff_ne.mpr h, Bool.false_or]

/-- Distinct predicates, or `p0` twice, folded as R122 says. -/
theorem pairFolded_foldPair (l : Lane) {pt pf : BitVec 3} {cmb : BitVec 2} (c : Bool) (h : pairOk pt pf cmb = true) :
    PairFolded l pt pf cmb c (l.foldPair pt pf cmb c).p := by
  have hdistinct : pt ≠ pf ∨ pt = 0 := by
    simp only [pairOk, Bool.and_eq_true, Bool.or_eq_true, bne_iff_ne, beq_iff_eq] at h
    exact h.1
  have hz : ∀ n : BitVec 3, n = 0 ↔ n.toNat = 0 := fun n => BitVec.toNat_eq
  intro j hj
  simp only [Lane.foldPair, getLsbD_setPred _ _ _ j hj, beq_iff_eq]
  by_cases h0 : j = 0
  · have hno : ∀ n : BitVec 3, ¬(n ≠ 0 ∧ j = n.toNat) := fun n h => h.1 ((hz n).2 (h.2.symm.trans h0))
    rw [if_neg (hno pf), if_neg (hno pt), if_pos h0, h0]
  rw [if_neg h0]
  by_cases hpt : j = pt.toNat
  · have hpt0 : pt ≠ 0 := fun h => h0 (hpt.trans ((hz pt).1 h))
    have hpf : ¬j = pf.toNat := fun h =>
      hdistinct.elim (fun hne => hne (BitVec.eq_of_toNat_eq (hpt.symm.trans h))) hpt0
    rw [if_neg fun h => hpf h.2, if_pos ⟨hpt0, hpt⟩, if_pos hpt, pred_of_ne_zero l hpt0, ← hpt]
  rw [if_neg hpt]
  by_cases hpf : j = pf.toNat
  · have hpf0 : pf ≠ 0 := fun h => h0 (hpf.trans ((hz pf).1 h))
    rw [if_pos ⟨hpf0, hpf⟩, if_pos hpf, pred_of_ne_zero l hpf0, ← hpf]
  · rw [if_neg fun h => hpf h.2, if_neg fun h => hpt h.2, if_neg hpf]

/-- A complementary pair stays complementary: the clauses of PF are those of PT by De Morgan. -/
theorem pairFolded_complementary {l : Lane} {pt pf : BitVec 3} {cmb : BitVec 2} {c : Bool} {p : BitVec 8}
    (h : PairFolded l pt pf cmb c p) (hne : pt ≠ pf) (ht : pt ≠ 0) (hf : pf ≠ 0)
    (hold : l.p.getLsbD pt.toNat = !l.p.getLsbD pf.toNat) : p.getLsbD pt.toNat = !p.getLsbD pf.toNat := by
  have ht0 : pt.toNat ≠ 0 := fun h => ht (BitVec.eq_of_toNat_eq h)
  have hf0 : pf.toNat ≠ 0 := fun h => hf (BitVec.eq_of_toNat_eq h)
  have hft : pf.toNat ≠ pt.toNat := fun h => hne (BitVec.eq_of_toNat_eq h.symm)
  rw [h _ pt.isLt, h _ pf.isLt]
  simp only [ht0, hf0, hft, if_false, if_true, hold]
  split
  · simp
  · split <;> simp

/-! ### Writes of the predicates -/

section Writes

variable {s t : State} {g : Guard} {x : Iss}

/-- Only what the predicates of the executing lanes become matters. -/
theorem writesPredicates_congr {p q : Nat → Lane → BitVec 8} {fstat : Word} (h : WritesPredicates s t x p fstat)
    (hpq : ∀ i ∈ x.ex, p i (x.w.lane i) = q i (x.w.lane i)) : WritesPredicates s t x q fstat := by
  obtain ⟨w, honly, hturned, hadv⟩ := h
  refine ⟨w, honly, hturned, fun i => ?_⟩
  rw [hadv i]
  by_cases hi : i ∈ x.ex
  · simp only [hi, if_true, hpq i hi]
  · simp only [hi, if_false]

/-- An instruction that is the shape `cmpP`, over a legal pair, with a function equal to the one stated. -/
theorem compares_cmpP {mk : Guard → POps → Instr} {na nb : POps → Nat} {f spec : POps → Nat → Nat → Nat → Bool × Flags}
    (hx : ∀ g o s, exec (mk g o) s = cmpP g o (na o) (nb o) (f o) s)
    (hp : ∀ g o, (mk g o).wf = true → pairOk o.pt o.pf o.cmb = true)
    (hf : ∀ g o nbv a b, (mk g o).wf = true → f o nbv a b = spec o nbv a b) : Compares mk na nb spec := by
  intro s g o x hw hr hb
  have hfs : f o = spec o := by
    funext nbv a b
    exact hf g o nbv a b hw
  obtain ⟨t, ht, hwp⟩ := cmpP_ready (f := spec o) hr hb
  exact ⟨t, _, by rw [hx, hfs, ht], fun i _ => pairFolded_foldPair _ _ (hp g o hw), writesPredicates_congr hwp fun _ _ => rfl⟩

theorem pairOk_and_cc_lt_of_cmpOk {o : POps} {tys : List Ty} {bound : Nat} (h : o.cmpOk tys bound = true) :
    pairOk o.pt o.pf o.cmb = true ∧ o.cc.toNat < bound := by
  simp only [POps.cmpOk, Bool.and_eq_true, decide_eq_true_eq] at h
  obtain ⟨⟨⟨⟨hp, -⟩, hc⟩, -⟩, -⟩ := h
  exact ⟨hp, hc⟩

theorem pairOk_and_cc_lt_of_wf_icmp {o : POps} (h : (Instr.icmp g o).wf = true) :
    pairOk o.pt o.pf o.cmb = true ∧ o.cc.toNat < 6 := by
  rcases (Bool.or_eq_true _ _).mp h with h | h
  · exact pairOk_and_cc_lt_of_cmpOk h
  · obtain ⟨hp, hc⟩ := pairOk_and_cc_lt_of_cmpOk h
    exact ⟨hp, by omega⟩

theorem pairOk_of_wf_btst {o : POps} (h : (Instr.btst g o).wf = true) : pairOk o.pt o.pf o.cmb = true := by
  simp only [Instr.wf, Bool.and_eq_true] at h
  obtain ⟨⟨⟨⟨hp, -⟩, -⟩, -⟩, -⟩ := h
  exact hp

theorem pset_ready {o : PsetOps} (h : CanIssue s g x []) :
    ∃ t, exec (.pset g o) s = .next t ∧
      WritesPredicates s t x (fun _ l => (l.foldPair o.pt o.pf o.cmb (l.table o.tq o.q1 o.q2 o.q3)).p) x.w.fstat :=
  ⟨_, issue_ready h.standing h.allocated rfl (by simp) h.free, (canIssue_stands h).writesOnlyPredicates _⟩

/-- The predicate file after `pmov` under its mask (R126). -/
def pmovBits (o : ROps) (a : Nat) (p : BitVec 8) : BitVec 8 :=
  (p &&& ~~~o.mod.extractLsb' 8 8) ||| ((BitVec.ofNat 32 a).extractLsb' 0 8 &&& o.mod.extractLsb' 8 8)

theorem getLsbD_pmovBits (o : ROps) (a : Nat) (p : BitVec 8) (j : Nat) (hj : j < 8) :
    (pmovBits o a p).getLsbD j = if o.mod.getLsbD (8 + j) then a.testBit j else p.getLsbD j := by
  have h32 : j < 32 := by omega
  cases hm : o.mod.getLsbD (8 + j) <;> simp [pmovBits, hj, hm, h32, -BitVec.getLsbD_eq_getElem, BitVec.getLsbD_ofNat]

theorem pmovToPred_ready {o : ROps} (h : CanIssue s g x (o.regUses ⟨1, 1, 1, 1⟩)) :
    ∃ t, exec (.pmovToPred g o) s = .next t ∧
      WritesPredicates s t x (fun i l => pmovBits o (x.read i o.a 1) l.p) x.w.fstat :=
  ⟨_, issue_ready h.standing h.allocated rfl (by simp) h.free, (canIssue_stands h).writesOnlyPredicates _⟩

end Writes

/-! ### The order of two floats (R58, R149) -/

/-- A nonzero finite value of a list bounds the exponent that `leastExp` finds. -/
theorem leastExp_of_mem {vs : List FVal} {n : Bool} {m : Nat} {x : Int} (hv : FVal.fin n m x ∈ vs) (hm : m ≠ 0) :
    ∃ e, leastExp vs = some e ∧ e ≤ x := by
  induction vs with
  | nil => simp at hv
  | cons v vs ih =>
    rcases List.mem_cons.mp hv with rfl | hv
    · cases hr : leastExp vs with
      | none => exact ⟨x, by simp [leastExp, hm, hr], le_rfl⟩
      | some k => exact ⟨if x < k then x else k, by simp [leastExp, hm, hr], by split <;> omega⟩
    · obtain ⟨e, he, hle⟩ := ih hv
      cases v with
      | nan g => exact ⟨e, he, hle⟩
      | inf k => exact ⟨e, he, hle⟩
      | fin k p q =>
        by_cases hp : p = 0
        · exact ⟨e, by simp [leastExp, hp, he], hle⟩
        · exact ⟨if q < e then q else e, by simp [leastExp, hp, he], by split <;> omega⟩

/-- A value in units of a power of two no greater than its own is exact. -/
theorem units_mul_zpow {v : FVal} {e : Int} (h : ∀ n m x, v = .fin n m x → m ≠ 0 → e ≤ x) :
    (v.units e : ℚ) * 2 ^ e = valueOf v := by
  cases v with
  | nan g => simp [FVal.units, valueOf]
  | inf n => simp [FVal.units, valueOf]
  | fin n m x =>
    rcases Nat.eq_zero_or_pos m with rfl | hm
    · simp [FVal.units, valueOf]
    · have hex : (2 : ℚ) ^ (x - e).toNat * 2 ^ e = 2 ^ x := by
        have hle := h n m x rfl (by omega)
        rw [← zpow_natCast, ← zpow_add₀ two_ne_zero, Int.toNat_of_nonneg (by omega), sub_add_cancel]
      cases n <;> simp [FVal.units, valueOf, mul_assoc, hex]

/-- With a least exponent the exact sum counts its units. -/
theorem exactSum_of_leastExp {vs : List FVal} {e : Int} (h : leastExp vs = some e) :
    exactSum vs = ((vs.map fun v => v.units e).sum, e) := by
  rw [List.sum_eq_foldl, List.foldl_map]
  simp only [exactSum, h, Prod.mk.injEq, and_true]
  refine congrArg (fun f => List.foldl f 0 vs) (funext₂ fun acc v => ?_)
  cases v with
  | nan g => rfl
  | inf n => rfl
  | fin n m x => cases m <;> simp [FVal.units]

/-- The exact sum is the sum of the values. -/
theorem exactSum_mul_zpow (vs : List FVal) :
    ((exactSum vs).1 : ℚ) * 2 ^ (exactSum vs).2 = (vs.map valueOf).sum := by
  cases h : leastExp vs with
  | none =>
    have hzero : ∀ v ∈ vs, valueOf v = 0 := by
      intro v hv
      cases v with
      | nan g => rfl
      | inf n => rfl
      | fin n m x =>
        by_cases hm : m = 0
        · simp [valueOf, hm]
        · obtain ⟨e, he, -⟩ := leastExp_of_mem hv hm
          simp [h] at he
    rw [List.sum_eq_zero (by simpa using hzero)]
    simp [exactSum, h]
  | some e =>
    have hunits : vs.map valueOf = vs.map fun v => (v.units e : ℚ) * 2 ^ e := by
      refine List.map_congr_left fun v hv => (units_mul_zpow ?_).symm
      rintro n m x rfl hm
      obtain ⟨e', he', hle⟩ := leastExp_of_mem hv hm
      obtain rfl : e = e' := Option.some.inj (h.symm.trans he')
      exact hle
    rw [exactSum_of_leastExp h, hunits, List.sum_map_mul_right, Int.cast_list_sum, List.map_map]
    rfl

section Finite

variable (n k : Bool) (m p : Nat) (e q : Int)

/-- The exact difference of two finite values, in units of a power of two, has the sign of their difference. -/
theorem exactSum_sub : ∃ u : ℚ, 0 < u ∧
    ((exactSum [.fin n m e, .fin (!k) p q]).1 : ℚ) * u = valueOf (.fin n m e) - valueOf (.fin k p q) := by
  refine ⟨2 ^ (exactSum [.fin n m e, .fin (!k) p q]).2, by positivity, ?_⟩
  rw [exactSum_mul_zpow]
  cases k <;> simp [valueOf, sub_eq_add_neg]

theorem exactSum_sub_neg :
    (exactSum [.fin n m e, .fin (!k) p q]).1 < 0 ↔ valueOf (.fin n m e) < valueOf (.fin k p q) := by
  obtain ⟨u, hu, heq⟩ := exactSum_sub n k m p e q
  rw [← sub_neg (a := valueOf _), ← heq, ← Int.cast_lt_zero (R := ℚ)]
  exact ⟨fun h => mul_neg_of_neg_of_pos h hu, fun h => neg_of_mul_neg_left h hu.le⟩

theorem exactSum_sub_eq_zero :
    (exactSum [.fin n m e, .fin (!k) p q]).1 = 0 ↔ valueOf (.fin n m e) = valueOf (.fin k p q) := by
  obtain ⟨u, hu, heq⟩ := exactSum_sub n k m p e q
  rw [← sub_eq_zero (a := valueOf _), ← heq, mul_eq_zero, or_iff_left hu.ne', Int.cast_eq_zero]

theorem orderF_fin :
    orderF (.fin n m e) (.fin k p q) =
      if valueOf (.fin n m e) < valueOf (.fin k p q) then .less
      else if valueOf (.fin n m e) = valueOf (.fin k p q) then .equal else .greater := by
  simp only [orderF, orderInt, exactSum_sub_neg, exactSum_sub_eq_zero]

end Finite

/-- Floats are unordered exactly where one is a NaN. -/
theorem orderF_eq_unordered {x y : FVal} : orderF x y = .unordered ↔ x.isNan = true ∨ y.isNan = true := by
  cases x with
  | nan g => simp [orderF, FVal.isNan]
  | inf n =>
    cases y with
    | nan g => simp [orderF, FVal.isNan]
    | inf k => cases n <;> cases k <;> decide
    | fin k p q => cases n <;> simp [orderF, FVal.isNan]
  | fin n m e =>
    cases y with
    | nan g => simp [orderF, FVal.isNan]
    | inf k => cases k <;> simp [orderF, FVal.isNan]
    | fin k p q =>
      rw [orderF_fin]
      split <;> [skip; split] <;> simp [FVal.isNan]

theorem orderF_eq_less {x y : FVal} (hx : x.isNan = false) (hy : y.isNan = false) :
    orderF x y = .less ↔ Below x y := by
  cases x with
  | nan g => cases hx
  | inf n =>
    cases y with
    | nan g => cases hy
    | inf k => cases n <;> cases k <;> simp [orderF, Below, FVal.isInf]
    | fin k p q => cases n <;> simp [orderF, Below, FVal.isInf]
  | fin n m e =>
    cases y with
    | nan g => cases hy
    | inf k => cases k <;> simp [orderF, Below, FVal.isInf]
    | fin k p q =>
      rw [orderF_fin]
      split <;> [skip; split] <;> simp_all [Below, FVal.isInf]

theorem orderF_swap (x y : FVal) : orderF x y = .greater ↔ orderF y x = .less := by
  cases x with
  | nan g => cases y <;> simp [orderF]
  | inf n =>
    cases y with
    | nan g => simp [orderF]
    | inf k => cases n <;> cases k <;> decide
    | fin k p q => cases n <;> simp [orderF]
  | fin n m e =>
    cases y with
    | nan g => simp [orderF]
    | inf k => cases k <;> simp [orderF]
    | fin k p q =>
      rw [orderF_fin, orderF_fin]
      rcases lt_trichotomy (valueOf (.fin n m e)) (valueOf (.fin k p q)) with h | h | h
      · simp [h, h.not_gt, h.ne']
      · simp [h]
      · simp [h, h.not_gt, h.ne']

theorem orderF_eq_greater {x y : FVal} (hx : x.isNan = false) (hy : y.isNan = false) :
    orderF x y = .greater ↔ Below y x := by
  rw [orderF_swap, orderF_eq_less hy hx]

/-! ### The condition codes of Table 16 -/

theorem condition_unordered (cc : BitVec 4) (h : cc.toNat < 14) : condition cc .unordered = decide (7 ≤ cc.toNat) := by
  decide +revert

theorem condition_less (cc : BitVec 4) (h : cc.toNat < 14) :
    condition cc .less = decide (cc.toNat ∈ [1, 2, 3, 6, 9, 10, 11]) := by
  decide +revert

theorem condition_greater (cc : BitVec 4) (h : cc.toNat < 14) :
    condition cc .greater = decide (cc.toNat ∈ [1, 4, 5, 6, 9, 12, 13]) := by
  decide +revert

theorem condition_equal (cc : BitVec 4) (h : cc.toNat < 14) :
    condition cc .equal = decide (cc.toNat ∈ [0, 3, 5, 6, 8, 11, 13]) := by
  decide +revert

/-- The conditions of the integer codes, of which there are six. -/
theorem condition_orderInt {cc : BitVec 4} (h : cc.toNat < 6) (a b : Int) :
    condition cc (orderInt a b) = intCondition cc a b := by
  unfold condition intCondition
  generalize cc.toNat = c at h
  rcases lt_trichotomy a b with hab | rfl | hab
  · interval_cases c <;> simp [orderInt, hab, hab.ne, hab.le, hab.not_gt, hab.not_ge]
  · interval_cases c <;> simp [orderInt]
  · interval_cases c <;> simp [orderInt, hab, hab.ne', hab.le, hab.not_gt, hab.not_ge]

/-! ### The float compare (R149) -/

/-- The invalid flag of two operands: one of them signals. -/
theorem sig_or_sig (x y : FVal) : x.sig ||| y.sig = if x = .nan true ∨ y = .nan true then Flags.nv else Flags.none := by
  by_cases hx : x = .nan true <;> by_cases hy : y = .nan true <;> simp [FVal.sig, hx, hy] <;> decide

/-- The flags of a float compare: invalid for a signalling NaN, and for any NaN under an ordered code. -/
theorem compare_flags (c : Nat) (x y : FVal) :
    (if (decide (2 ≤ c) && decide (c ≤ 5)) && (x.isNan || y.isNan) then Flags.nv else x.sig ||| y.sig) =
      if x = .nan true ∨ y = .nan true ∨ ((x.isNan = true ∨ y.isNan = true) ∧ 2 ≤ c ∧ c ≤ 5) then Flags.nv
      else Flags.none := by
  rw [sig_or_sig]
  by_cases hnan : (x.isNan = true ∨ y.isNan = true) ∧ 2 ≤ c ∧ c ≤ 5
  · rw [if_pos (by simpa using ⟨hnan.2, hnan.1⟩), if_pos (.inr (.inr hnan))]
  · rw [if_neg fun h => hnan (by simpa [and_comm] using h)]
    simp only [hnan, or_false]

theorem floatCondition_orderF {cc : BitVec 4} (h : cc.toNat < 14) (x y : FVal) :
    FloatCondition cc x y (condition cc (orderF x y),
      if (decide (2 ≤ cc.toNat) && decide (cc.toNat ≤ 5)) && (x.isNan || y.isNan) then Flags.nv else x.sig ||| y.sig) := by
  have hordered : ¬(x.isNan = true ∨ y.isNan = true) → x.isNan = false ∧ y.isNan = false := by simp
  rw [compare_flags]
  refine ⟨fun hnan => ?_, fun hnan hlt => ?_, fun hnan hgt => ?_, fun hnan hlt hgt => ?_,
    fun hinv => if_pos hinv, fun hinv => if_neg hinv⟩
  · rw [orderF_eq_unordered.mpr hnan, condition_unordered cc h]
  · obtain ⟨hx, hy⟩ := hordered hnan
    rw [(orderF_eq_less hx hy).mpr hlt, condition_less cc h]
  · obtain ⟨hx, hy⟩ := hordered hnan
    rw [(orderF_eq_greater hx hy).mpr hgt, condition_greater cc h]
  · obtain ⟨hx, hy⟩ := hordered hnan
    have heq : orderF x y = .equal := by
      cases ho : orderF x y with
      | less => exact absurd ((orderF_eq_less hx hy).mp ho) hlt
      | equal => rfl
      | greater => exact absurd ((orderF_eq_greater hx hy).mp ho) hgt
      | unordered => exact absurd (orderF_eq_unordered.mp ho) hnan
    rw [heq, condition_equal cc h]

/-- Settles O8: the compares are the shape `cmpP` over a legal pair, and `fcmp` reads Table 16 off the exact order of its
operands. -/
theorem comparesFoldTheirConditionIntoThePair : Obligations.ComparesFoldTheirConditionIntoThePair := by
  refine ⟨fun _ _ _ _ _ _ h _ => pairFolded_complementary h, ?_, ?_,
    fun _ _ _ _ _ _ h => floatCondition_orderF h _ _, ?_, ?_, ?_⟩
  · refine compares_cmpP (f := fun o _ a b => (condition o.cc (orderInt (o.ty.int a) (o.ty.int b)), Flags.none))
      (fun _ _ _ => rfl) (fun _ _ hw => (pairOk_and_cc_lt_of_wf_icmp hw).1) fun _ o _ a b hw => ?_
    rw [condition_orderInt (pairOk_and_cc_lt_of_wf_icmp hw).2, int_eq_intAt, int_eq_intAt]
    rfl
  · exact compares_cmpP (f := fun o => fcmpValue o.ty o.cc) (fun _ _ _ => rfl)
      (fun _ _ hw => (pairOk_and_cc_lt_of_cmpOk hw).1) fun _ _ _ _ _ _ => rfl
  · exact compares_cmpP (f := fun o _ a b => (decide (low 32 b < o.ty.bits) && a.testBit (low 32 b), Flags.none))
      (fun _ _ _ => rfl) (fun _ _ hw => pairOk_of_wf_btst hw) fun _ _ _ _ _ _ => rfl
  · intro s g o x hw hr
    obtain ⟨t, ht, hwp⟩ := pset_ready (g := g) hr
    refine ⟨t, _, ht, fun i _ => ?_, writesPredicates_congr hwp fun _ _ => rfl⟩
    have := pairFolded_foldPair (x.w.lane i) ((x.w.lane i).table o.tq o.q1 o.q2 o.q3) hw
    simpa only [Lane.table, Nat.mul_comm] using this
  · intro s g o x _ hr
    obtain ⟨t, ht, hwp⟩ := pmovToPred_ready hr
    exact ⟨t, _, ht, fun i _ j hj => getLsbD_pmovBits o _ _ j hj, writesPredicates_congr hwp fun _ _ => rfl⟩

end Sys2Proof.Machine

/-! ## Channels and their slices (R215) -/

namespace Sys2Proof.Machine

open Sys2Proof Sys2Proof.Claims

theorem sliceOfChannel_of_parts {d q ch : Nat} (hq : q < 6) (hch : ch < 32) :
    sliceOfChannel (32 * (6 * d + q) + ch) =
      96 * d + 12 * (if q < 3 then ch / 8 else 7 - ch / 8) + (4 * (q % 3) + ch % 8 / 2) := by
  have hstack : (32 * (6 * d + q) + ch) / 32 = 6 * d + q := by omega
  have hdie : (6 * d + q) / 6 = d := by omega
  have hlocal : (6 * d + q) % 6 = q := by omega
  have hchan : (32 * (6 * d + q) + ch) % 32 = ch := by omega
  simp only [sliceOfChannel, coreAt, hstack, hdie, hlocal, hchan]

theorem sliceOf_channel_byte {la : Nat} (chan : Nat) (h : la < 2 ^ 31) :
    sliceOf (chan * 2 ^ 31 + la) = sliceOfChannel chan := by
  rw [sliceOf, Nat.mul_comm, Nat.mul_add_div (by omega), Nat.div_eq_of_lt h, Nat.add_zero]

/-- The inverse of R215's map: the pair of channels `2k`, `2k + 1` that a slice is home to, as `k`. Rows 0 to 3 of a die belong
to its north stacks, rows 4 to 7 to its south stacks in falling order. -/
def channelPairOf (slice : Nat) : Nat :=
  let y := slice % 96 / 12
  let x := slice % 12
  96 * (slice / 96) + 16 * (3 * (y / 4) + x / 4) + 4 * (if y < 4 then y else 7 - y) + x % 4

theorem channelPairOf_of_parts {y x : Nat} (d : Nat) (hy : y < 8) (hx : x < 12) :
    channelPairOf (96 * d + 12 * y + x) =
      96 * d + 16 * (3 * (y / 4) + x / 4) + 4 * (if y < 4 then y else 7 - y) + x % 4 := by
  have hdie : (96 * d + 12 * y + x) / 96 = d := by omega
  have hrow : (96 * d + 12 * y + x) % 96 / 12 = y := by omega
  have hcol : (96 * d + 12 * y + x) % 12 = x := by omega
  simp only [channelPairOf, hdie, hrow, hcol]

theorem channel_parts (chan : Nat) :
    ∃ d q ch, q < 6 ∧ ch < 32 ∧ chan = 32 * (6 * d + q) + ch :=
  ⟨chan / 192, chan / 32 % 6, chan % 32, by omega, by omega, by omega⟩

theorem slice_parts (slice : Nat) : ∃ d y x, y < 8 ∧ x < 12 ∧ slice = 96 * d + 12 * y + x :=
  ⟨slice / 96, slice % 96 / 12, slice % 12, by omega, by omega, by omega⟩

theorem channelPairOf_sliceOfChannel (chan : Nat) : channelPairOf (sliceOfChannel chan) = chan / 2 := by
  obtain ⟨d, q, ch, hq, hch, rfl⟩ := channel_parts chan
  rw [sliceOfChannel_of_parts hq hch, channelPairOf_of_parts d (by split <;> omega) (by omega)]
  by_cases hnorth : q < 3
  · rw [if_pos hnorth, if_pos (by omega)]
    omega
  · rw [if_neg hnorth, if_neg (by omega)]
    omega

theorem sliceOfChannel_of_pair {chan slice : Nat} (h : chan / 2 = channelPairOf slice) : sliceOfChannel chan = slice := by
  obtain ⟨d, y, x, hy, hx, rfl⟩ := slice_parts slice
  rw [channelPairOf_of_parts d hy hx] at h
  by_cases hnorth : y < 4
  · rw [if_pos hnorth] at h
    have hchan : chan = 32 * (6 * d + x / 4) + (8 * y + 2 * (x % 4) + chan % 2) := by omega
    rw [hchan, sliceOfChannel_of_parts (by omega) (by omega), if_pos (by omega)]
    omega
  · rw [if_neg hnorth] at h
    have hchan : chan = 32 * (6 * d + (3 + x / 4)) + (8 * (7 - y) + 2 * (x % 4) + chan % 2) := by omega
    rw [hchan, sliceOfChannel_of_parts (by omega) (by omega), if_neg (by omega)]
    omega

theorem sliceOfChannel_eq_iff {chan slice : Nat} : sliceOfChannel chan = slice ↔ chan / 2 = channelPairOf slice :=
  ⟨fun h => h ▸ (channelPairOf_sliceOfChannel chan).symm, sliceOfChannel_of_pair⟩

theorem channelPairOf_lt {slice : Nat} (h : slice < 192) : channelPairOf slice < 192 := by
  obtain ⟨d, y, x, hy, hx, rfl⟩ := slice_parts slice
  rw [channelPairOf_of_parts d hy hx]
  split <;> omega

theorem length_filter_range_pair (k n : Nat) :
    ((List.range (2 * n)).filter fun c => c / 2 == k).length = if k < n then 2 else 0 := by
  induction n with
  | zero => simp
  | succ n ih =>
    have heven : 2 * n / 2 = n := by omega
    have hodd : (2 * n + 1) / 2 = n := by omega
    rw [show 2 * (n + 1) = 2 * n + 1 + 1 by omega, List.range_succ, List.range_succ]
    simp only [List.filter_append, List.length_append, ih, List.filter_cons, List.filter_nil, heven, hodd, beq_iff_eq]
    rcases Nat.lt_trichotomy k n with hlt | rfl | hgt
    · simp [hlt, hlt.ne', Nat.lt_succ_of_lt hlt]
    · simp
    · simp [hgt.ne, hgt.not_gt, Nat.not_lt.mpr hgt]

theorem two_channels_of_slice {slice : Nat} (h : slice < 192) :
    ((List.range 384).filter fun chan => sliceOfChannel chan == slice).length = 2 := by
  have hpair : (fun chan => sliceOfChannel chan == slice) = fun chan => chan / 2 == channelPairOf slice := by
    funext chan
    rw [Bool.eq_iff_iff, beq_iff_eq, beq_iff_eq, sliceOfChannel_eq_iff]
  rw [hpair, length_filter_range_pair _ 192, if_pos (channelPairOf_lt h)]

theorem die_sliceOfChannel (chan : Nat) : sliceOfChannel chan / 96 = chan / 192 := by
  obtain ⟨d, q, ch, hq, hch, rfl⟩ := channel_parts chan
  rw [sliceOfChannel_of_parts hq hch]
  split <;> omega

theorem sliceOfChannel_even_eq_odd (k : Nat) : sliceOfChannel (2 * k) = sliceOfChannel (2 * k + 1) := by
  rw [sliceOfChannel_eq_iff, channelPairOf_sliceOfChannel]
  omega

/-- Settles O60: R215's map read off its parts; a slice and its pair of channels determine each other, which gives the counts. -/
theorem channelsAreHomedTwoToASlice : Obligations.ChannelsAreHomedTwoToASlice := by
  refine ⟨fun d _ q hq ch hch => ⟨?_, ?_, ?_, fun la hla => sliceOf_channel_byte _ hla⟩, fun _ hs => two_channels_of_slice hs,
    fun chan _ => die_sliceOfChannel chan, fun k _ => sliceOfChannel_even_eq_odd k, rfl, rfl⟩
  · rw [sliceOfChannel_of_parts hq hch, Nat.add_assoc]
  · split <;> omega
  · omega

end Sys2Proof.Machine
